-- ==== Sys2Proof/Word.lean ====
section
/-! DEFINITION. Word.lean: the word types of the Sarord G2 and their plainest arithmetic (R2, R27, R53). -/

namespace Sys2Proof

/-- One byte of memory. -/
abbrev Byte := BitVec 8

/-- The content of a v, o or a register (R27). -/
abbrev Word := BitVec 32

/-- A 64-bit operand, an s register, an address or a PC (R27, R53). -/
abbrev DWord := BitVec 64

/-- One instruction word (R51). -/
abbrev IWord := BitVec 96

/-- A mask of lanes: bit i stands for lane i (R150). -/
abbrev Mask := BitVec 64

end Sys2Proof
end

