-- ==== Sys2Proof/Syntax.lean ====
section
/-! DEFINITION. Syntax.lean: the instructions and the device's own steps, one constructor of Instr per row of
spec/opcode_table.json. The first 149 rows have an instruction word (R59 to R77); the rest are events, whose arguments
name the object concerned and carry what the environment decides. -/

namespace Sys2Proof

/-- The header fields that every instruction word carries (R59): lookahead, guards and the flush bits. -/
structure Hd where
  la : BitVec 4
  ga : BitVec 4
  gb : BitVec 4
  gj : Bool
  fi : Bool
  fo : Bool
  deriving DecidableEq, Repr

/-- An operand field by its class (R60). `sp` is class 5, a special register number. -/
inductive Opnd where
  | v (i : BitVec 8)
  | o (i : BitVec 3)
  | a (i : BitVec 2)
  | s (i : BitVec 6)
  | p (neg : Bool) (i : BitVec 3)
  | sp (i : BitVec 9)
  | imm (i : BitVec 9)
  | absent
  deriving DecidableEq, Repr

/-- Integer types in the order of their VAR codes (R101). -/
inductive ITy where
  | i32 | n32 | i64 | n64 | i16 | n16 | i8 | n8 | b32 | b64
  deriving DecidableEq, Repr

/-- Floating-point types in the order of their VAR codes (R124). -/
inductive FTy where
  | f32 | f16x2 | bf16x2
  deriving DecidableEq, Repr

/-- Rounding modes in the order of their MOD codes (R33). -/
inductive Rm where
  | rne | rtz | rdn | rup | rna | sr
  deriving DecidableEq, Repr

/-- Integer conditions in the order of their MOD codes (R109). -/
inductive Cc where
  | eq | ne | lt | le | gt | ge
  deriving DecidableEq, Repr

/-- Floating-point conditions in the order of their MOD codes (R131). -/
inductive Fcc where
  | eq | ne | lt | le | gt | ge | num | nan
  deriving DecidableEq, Repr

/-- Combining operations of ICMP and FCMP (R65, R109). -/
inductive Lop where
  | and | or | xor
  deriving DecidableEq, Repr

/-- Types of CVT in the order of their codes (R134). -/
inductive CTy where
  | f32 | f16 | bf16 | f16x2 | bf16x2 | i8 | n8 | i16 | n16 | i32 | n32 | i64 | n64
  deriving DecidableEq, Repr

/-- The forms of MOVI in the order of their VAR codes (R104). -/
inductive MoviK where
  | b32 | i64 | n64 | hi
  deriving DecidableEq, Repr

/-- Cache hints in the order of their MOD codes (R67, R184). -/
inductive Hint where
  | dflt | ro | fresh | stream | nt
  deriving DecidableEq, Repr

/-- Orderings in the order of their codes (R67). -/
inductive Order where
  | plain | acq | rel | acqrel
  deriving DecidableEq, Repr

/-- Scopes in the order of their codes (R67, R322). -/
inductive Scope where
  | team | core | die | dev | dom | sys
  deriving DecidableEq, Repr

/-- Types of loads and stores in the order of VAR bits 2:0 (R195). -/
inductive MTy where
  | n8 | i8 | n16 | i16 | b32 | b64
  deriving DecidableEq, Repr

/-- Operations of ATOM, ATOMS and RED in the order of their VAR codes (R200). -/
inductive AOp where
  | add | min | max | and | or | xor | exch | cas | fadd | fmin | fmax | inc
  deriving DecidableEq, Repr

/-- Types of ATOM, ATOMS and RED in the order of their MOD codes (R200). -/
inductive ATy where
  | n32 | i32 | n64 | i64 | f32 | b32 | b64
  deriving DecidableEq, Repr

/-- Modes of SHFL in the order of their VAR codes (R151). -/
inductive ShMode where
  | from | lower | upper | pair
  deriving DecidableEq, Repr

/-- Forms of VOTE in the order of their VAR codes (R153). -/
inductive VoteK where
  | every | some | agree
  deriving DecidableEq, Repr

/-- Operations of GRED and GSCAN in the order of their VAR codes (R154). -/
inductive GOp where
  | add | min | max | and | or | xor
  deriving DecidableEq, Repr

/-- Types of GRED and GSCAN in the order of their X6 codes (R154). -/
inductive GTy where
  | i32 | n32 | i64 | n64 | b32 | b64 | f32
  deriving DecidableEq, Repr

/-- Forms of MEET in the order of their VAR codes (R156). -/
inductive MeetK where
  | label | reg | clr
  deriving DecidableEq, Repr

/-- Levels of PREF in the order of VAR bits 1:0 (R205). -/
inductive PLevel where
  | l1 | die | steppe
  deriving DecidableEq, Repr

/-- Advices of ADVISE in the order of their VAR codes (R218). -/
inductive Advice where
  | tlb | evict | keep
  deriving DecidableEq, Repr

/-- Types of MMA in the order of their VAR codes (R246). -/
inductive MmaK where
  | lns6 | lns6nz | bf16
  deriving DecidableEq, Repr

/-- The memory operand of an M-format word: base, index and byte offset (R66, R182). -/
structure Addr where
  base : Opnd
  idx : Opnd
  off : BitVec 24
  deriving DecidableEq, Repr

/-- One row of the opcode table. Operands stand in the order of the word's fields D, A, B, C, E. -/
inductive Instr where
  -- 0x00 to 0x24 (05_lane.md)
  | nop
  | mov (h : Hd) (t : ITy) (d a : Opnd)
  | movi (h : Hd) (k : MoviK) (d : Opnd) (imm : BitVec 32)
  | sel (h : Hd) (t : ITy) (d a b c : Opnd)
  | iadd (h : Hd) (t : ITy) (sat : Bool) (d a b : Opnd)
  | isub (h : Hd) (t : ITy) (sat : Bool) (d a b : Opnd)
  | iaddc (h : Hd) (t : ITy) (d a b c e : Opnd)
  | imul (h : Hd) (t : ITy) (sat : Bool) (d a b : Opnd)
  | imulh (h : Hd) (t : ITy) (d a b : Opnd)
  | imad (h : Hd) (t : ITy) (wide sat : Bool) (d a b c : Opnd)
  | idiv (h : Hd) (t : ITy) (d a b e : Opnd)
  | imin (h : Hd) (t : ITy) (d a b : Opnd)
  | imax (h : Hd) (t : ITy) (d a b : Opnd)
  | iabs (h : Hd) (t : ITy) (sat : Bool) (d a : Opnd)
  | ineg (h : Hd) (t : ITy) (sat : Bool) (d a : Opnd)
  | icmp (h : Hd) (t : ITy) (cc : Cc) (op : Lop) (d a b c : Opnd)
  | and (h : Hd) (t : ITy) (d a b : Opnd)
  | or (h : Hd) (t : ITy) (d a b : Opnd)
  | xor (h : Hd) (t : ITy) (d a b : Opnd)
  | not (h : Hd) (t : ITy) (d a : Opnd)
  | bool3 (h : Hd) (t : ITy) (d a b c e : Opnd)
  | shl (h : Hd) (t : ITy) (d a b : Opnd)
  | shr (h : Hd) (t : ITy) (d a b : Opnd)
  | sar (h : Hd) (t : ITy) (d a b : Opnd)
  | rot (h : Hd) (t : ITy) (right : Bool) (d a b : Opnd)
  | fsh (h : Hd) (t : ITy) (left : Bool) (d a b c : Opnd)
  | popc (h : Hd) (t : ITy) (d a : Opnd)
  | clz (h : Hd) (t : ITy) (d a : Opnd)
  | ctz (h : Hd) (t : ITy) (d a : Opnd)
  | brev (h : Hd) (t : ITy) (d a : Opnd)
  | bfx (h : Hd) (t : ITy) (d a b c : Opnd)
  | bfi (h : Hd) (t : ITy) (d a b c e : Opnd)
  | lea (h : Hd) (t : ITy) (k : BitVec 3) (d a b : Opnd)
  | pbool (h : Hd) (d a b c e : Opnd)
  | pmovGet (h : Hd) (d : Opnd)
  | pmovPut (h : Hd) (a b : Opnd)
  | srd (h : Hd) (t : ITy) (d a : Opnd)
  | swr (h : Hd) (t : ITy) (d a : Opnd)
  -- 0x30 to 0x4A (06_arithmetic.md)
  | fadd (h : Hd) (rm : Rm) (d a b : Opnd)
  | fsub (h : Hd) (rm : Rm) (d a b : Opnd)
  | fmul (h : Hd) (rm : Rm) (d a b : Opnd)
  | ffma (h : Hd) (rm : Rm) (d a b c : Opnd)
  | fmin (h : Hd) (t : FTy) (d a b : Opnd)
  | fmax (h : Hd) (t : FTy) (d a b : Opnd)
  | fabs (h : Hd) (t : FTy) (d a : Opnd)
  | fneg (h : Hd) (t : FTy) (d a : Opnd)
  | fcmp (h : Hd) (cc : Fcc) (op : Lop) (d a b c : Opnd)
  | fclass (h : Hd) (d a : Opnd)
  | frnd (h : Hd) (rm : Rm) (x : Bool) (d a : Opnd)
  | fscale (h : Hd) (rm : Rm) (d a b : Opnd)
  | pkadd (h : Hd) (t : FTy) (rm : Rm) (d a b : Opnd)
  | pkmul (h : Hd) (t : FTy) (rm : Rm) (d a b : Opnd)
  | pkfma (h : Hd) (t : FTy) (rm : Rm) (d a b c : Opnd)
  | fdot2 (h : Hd) (t : FTy) (rm : Rm) (d a b c : Opnd)
  | cvt (h : Hd) (dt st : CTy) (rm : Rm) (sat hi : Bool) (d a b : Opnd)
  | cvtlEnc (h : Hd) (d a b : Opnd)
  | cvtlDec (h : Hd) (rm : Rm) (d a b : Opnd)
  | cvtlScale (h : Hd) (d a : Opnd)
  | rcp (h : Hd) (d a : Opnd)
  | rsq (h : Hd) (d a : Opnd)
  | sqrt (h : Hd) (rm : Rm) (d a : Opnd)
  | ex2 (h : Hd) (d a : Opnd)
  | lg2 (h : Hd) (d a : Opnd)
  | rred (h : Hd) (d a : Opnd)
  | sint (h : Hd) (d a : Opnd)
  | cost (h : Hd) (d a : Opnd)
  | tanh (h : Hd) (d a : Opnd)
  -- 0x50 to 0x5A (07_group.md)
  | shfl (h : Hd) (m : ShMode) (seg : BitVec 3) (w64 : Bool) (d a b c e : Opnd)
  | bcast (h : Hd) (first w64 : Bool) (d a b c : Opnd)
  | ballot (h : Hd) (d a : Opnd)
  | vote (h : Hd) (k : VoteK) (d a : Opnd)
  | matchv (h : Hd) (same w64 : Bool) (d a e : Opnd)
  | elect (h : Hd) (d e : Opnd)
  | gred (h : Hd) (op : GOp) (t : GTy) (md : BitVec 3) (d a : Opnd)
  | gscan (h : Hd) (op : GOp) (t : GTy) (excl : Bool) (md : BitVec 3) (d a c : Opnd)
  | active (h : Hd) (grp : Bool) (d : Opnd)
  | meet (h : Hd) (k : MeetK) (a b : Opnd)
  | join (h : Hd)
  -- 0x60 to 0x69 (05_lane.md)
  | bra (h : Hd) (loff : BitVec 30) (slot : BitVec 3)
  | brx (h : Hd) (a : Opnd)
  | call (h : Hd) (d : Opnd) (loff : BitVec 30) (slot : BitVec 3)
  | callx (h : Hd) (d a : Opnd)
  | ret (h : Hd) (a : Opnd)
  | exit (h : Hd)
  | trap (h : Hd) (imm : BitVec 32)
  | tret (h : Hd)
  | region (h : Hd)
  | sleep (h : Hd) (a : Opnd)
  -- 0x70 to 0x77 (08_barrier.md; READY in 15_kernel.md)
  | bara (h : Hd) (sc : Scope) (d a b : Opnd)
  | barw (h : Hd) (sc : Scope) (a b c e : Opnd)
  | bars (h : Hd) (sc : Scope) (a b c e : Opnd)
  | monarm (h : Hd) (w64 : Bool) (ord : Order) (sc : Scope) (d : Opnd) (m : Addr)
  | waitmon (h : Hd) (d a : Opnd)
  | waitc (h : Hd) (ord : Order) (sc : Scope) (d : Opnd) (m : Addr)
  | ready (h : Hd) (sc : Scope) (a b c : Opnd)
  | ldmon (h : Hd) (w64 : Bool) (ord : Order) (sc : Scope) (d : Opnd) (m : Addr)
  -- 0x80 to 0x89 (09_access.md)
  | ld (h : Hd) (t : MTy) (scaled : Bool) (hint : Hint) (ord : Order) (sc : Scope) (d : Opnd) (m : Addr)
  | ldw (h : Hd) (t : MTy) (scaled : Bool) (hint : Hint) (ord : Order) (sc : Scope) (d : Opnd) (m : Addr)
  | st (h : Hd) (t : MTy) (scaled : Bool) (hint : Hint) (ord : Order) (sc : Scope) (d : Opnd) (m : Addr)
  | lds (h : Hd) (t : MTy) (scaled : Bool) (ord : Order) (sc : Scope) (d : Opnd) (m : Addr)
  | sts (h : Hd) (t : MTy) (scaled : Bool) (ord : Order) (sc : Scope) (d : Opnd) (m : Addr)
  | atom (h : Hd) (op : AOp) (t : ATy) (ord : Order) (sc : Scope) (d : Opnd) (m : Addr)
  | atoms (h : Hd) (op : AOp) (t : ATy) (ord : Order) (sc : Scope) (d : Opnd) (m : Addr)
  | red (h : Hd) (op : AOp) (t : ATy) (ord : Order) (sc : Scope) (d : Opnd) (m : Addr)
  | fence (h : Hd) (ord : Order) (sc : Scope)
  | pref (h : Hd) (lv : PLevel) (scaled : Bool) (hint : Hint) (m : Addr)
  -- 0xA0 to 0xA1 (10_page.md)
  | probe (h : Hd) (d : Opnd) (m : Addr)
  | advise (h : Hd) (adv : Advice) (d : Opnd) (m : Addr)
  -- 0xA8 to 0xAF (12_transfer.md)
  | btl (h : Hd) (hint : Hint) (rel : Bool) (d a b c e : Opnd)
  | bts (h : Hd) (hint : Hint) (rel : Bool) (d a b c e : Opnd)
  | twany (h : Hd) (d a b e : Opnd)
  | twall (h : Hd) (d a b e : Opnd)
  | tfirst (h : Hd) (d a e : Opnd)
  | tclr (h : Hd) (a : Opnd)
  | strq (h : Hd) (hint : Hint) (rel sfl dfl : Bool) (d a b c e : Opnd)
  | strch (h : Hd) (d a b : Opnd)
  -- 0xB0 to 0xB8 (13_tile.md)
  | tzero (h : Hd) (all : Bool) (d : Opnd)
  | mma (h : Hd) (k : MmaK) (rel : Bool) (d a b c e : Opnd)
  | mcommit (h : Hd) (d : Opnd)
  | mwait (h : Hd) (a : Opnd)
  | tld (h : Hd) (hint : Hint) (ord : Order) (sc : Scope) (d a b : Opnd)
  | tldSp (h : Hd) (d b : Opnd)
  | tst (h : Hd) (hint : Hint) (ord : Order) (sc : Scope) (d a b : Opnd)
  | tsts (h : Hd) (d b : Opnd)
  | qnt (h : Hd) (col : Bool) (d b : Opnd)
  | tstat (h : Hd) (clr : Bool) (d a : Opnd)
  -- 0xC0 to 0xCA (15, 16, 17)
  | spawn (h : Hd) (sc : Scope) (a b c : Opnd)
  | qpost (h : Hd) (sc : Scope) (d a b e : Opnd)
  | svc (h : Hd) (d a b c : Opnd)
  | svcw (h : Hd) (d a : Opnd)
  | ctxq (h : Hd) (d a : Opnd)
  -- 0xD0 to 0xDB (20, 22)
  | migrate (h : Hd) (try_ : Bool) (d a : Opnd)
  | drain (h : Hd) (d a b : Opnd)
  | lkq (h : Hd) (d a b : Opnd)
  | dsend (h : Hd) (d a b c e : Opnd)
  | ddrop (h : Hd) (a : Opnd)
  | dpull (h : Hd) (wait : Bool) (a b : Opnd)
  | dstat (h : Hd) (d a : Opnd)
  -- 0xE0 to 0xEA (24, 26)
  | sqbind (h : Hd) (d a b : Opnd)
  | sqtok (h : Hd) (draft rel : Bool) (d a b e : Opnd)
  | sqconf (h : Hd) (rel : Bool) (d a b : Opnd)
  | sqrej (h : Hd) (d a : Opnd)
  | sqrule (h : Hd) (d a b c : Opnd)
  | sqclose (h : Hd) (a : Opnd)
  | ckptReq (h : Hd) (d : Opnd)
  | ckptWait (h : Hd) (d a : Opnd)
  | ckptGen (h : Hd) (d : Opnd)
  | brk (h : Hd) (imm : BitVec 32)
  | mark (h : Hd) (imm : BitVec 32) (a : Opnd)
  -- events: issue, lanes and waits
  | quadrantIssue (core quad : Nat) (throttled : Bool)
  | regroupWindow (g : Nat)
  | resultWriteback (id : Nat)
  | waitSatisfied (g lane : Nat)
  | waitLimitExpired (g lane : Nat)
  | sleepWake (g lane : Nat)
  | barrierArrivalRecorded (g lane : Nat)
  | monitorFire (g lane : Nat)
  | monitorPoll (g lane : Nat)
  -- events: accesses, pages
  | accessBound (id : Nat)
  | accessDone (id : Nat)
  | accessCombined (id : Nat)
  | accessPerformed (id : Nat)
  | accessAcknowledged (id : Nat)
  | accessDropped (id : Nat)
  | accessFaulted (id : Nat)
  | uncorrectableData (line : Nat)
  | viewBlockWriteback (win blk : Nat)
  | walkComplete (id : Nat)
  | invalComplete (id : Nat)
  -- events: engines
  | transferUnitPerformed (id unit : Nat)
  | transferError (id : Nat)
  | transferResume (id : Nat)
  | streamerTransferComplete (id : Nat)
  | chainRecordRead (cluster chan : Nat)
  | chainWake (cluster chan : Nat)
  | streamerFault (id : Nat)
  | mmaStart (id : Nat)
  | mmaRetire (id : Nat)
  | mmaAbort (id : Nat)
  | tileOpPerformed (id : Nat)
  -- events: kernels and queues
  | teamDispatch (kernel core : Nat) (quads : List Nat)
  | teamRetire (team : Nat)
  | kernelFlushComplete (kernel : Nat)
  | spawnWrite (host ctx off : Nat) (bytes : List Byte)
  | queueEnable (host q : Nat) (cfg : DWord)
  | queueDisable (host q : Nat)
  | wridxWrite (q : Nat) (v : DWord)
  | queueReset (q : Nat)
  | recordTake (q : Nat)
  | energyCorrection (part measured : Nat)
  -- events: context commands and what follows from them
  | create (host ctx : Nat)
  | start (host ctx : Nat)
  | renew (host ctx : Nat)
  | addg (host ctx : Nat)
  | handover (host ctx : Nat)
  | release (host ctx : Nat)
  | suspend (host ctx : Nat)
  | resume (host ctx : Nat)
  | resumeg (host ctx : Nat)
  | adopt (host ctx : Nat)
  | teardown (host ctx : Nat)
  | nonce (host ctx : Nat)
  | inval (host ctx : Nat)
  | evring (host ctx : Nat)
  | evvec (host ctx : Nat)
  | eventRingHeadWrite (host : Nat) (v : DWord)
  | leaseExpiry (ctx host : Nat)
  | orphanLimit (ctx : Nat)
  | suspensionComplete (ctx : Nat)
  | teardownComplete (ctx : Nat)
  | teamPreempt (team : Nat)
  | teamRestore (team core : Nat) (quads : List Nat)
  | migrateLand (g core quad : Nat)
  -- events: partitions and windows
  | partitionEnable (host p : Nat) (ctl : DWord)
  | partitionDisable (host p : Nat)
  | partitionWattsWrite (host p : Nat) (v : DWord)
  | formatWindowEnable (host w : Nat) (ctl : DWord)
  | formatWindowDisable (host w : Nat)
  -- events: links
  | dieFrameReplay (link count : Nat)
  | dieLinkTrained (link : Nat)
  | dieLinkTrainingFailed (link : Nat)
  | timeAlign (die : Nat) (v : DWord)
  | skewDetected (die : Nat)
  | fabcfgWrite (host : Nat) (v : DWord)
  | portTrain (host port : Nat) (v : DWord)
  | portDarken (host port : Nat) (v : DWord)
  | portRelock (host port : Nat) (v : DWord)
  | portDown (host port : Nat) (v : DWord)
  | portTrainingDone (port peer lat : Nat)
  | portTrainingFailed (port : Nat)
  | portFrameFail (port : Nat)
  | portDegrade (port : Nat) (laneLost : Bool)
  | portRecover (port : Nat)
  | darkenFlit (port : Nat)
  | darkLimit (port : Nat)
  | allowanceReturn (port cls : Nat)
  | flowCongested (port src dst die : Nat)
  | congestionNotice (port src dst die : Nat)
  | flowReleased (port src dst die : Nat)
  | replyTimerExpiry (id : Nat)
  | drainMarkerComplete (id : Nat)
  -- events: Sumac
  | sumacEnable (host ctx : Nat) (ctl : DWord)
  | stubReceipt (handle : BitVec 32) (len tag : DWord) (origin sender octx : Nat) (base : DWord) (hold : Nat)
  | pullServe (hold tile : Nat)
  | tilePulled (stub tile : Nat) (data : List Byte)
  | holdRenewal (stub : Nat)
  | holdExpiry (hold : Nat)
  | dropMessage (hold : Nat)
  | stubCompletionMessage (hold : Nat)
  | lostMessage (stub : Nat)
  | renewalTimeout (stub : Nat)
  | holdLimit (id : Nat)
  | restoredHoldWindow (ctx : Nat)
  -- events: Clove
  | cloveShareWrite (host p : Nat) (v : DWord)
  | sharedRuleWrite (host p idx : Nat) (bytes : List Byte)
  | cloveIteration (seq : Nat)
  -- events: checkpoint and debug
  | checkpointEnable (host ctx : Nat) (ctl : DWord)
  | checkpointDisable (host ctx : Nat)
  | req (host ctx : Nat)
  | restore (host ctx gen : Nat)
  | boundaryBegin (ctx : Nat)
  | quiesce (ctx : Nat)
  | drained (ctx rank : Nat)
  | cut (ctx : Nat)
  | granuleCopy (ctx granule : Nat)
  | prepared (ctx : Nat)
  | commit (ctx gen : Nat)
  | commitAcknowledged (ctx rank : Nat)
  | generationDiscard (ctx : Nat)
  | flashDrain (ctx : Nat)
  | go (host p : Nat) (v : DWord)
  | debugStopReached (p : Nat)
  | replayEnd (ctx : Nat)
  -- events: system
  | flashRangeWrite (host p : Nat) (size : Bool) (v : DWord)
  | glenSensorPoll (temps : List Nat)
  | firmwareImage (image : List Byte)
  | attestationRequest (nonce : List Byte)
  | bringUp (absent : List Nat) (rot : Nat) (refl : Bool)
  | cxlMemAccess (host addr : Nat) (write : Bool) (bytes : List Byte)
  | registerWrite (host off : Nat) (v : DWord)
  | fetchLineArrival (g : Nat) (line : BitVec 512)
  | portFrameReplay (port count : Nat)
  | portStateControlFlit (dev : Nat) (peers : List Nat)
  | holdEntryRequest (octx : Nat) (base len : DWord) (dev stub : Nat) (restored : Bool)
  | renewalReachesOrigin (hold : Nat)
  | renewalAcknowledgement (stub : Nat)
  | boundaryInstantReceipt (ctx : Nat) (t : DWord)
  | dataUnitArrival (ctx rank row : Nat) (bytes : List Byte)
  | preparedReport (ctx rank : Nat)
  | garbageCollection (part q : Nat) (record : List Byte)
  | powerLoss
  | hostAttach (host : Nat) (cxl : Bool) (base size : DWord)
  | hostDetach (host : Nat)
  | glenConfiguration (hosts : BitVec 8)
  deriving DecidableEq, Repr

end Sys2Proof
end

