-- ==== Sys2Proof/WellFormed.lean ====
section
/-! DEFINITION. WellFormed.lean: which instructions an instruction word may hold: the operand classes and codes that each
entry lists (R60 to R62, R67, R68, R71, R99 and the entries). Events carry no word; they are always well formed. -/

namespace Sys2Proof

namespace Opnd

/-- A v, o, a or s register (classes 0 to 3). -/
def isReg : Opnd → Bool
  | .v _ | .o _ | .a _ | .s _ => true
  | _ => false

/-- A per-lane register (classes 0 to 2). -/
def isLane : Opnd → Bool
  | .v _ | .o _ | .a _ => true
  | _ => false

def isS : Opnd → Bool
  | .s _ => true
  | _ => false

def isImm : Opnd → Bool
  | .imm _ => true
  | _ => false

def isAbsent : Opnd → Bool
  | .absent => true
  | _ => false

/-- A predicate (class 4). -/
def isPred : Opnd → Bool
  | .p _ _ => true
  | _ => false

/-- A predicate that is not negated. -/
def isPos : Opnd → Bool
  | .p false _ => true
  | _ => false

/-- An operand of class 3, 6 or 7 (R99). -/
def uniform : Opnd → Bool
  | .s _ | .imm _ | .absent => true
  | _ => false

/-- A register that may name a 64-bit operand: an even one, or any s register (R60, R62). -/
def isReg64 : Opnd → Bool
  | .v i => i.getLsbD 0 == false
  | .o i => i.getLsbD 0 == false
  | .a i => i.getLsbD 0 == false
  | .s _ => true
  | _ => false

def isLane64 (x : Opnd) : Bool := x.isLane && x.isReg64

/-- A source of class 0 to 3 or 6. -/
def isSrc (x : Opnd) : Bool := x.isReg || x.isImm

def isSrc64 (x : Opnd) : Bool := x.isReg64 || x.isImm

/-- A register or an immediate that every lane shares (class 3 or 6). -/
def isUni (x : Opnd) : Bool := x.isS || x.isImm

/-- An immediate between lo and hi. -/
def immIn (lo hi : Int) : Opnd → Bool
  | .imm i => decide (lo ≤ i.toInt) && decide (i.toInt ≤ hi)
  | _ => false

/-- A register of width 32 or 64. -/
def isRegW (w64 : Bool) (x : Opnd) : Bool := if w64 then x.isReg64 else x.isReg

def isSrcW (w64 : Bool) (x : Opnd) : Bool := if w64 then x.isSrc64 else x.isSrc

/-- A predicate destination, or none. -/
def isPosOpt (x : Opnd) : Bool := x.isPos || x.isAbsent

end Opnd

namespace ITy

def is64 : ITy → Bool
  | .i64 | .n64 | .b64 => true
  | _ => false

def isRaw : ITy → Bool
  | .b32 | .b64 => true
  | _ => false

/-- The signed types (R27). -/
def isSigned : ITy → Bool
  | .i32 | .i64 | .i16 | .i8 => true
  | _ => false

end ITy

/-- Special registers that R75 and the owning chapters assign, with width 64 or not (R73, R75, R160, R222, R251, R407). -/
def specialWidth (i : Nat) : Option Bool :=
  if i ∈ [0x000, 0x002, 0x003, 0x004, 0x011, 0x012, 0x019, 0x02C, 0x02D, 0x058, 0x060, 0x061, 0x068, 0x069] then some true
  else if i ∈ [0x001, 0x008, 0x009, 0x00A, 0x010, 0x018, 0x01A] then some false
  else if 0x020 ≤ i ∧ i ≤ 0x02B then some false
  else if 0x040 ≤ i ∧ i ≤ 0x050 then some true
  else none

/-- Special registers that a group holds in common, so that SRD may name an s register (R115, R160, R222, R251, R407). -/
def specialCommon (i : Nat) : Bool :=
  i ∈ [0x002, 0x003, 0x004, 0x010, 0x011, 0x012, 0x058, 0x060, 0x061, 0x069] || (0x040 ≤ i && i ≤ 0x050)

/-- Special registers that SWR may name (R115). -/
def specialWritable (i : Nat) : Bool := i ∈ [0x008, 0x009, 0x00A, 0x02C]

/-- LA, FI and FO are zero (R101). -/
def Hd.plain (h : Hd) : Bool := h.la == 0 && !h.fi && !h.fo

/-- LA is free; FI and FO are zero. -/
def Hd.long (h : Hd) : Bool := !h.fi && !h.fo

/-- LA is zero; FI and FO are listed. -/
def Hd.flush (h : Hd) : Bool := h.la == 0

/-- A class 3 destination has no per-lane source (R99). -/
def uniDst (d : Opnd) (srcs : List Opnd) : Bool := !d.isS || srcs.all Opnd.uniform

/-- A memory operand with a 64-bit base and a register index (R66, R195). -/
def Addr.ok (m : Addr) : Bool := m.base.isReg64 && (m.idx.isReg || m.idx.isAbsent)

def Addr.uniform (m : Addr) : Bool := m.base.uniform && m.idx.uniform

/-- The scratchpad form: A holds the index or nothing, and B is unused (R195). -/
def Addr.okSp (m : Addr) : Bool := (m.base.isReg || m.base.isAbsent) && m.idx.isAbsent

/-- A plain ordering carries scope 0 (R192). -/
def plainScope (o : Order) (sc : Scope) : Bool := o != .plain || sc == .team

/-- Acquire or plain (R68). -/
def acqOnly (o : Order) : Bool := o == .plain || o == .acq

/-- Release or plain (R68). -/
def relOnly (o : Order) : Bool := o == .plain || o == .rel

/-- A scope of team or core, the only ones a scratchpad access allows (R193). -/
def Scope.narrow (sc : Scope) : Bool := sc == .team || sc == .core

/-- A scope of device, domain or system (R278). -/
def Scope.wide (sc : Scope) : Bool := sc == .dev || sc == .dom || sc == .sys

/-- A hint that a store or an engine takes (R193, R224). -/
def Hint.stores (x : Hint) : Bool := x == .dflt || x == .stream || x == .nt

def MTy.is64 (t : MTy) : Bool := t == .b64

/-- A type that ST and STS list (R195). -/
def MTy.stores (t : MTy) : Bool := t != .i8 && t != .i16

def ATy.is64 : ATy → Bool
  | .n64 | .i64 | .b64 => true
  | _ => false

/-- Which types an atomic operation lists (R200). -/
def AOp.lists : AOp → ATy → Bool
  | .add, t | .min, t | .max, t => t == .n32 || t == .i32 || t == .n64 || t == .i64
  | .and, t | .or, t | .xor, t | .exch, t | .cas, t => t == .b32 || t == .b64
  | .fadd, t | .fmin, t | .fmax, t => t == .f32
  | .inc, t => t == .n32 || t == .n64

def GTy.is64 : GTy → Bool
  | .i64 | .n64 | .b64 => true
  | _ => false

/-- Which types and MOD codes a group reduction lists (R154). -/
def gredOk (op : GOp) (t : GTy) (md : BitVec 3) (h : Hd) : Bool :=
  (match op with
    | .add => true
    | .min | .max => t != .b32 && t != .b64
    | .and | .or | .xor => t == .b32 || t == .b64) &&
  (match op, t with
    | .add, .f32 => decide (md.toNat ≤ 4)
    | .add, _ => decide (md.toNat ≤ 1)
    | _, _ => md == 0) &&
  (t == .f32 || (!h.fi && !h.fo))

namespace CTy

def isFloat : CTy → Bool
  | .f32 | .f16 | .bf16 | .f16x2 | .bf16x2 => true
  | _ => false

def isPacked : CTy → Bool
  | .f16x2 | .bf16x2 => true
  | _ => false

def is64 : CTy → Bool
  | .i64 | .n64 => true
  | _ => false

end CTy

/-- The combinations of types and modifiers that CVT allows (R134). -/
def cvtOk (h : Hd) (dt st : CTy) (rm : Rm) (sat hi : Bool) (d a b : Opnd) : Bool :=
  h.la == 0 && dt != st && !st.isPacked && (!dt.isPacked || st == .f32) &&
  (!hi || st == .f16 || st == .bf16) &&
  (!sat || (dt.isFloat && dt != .f32) || (!dt.isFloat && !st.isFloat)) &&
  (dt.isFloat || st.isFloat || rm == .rne) && (!h.fi || st.isFloat) && (!h.fo || dt.isFloat) &&
  (if dt.is64 then d.isLane64 else d.isLane) && (if st.is64 then a.isSrc64 else a.isSrc) &&
  (if dt.isPacked then b.isSrc else b.isAbsent)

/-- A tile operand: class 3, or an immediate from 0 to 63 (R241). -/
def isTile (x : Opnd) : Bool := x.isS || x.immIn 0 63

/-- The mould of R102 and R103 with one or two sources of type t. A used source of class 7 is an illegal encoding here: R102 says
what a class 7 field reads as, and R103 lists no source classes (DESIGN CHOICE, log 75). -/
def mould (h : Hd) (t : ITy) (d : Opnd) (srcs : List Opnd) : Bool :=
  h.plain && d.isRegW t.is64 && srcs.all (Opnd.isSrcW t.is64) && uniDst d srcs

/-- A shift: the amount in B is read as .n32 (R103). -/
def shiftOk (h : Hd) (t : ITy) (d a b : Opnd) : Bool :=
  h.plain && d.isRegW t.is64 && a.isSrcW t.is64 && b.isSrc && uniDst d [a, b]

/-- A floating-point instruction (R124). -/
def fpOk (d : Opnd) (srcs : List Opnd) : Bool := d.isLane && srcs.all Opnd.isSrc

/-- The word that holds the instruction is no illegal encoding for its operand classes and codes (R62, R67, R68). -/
def Instr.wf : Instr → Bool
  | .nop => true
  | .mov h t d a => t.isRaw && mould h t d [a]
  | .movi h k d _ => h.plain && d.isRegW (k != .b32)
  | .sel h t d a b c => t.isRaw && mould h t d [a, b] && c.isPred && uniDst d [a, b, c]
  | .iadd h t _ d a b | .isub h t _ d a b => !t.isRaw && mould h t d [a, b]
  | .iaddc h t d a b c e =>
    (t == .n32 || t == .n64) && mould h t d [a, b] && (c.isPred || c.isAbsent) && e.isPosOpt && uniDst d [a, b, c]
  | .imul h t _ d a b => !t.isRaw && t != .i8 && t != .n8 && mould h t d [a, b]
  | .imulh h t d a b => (t == .i32 || t == .n32 || t == .i64 || t == .n64) && mould h t d [a, b]
  | .imad h t wide _ d a b c =>
    (t == .i32 || t == .n32 || (!wide && (t == .i64 || t == .n64))) && h.plain &&
    d.isRegW (wide || t.is64) && a.isSrcW t.is64 && b.isSrcW t.is64 && c.isSrcW (wide || t.is64) && uniDst d [a, b, c]
  | .idiv h t d a b e =>
    (t == .i32 || t == .n32 || t == .i64 || t == .n64) && mould h t d [a, b] &&
    (e.isAbsent || e.isRegW t.is64) && uniDst e [a, b]
  | .imin h t d a b | .imax h t d a b => !t.isRaw && mould h t d [a, b]
  | .iabs h t _ d a | .ineg h t _ d a => t.isSigned && mould h t d [a]
  | .icmp h t _ _ d a b c =>
    !t.isRaw && h.plain && d.isPos && a.isSrcW t.is64 && b.isSrcW t.is64 && (c.isPred || c.isAbsent)
  | .and h t d a b | .or h t d a b | .xor h t d a b => t.isRaw && mould h t d [a, b]
  | .not h t d a => t.isRaw && mould h t d [a]
  | .bool3 h t d a b c e => t.isRaw && mould h t d [a, b, c] && e.immIn 0 255
  | .shl h t d a b | .shr h t d a b => t.isRaw && shiftOk h t d a b
  | .sar h t d a b => (t == .i32 || t == .i64) && shiftOk h t d a b
  | .rot h t _ d a b => t.isRaw && shiftOk h t d a b
  | .fsh h t _ d a b c => t.isRaw && mould h t d [a, b] && c.isSrc && uniDst d [a, b, c]
  | .popc h t d a | .clz h t d a | .ctz h t d a =>
    t.isRaw && h.plain && d.isReg && a.isSrcW t.is64 && uniDst d [a]
  | .brev h t d a => t.isRaw && mould h t d [a]
  | .bfx h t d a b c =>
    (t == .i32 || t == .n32 || t == .i64 || t == .n64) && mould h t d [a] && b.isSrc && c.isSrc && uniDst d [a, b, c]
  | .bfi h t d a b c e =>
    t.isRaw && mould h t d [a, b] && c.isSrc && e.isSrc && uniDst d [a, b, c, e]
  | .lea h t _ d a b =>
    (t == .i32 || t == .n32) && h.plain && d.isReg64 && a.isSrc64 && b.isSrc && uniDst d [a, b]
  | .pbool h d a b c e =>
    h.plain && d.isPos && (a.isPred || a.isAbsent) && (b.isPred || b.isAbsent) && (c.isPred || c.isAbsent) &&
    e.immIn 0 255
  | .pmovGet h d => h.plain && d.isLane
  | .pmovPut h a b => h.plain && a.isSrc && b.immIn 0 127
  | .srd h t d a =>
    match a with
    | .sp i => t.isRaw && h.plain && d.isRegW t.is64 && (specialWidth i.toNat).isSome &&
        (!d.isS || specialCommon i.toNat)
    | _ => false
  | .swr h t d a =>
    match d with
    | .sp i => t.isRaw && h.plain && specialWritable i.toNat && specialWidth i.toNat == some t.is64 && a.isSrcW t.is64
    | _ => false
  | .fadd h _ d a b | .fsub h _ d a b | .fmul h _ d a b | .fscale h _ d a b => h.flush && fpOk d [a, b]
  | .ffma h _ d a b c => h.flush && fpOk d [a, b, c]
  | .fmin h _ d a b | .fmax h _ d a b => h.la == 0 && !h.fo && fpOk d [a, b]
  | .fabs h _ d a | .fneg h _ d a => h.plain && fpOk d [a]
  | .fcmp h _ _ d a b c => h.la == 0 && !h.fo && d.isPos && a.isSrc && b.isSrc && (c.isPred || c.isAbsent)
  | .fclass h d a => h.plain && fpOk d [a]
  | .frnd h _ _ d a => h.la == 0 && !h.fo && fpOk d [a]
  | .pkadd h t _ d a b | .pkmul h t _ d a b => t != .f32 && h.flush && fpOk d [a, b]
  | .pkfma h t _ d a b c | .fdot2 h t _ d a b c => t != .f32 && h.flush && fpOk d [a, b, c]
  | .cvt h dt src rm sat hi d a b => cvtOk h dt src rm sat hi d a b
  | .cvtlEnc h d a b => !h.fo && fpOk d [a, b]
  | .cvtlDec h _ d a b => h.long && fpOk d [a, b]
  | .cvtlScale h d a => !h.fo && fpOk d [a]
  | .rcp _ d a | .rsq _ d a | .sqrt _ _ d a | .ex2 _ d a | .lg2 _ d a | .rred _ d a | .sint _ d a | .cost _ d a
  | .tanh _ d a => fpOk d [a]
  | .shfl h _ seg w64 d a b c e =>
    h.plain && decide (seg.toNat ≤ 5) && d.isLane && d.isRegW w64 && a.isSrcW w64 && b.isSrc &&
    (c.isSrcW w64 || c.isAbsent) && e.isPosOpt
  | .bcast h first w64 d a b c =>
    h.plain && d.isRegW w64 && a.isSrcW w64 && (if first then b.isAbsent else b.isUni) && (c.isUni || c.isAbsent)
  | .ballot h d a => h.plain && d.isReg64 && a.isPred
  | .vote h _ d a => h.plain && d.isPos && a.isPred
  | .matchv h same w64 d a e =>
    h.plain && d.isReg64 && a.isSrcW w64 && (if same then e.isPosOpt else (!d.isS && e.isAbsent))
  | .elect h d e => h.plain && d.isPos && (e.isReg || e.isAbsent)
  | .gred h op t md d a => gredOk op t md h && d.isRegW t.is64 && a.isSrcW t.is64
  | .gscan h op t _ md d a c =>
    gredOk op t md h && d.isLane && d.isRegW t.is64 && a.isSrcW t.is64 && (c.isSrcW t.is64 || c.isAbsent)
  | .active h _ d => h.plain && d.isReg64
  | .meet h k a b =>
    h.plain && (match k with
      | .label => a.isImm && b.immIn 0 4
      | .reg => a.isReg64 && b.isAbsent
      | .clr => a.isAbsent && b.isAbsent)
  | .join h | .exit h | .tret h | .region h => h.plain
  | .bra h _ slot => h.plain && decide (slot.toNat ≤ 4)
  | .brx h a | .ret h a => h.plain && a.isReg64
  | .call h d _ slot => h.plain && d.isReg64 && decide (slot.toNat ≤ 4)
  | .callx h d a => h.plain && d.isReg64 && a.isReg64 && uniDst d [a]
  | .trap h _ | .brk h _ => h.plain
  | .sleep h a => h.plain && a.isSrc
  | .bara h _ d a b =>
    h.plain && (d.isLane || d.isAbsent) && (a.isS || a.immIn 0 15) && (b.isS || b.immIn 1 64 || b.isAbsent)
  | .barw h _ a b c e =>
    h.plain && (a.isS || a.immIn 0 15) && b.isReg && (c.isUni || c.isAbsent) && e.isPosOpt
  | .bars h _ a b c e =>
    h.plain && (a.isS || a.immIn 0 15) && (b.isS || b.immIn 1 64 || b.isAbsent) && (c.isUni || c.isAbsent) &&
    e.isPosOpt
  | .monarm h w64 ord sc d m => h.plain && acqOnly ord && plainScope ord sc && d.isSrcW w64 && m.ok
  | .waitmon h d a => h.plain && d.isPosOpt && (a.isSrc || a.isAbsent)
  | .waitc h ord sc d m => h.plain && acqOnly ord && plainScope ord sc && d.isSrc64 && m.ok
  | .ready h sc a b c => h.plain && sc.wide && a.isS && b.isUni && (c.isUni || c.isAbsent)
  | .ldmon h w64 ord sc d m =>
    h.long && acqOnly ord && plainScope ord sc && d.isLane && d.isRegW w64 && m.ok
  | .ld h t _ hint ord sc d m =>
    h.long && acqOnly ord && plainScope ord sc && !(hint == .ro && ord == .acq) && d.isRegW t.is64 && m.ok &&
    (!d.isS || m.uniform)
  | .ldw h t _ hint ord sc d m =>
    h.long && acqOnly ord && plainScope ord sc && !(hint == .ro && ord == .acq) && (t == .b32 || t == .b64) &&
    d.isLane && d.isRegW t.is64 && m.base.isS && (m.idx.isUni || m.idx.isAbsent)
  | .st h t _ hint ord sc d m =>
    h.long && hint.stores && relOnly ord && plainScope ord sc && t.stores && d.isSrcW t.is64 && m.ok
  | .lds h t _ ord sc d m =>
    h.long && acqOnly ord && plainScope ord sc && sc.narrow && d.isRegW t.is64 && m.okSp && (!d.isS || m.uniform)
  | .sts h t _ ord sc d m =>
    h.long && relOnly ord && plainScope ord sc && sc.narrow && t.stores && d.isSrcW t.is64 && m.okSp
  | .atom h op t ord sc d m =>
    h.long && op.lists t && plainScope ord sc && d.isRegW t.is64 && m.base.isReg64 &&
    (if op == .cas then m.idx.isSrcW t.is64 else (m.idx.isReg || m.idx.isAbsent)) &&
    (!d.isS || (m.base.uniform && (op == .cas || m.idx.uniform)))
  | .atoms h op t ord sc d m =>
    h.long && op.lists t && plainScope ord sc && sc.narrow && d.isRegW t.is64 && (m.base.isReg || m.base.isAbsent) &&
    (if op == .cas then m.idx.isSrcW t.is64 else m.idx.isAbsent) && (!d.isS || m.base.uniform)
  | .red h op t ord sc d m =>
    h.long && op.lists t && op != .exch && op != .cas && relOnly ord && plainScope ord sc && d.isSrcW t.is64 && m.ok &&
    (!d.isS || m.uniform)
  | .fence h ord _ => h.long && ord != .plain
  | .pref h _ _ hint m => h.long && hint != .fresh && m.ok
  | .probe h d m => h.long && d.isReg64 && m.ok && (!d.isS || m.uniform)
  | .advise h _ d m => h.long && d.isSrc && m.ok
  | .btl h hint _ d a b c e | .bts h hint _ d a b c e =>
    h.plain && hint.stores && (d.isS || d.immIn 0 63) && a.isS && b.isUni && (c.isS || c.immIn 1 255) &&
    (e.isS || e.isAbsent)
  | .twany h d a b e | .twall h d a b e =>
    h.plain && (d.isReg64 || d.isAbsent) && a.isUni && (b.isUni || b.isAbsent) && e.isPosOpt
  | .tfirst h d a e => h.long && d.isReg && a.isUni && e.isPosOpt
  | .tclr h a => h.plain && a.isUni
  | .strq h hint _ sfl dfl d a b c e =>
    h.plain && hint.stores && !(sfl && dfl) && d.isS && a.isS && b.isUni && (c.isS || c.isAbsent) &&
    (e.isUni || e.isAbsent)
  | .strch h d a b => h.plain && d.isPosOpt && (a.isS || a.immIn 0 3) && b.isS
  | .tzero _ _ d => isTile d
  | .mma _ _ _ d a b c e =>
    isTile d && a.isUni && b.isUni && (c.isS || c.immIn 1 255) && (e.isS || e.isAbsent)
  | .mcommit _ d => d.isReg64 || d.isAbsent
  | .mwait _ a => a.isS || a.immIn 0 255 || a.isAbsent
  | .tld _ hint ord sc d a b =>
    hint.stores && acqOnly ord && plainScope ord sc && isTile d && a.isS && (b.isS || b.isAbsent)
  | .tldSp _ d b | .tsts _ d b | .qnt _ _ d b => isTile d && b.isUni
  | .tst _ hint ord sc d a b =>
    hint.stores && relOnly ord && plainScope ord sc && isTile d && a.isS && (b.isS || b.isAbsent)
  | .tstat _ _ d a => d.isReg64 && isTile a
  | .spawn h sc a b c =>
    h.plain && sc.wide && a.isS && (match b with | .s i => decide (i.toNat ≤ 58) | _ => false) && (c.isS || c.isAbsent)
  | .qpost h sc d a b e =>
    h.plain && sc.wide && d.isPosOpt && (a.isS || a.immIn 0 255) && b.isS && (e.isReg64 || e.isAbsent)
  | .svc h d a b c =>
    h.long && (d.isLane || d.isAbsent) && (a.isReg || a.immIn 0 255) && c.immIn 0 6 &&
    (match b with
      | .v i => i.getLsbD 0 == false && decide (i.toNat + 11 ≤ 254)
      | .absent => c.immIn 0 0
      | _ => false)
  | .svcw h d a => h.long && (d.isLane64 || d.isAbsent) && a.isReg
  | .ctxq h d a => h.plain && d.isReg64 && a.immIn 0 3
  | .migrate h _ d a => h.plain && d.isPosOpt && a.isS
  | .drain h d a b => h.plain && d.isPosOpt && a.isUni && (b.isUni || b.isAbsent)
  | .lkq h d a b =>
    h.plain && d.isReg64 && a.immIn 0 3 && (if a.immIn 0 0 then (b.isS || b.immIn 0 15) else b.isAbsent)
  | .dsend h d a b c e =>
    h.long && (d.isReg64 || d.isAbsent) && a.isS && b.isS && c.isS && (e.isUni || e.isAbsent)
  | .ddrop h a => h.long && a.isS
  | .dpull h _ a b => h.long && a.isS && (b.isS || b.isAbsent)
  | .dstat h d a => h.long && d.isReg64 && a.isS
  | .sqbind h d a b =>
    h.long && d.isReg && (a.isReg64 || a.isAbsent) && (b.isSrc64 || b.isAbsent) && uniDst d [a, b]
  | .sqtok h _ _ d a b e =>
    h.long && (d.isLane || d.isAbsent) && a.isReg && b.isSrc && (e.isLane || e.isAbsent)
  | .sqconf h _ d a b => h.long && (d.isLane || d.isAbsent) && a.isReg && (b.isReg || b.immIn 0 16)
  | .sqrej h d a => h.long && (d.isLane || d.isAbsent) && a.isReg
  | .sqrule h d a b c => h.long && d.isPosOpt && a.isReg && (b.isReg || b.immIn 0 15) && c.isReg64
  | .sqclose h a => h.long && a.isReg
  | .ckptReq h d | .ckptGen h d => h.plain && (d.isReg64 || d.isAbsent)
  | .ckptWait h d a => h.plain && (d.isReg64 || d.isAbsent) && (a.isS || a.immIn 0 255)
  | .mark h _ a => h.plain && (a.isSrc || a.isAbsent)
  | _ => true

end Sys2Proof
end

