-- ==== Sys2Proof/Decode.lean ====
section
/-! DEFINITION. Decode.lean: from the 96-bit instruction word to an instruction or a named refusal (R59 to R77), the
fetch line's fields (R51, R52), and after the decoder the encoder. -/

namespace Sys2Proof

/-- Why a word is no instruction (R71). -/
inductive DecodeError where
  | shortInput
  | unassigned
  | variant
  | reservedCode
  | operandClass
  | mustBeZero
  deriving DecidableEq, Repr

/-- The fields of the R format (R59, R66). The other formats lay their own fields over D to X6. -/
structure Raw where
  opc : BitVec 8
  var : BitVec 4
  la : BitVec 4
  ga : BitVec 4
  gb : BitVec 4
  gj : BitVec 1
  md : BitVec 3
  fi : BitVec 1
  fo : BitVec 1
  d : BitVec 12
  a : BitVec 12
  b : BitVec 12
  c : BitVec 12
  e : BitVec 12
  x6 : BitVec 6
  deriving DecidableEq, Repr

/-- The fields of a word (R59). -/
def Raw.ofWord (w : IWord) : Raw where
  opc := w.extractLsb' 88 8
  var := w.extractLsb' 84 4
  la := w.extractLsb' 80 4
  ga := w.extractLsb' 76 4
  gb := w.extractLsb' 72 4
  gj := w.extractLsb' 71 1
  md := w.extractLsb' 68 3
  fi := w.extractLsb' 67 1
  fo := w.extractLsb' 66 1
  d := w.extractLsb' 54 12
  a := w.extractLsb' 42 12
  b := w.extractLsb' 30 12
  c := w.extractLsb' 18 12
  e := w.extractLsb' 6 12
  x6 := w.extractLsb' 0 6

/-- An operand field (R60): class in bits 11:9, index in bits 8:0; an index the class does not allow is refused. -/
def Opnd.ofField (f : BitVec 12) : Except DecodeError Opnd :=
  let i := f.extractLsb' 0 9
  match (f.extractLsb' 9 3).toNat with
  | 0 => if i.toNat ≤ 255 then .ok (.v (i.setWidth 8)) else .error .operandClass
  | 1 => if i.toNat ≤ 7 then .ok (.o (i.setWidth 3)) else .error .operandClass
  | 2 => if i.toNat ≤ 3 then .ok (.a (i.setWidth 2)) else .error .operandClass
  | 3 => if i.toNat ≤ 63 then .ok (.s (i.setWidth 6)) else .error .operandClass
  | 4 => if i.extractLsb' 3 5 = 0 then .ok (.p (i.getLsbD 8) (i.setWidth 3)) else .error .operandClass
  | 5 => .ok (.sp i)
  | 6 => .ok (.imm i)
  | _ => if i = 0 then .ok .absent else .error .operandClass

/-- The value a code selects from a table. -/
def pick {α : Type} (l : List α) (n : Nat) (e : DecodeError) : Except DecodeError α :=
  match l[n]? with
  | some x => .ok x
  | none => .error e

def need (c : Bool) (e : DecodeError) : Except DecodeError Unit := if c then .ok () else .error e

def ITy.all : List ITy := [.i32, .n32, .i64, .n64, .i16, .n16, .i8, .n8, .b32, .b64]
def FTy.all : List FTy := [.f32, .f16x2, .bf16x2]
def Rm.all : List Rm := [.rne, .rtz, .rdn, .rup, .rna, .sr]
def Cc.all : List Cc := [.eq, .ne, .lt, .le, .gt, .ge]
def Fcc.all : List Fcc := [.eq, .ne, .lt, .le, .gt, .ge, .num, .nan]
def Lop.all : List Lop := [.and, .or, .xor]
def CTy.all : List CTy := [.f32, .f16, .bf16, .f16x2, .bf16x2, .i8, .n8, .i16, .n16, .i32, .n32, .i64, .n64]
def MoviK.all : List MoviK := [.b32, .i64, .n64, .hi]
def Hint.all : List Hint := [.dflt, .ro, .fresh, .stream, .nt]
def Order.all : List Order := [.plain, .acq, .rel, .acqrel]
def Scope.all : List Scope := [.team, .core, .die, .dev, .dom, .sys]
def MTy.all : List MTy := [.n8, .i8, .n16, .i16, .b32, .b64]
def AOp.all : List AOp := [.add, .min, .max, .and, .or, .xor, .exch, .cas, .fadd, .fmin, .fmax, .inc]
def ATy.all : List ATy := [.n32, .i32, .n64, .i64, .f32, .b32, .b64]
def ShMode.all : List ShMode := [.from, .lower, .upper, .pair]
def VoteK.all : List VoteK := [.every, .some, .agree]
def GOp.all : List GOp := [.add, .min, .max, .and, .or, .xor]
def GTy.all : List GTy := [.i32, .n32, .i64, .n64, .b32, .b64, .f32]
def MeetK.all : List MeetK := [.label, .reg, .clr]
def PLevel.all : List PLevel := [.l1, .die, .steppe]
def Advice.all : List Advice := [.tlb, .evict, .keep]
def MmaK.all : List MmaK := [.lns6, .lns6nz, .bf16]

namespace Raw

def hd (r : Raw) : Hd := ⟨r.la, r.ga, r.gb, r.gj == 1, r.fi == 1, r.fo == 1⟩
def D (r : Raw) : Except DecodeError Opnd := Opnd.ofField r.d
def A (r : Raw) : Except DecodeError Opnd := Opnd.ofField r.a
def B (r : Raw) : Except DecodeError Opnd := Opnd.ofField r.b
def C (r : Raw) : Except DecodeError Opnd := Opnd.ofField r.c
def E (r : Raw) : Except DecodeError Opnd := Opnd.ofField r.e

/-- The operand fields an instruction does not use hold 0xE00 (R62). -/
def unused (r : Raw) (d a b c e : Bool) : Except DecodeError Unit :=
  need ((d || r.d == 0xE00) && (a || r.a == 0xE00) && (b || r.b == 0xE00) && (c || r.c == 0xE00) &&
    (e || r.e == 0xE00)) .mustBeZero

def var0 (r : Raw) : Except DecodeError Unit := need (r.var == 0) .variant
def md0 (r : Raw) : Except DecodeError Unit := need (r.md == 0) .reservedCode
/-- X6 holds nothing above its low n bits. -/
def x6lt (r : Raw) (n : Nat) : Except DecodeError Unit := need (decide (r.x6.toNat < n)) .mustBeZero
def ity (r : Raw) : Except DecodeError ITy := pick ITy.all r.var.toNat .variant
def fty (r : Raw) : Except DecodeError FTy := pick FTy.all r.var.toNat .variant
def rm (r : Raw) : Except DecodeError Rm := pick Rm.all r.md.toNat .reservedCode
def hint (r : Raw) : Except DecodeError Hint := pick Hint.all r.md.toNat .reservedCode
/-- MOD 0 is plain and MOD 1 is .sat (R101). -/
def sat (r : Raw) : Except DecodeError Bool := do
  need (decide (r.md.toNat ≤ 1)) .reservedCode
  pure (r.md == 1)
def scope (r : Raw) : Except DecodeError Scope := pick Scope.all (r.x6.extractLsb' 0 3).toNat .reservedCode
def order (r : Raw) : Except DecodeError Order := pick Order.all (r.x6.extractLsb' 3 3).toNat .reservedCode
/-- OFF of the M format lies over C and E (R66). -/
def off (r : Raw) : BitVec 24 := r.c ++ r.e
/-- IMM32 of the I format lies over B, C and bits 11:4 of E (R66). -/
def imm32 (r : Raw) : BitVec 32 := r.b ++ r.c ++ r.e.extractLsb' 4 8
/-- X10 of the I format is zero in every entry. -/
def x10 (r : Raw) : Except DecodeError Unit := need (r.e.extractLsb' 0 4 == 0 && r.x6 == 0) .mustBeZero
/-- LOFF of the B format lies over A, B and bits 11:6 of C (R66). -/
def loff (r : Raw) : BitVec 30 := r.a ++ r.b ++ r.c.extractLsb' 6 6
def slot (r : Raw) : BitVec 3 := r.c.extractLsb' 3 3
def bTail (r : Raw) : Except DecodeError Unit :=
  need (r.c.extractLsb' 0 3 == 0 && r.e == 0 && r.x6 == 0) .mustBeZero
def addr (r : Raw) : Except DecodeError Addr := do pure ⟨← r.A, ← r.B, r.off⟩

end Raw

/-- The instruction that a word's fields name, before its operand classes are checked. -/
def Raw.build (r : Raw) : Except DecodeError Instr := do
  let h := r.hd
  match r.opc.toNat with
  | 0x00 => if r == Raw.ofWord 0 then pure .nop else throw .mustBeZero
  | 0x01 => do
    r.md0; r.x6lt 1; r.unused true true false false false
    pure (.mov h (← r.ity) (← r.D) (← r.A))
  | 0x02 => do
    r.md0; r.x10; need (r.a == 0xE00) .mustBeZero
    pure (.movi h (← pick MoviK.all r.var.toNat .variant) (← r.D) r.imm32)
  | 0x03 => do
    r.md0; r.x6lt 1; r.unused true true true true false
    pure (.sel h (← r.ity) (← r.D) (← r.A) (← r.B) (← r.C))
  | 0x04 => do
    r.x6lt 1; r.unused true true true false false
    pure (.iadd h (← r.ity) (← r.sat) (← r.D) (← r.A) (← r.B))
  | 0x05 => do
    r.x6lt 1; r.unused true true true false false
    pure (.isub h (← r.ity) (← r.sat) (← r.D) (← r.A) (← r.B))
  | 0x06 => do
    r.md0; r.x6lt 1; r.unused true true true true true
    pure (.iaddc h (← r.ity) (← r.D) (← r.A) (← r.B) (← r.C) (← r.E))
  | 0x07 => do
    r.x6lt 1; r.unused true true true false false
    pure (.imul h (← r.ity) (← r.sat) (← r.D) (← r.A) (← r.B))
  | 0x08 => do
    r.md0; r.x6lt 1; r.unused true true true false false
    pure (.imulh h (← r.ity) (← r.D) (← r.A) (← r.B))
  | 0x09 => do
    r.x6lt 2; r.unused true true true true false
    pure (.imad h (← r.ity) (r.x6 == 1) (← r.sat) (← r.D) (← r.A) (← r.B) (← r.C))
  | 0x0A => do
    r.md0; r.x6lt 1; r.unused true true true false true
    pure (.idiv h (← r.ity) (← r.D) (← r.A) (← r.B) (← r.E))
  | 0x0B => do
    r.md0; r.x6lt 1; r.unused true true true false false
    pure (.imin h (← r.ity) (← r.D) (← r.A) (← r.B))
  | 0x0C => do
    r.md0; r.x6lt 1; r.unused true true true false false
    pure (.imax h (← r.ity) (← r.D) (← r.A) (← r.B))
  | 0x0D => do
    r.x6lt 1; r.unused true true false false false
    pure (.iabs h (← r.ity) (← r.sat) (← r.D) (← r.A))
  | 0x0E => do
    r.x6lt 1; r.unused true true false false false
    pure (.ineg h (← r.ity) (← r.sat) (← r.D) (← r.A))
  | 0x0F => do
    r.unused true true true true false
    pure (.icmp h (← r.ity) (← pick Cc.all r.md.toNat .reservedCode) (← pick Lop.all r.x6.toNat .reservedCode) (← r.D) (← r.A) (← r.B) (← r.C))
  | 0x10 => do
    r.md0; r.x6lt 1; r.unused true true true false false
    pure (.and h (← r.ity) (← r.D) (← r.A) (← r.B))
  | 0x11 => do
    r.md0; r.x6lt 1; r.unused true true true false false
    pure (.or h (← r.ity) (← r.D) (← r.A) (← r.B))
  | 0x12 => do
    r.md0; r.x6lt 1; r.unused true true true false false
    pure (.xor h (← r.ity) (← r.D) (← r.A) (← r.B))
  | 0x13 => do
    r.md0; r.x6lt 1; r.unused true true false false false
    pure (.not h (← r.ity) (← r.D) (← r.A))
  | 0x14 => do
    r.md0; r.x6lt 1; r.unused true true true true true
    pure (.bool3 h (← r.ity) (← r.D) (← r.A) (← r.B) (← r.C) (← r.E))
  | 0x15 => do
    r.md0; r.x6lt 1; r.unused true true true false false
    pure (.shl h (← r.ity) (← r.D) (← r.A) (← r.B))
  | 0x16 => do
    r.md0; r.x6lt 1; r.unused true true true false false
    pure (.shr h (← r.ity) (← r.D) (← r.A) (← r.B))
  | 0x17 => do
    r.md0; r.x6lt 1; r.unused true true true false false
    pure (.sar h (← r.ity) (← r.D) (← r.A) (← r.B))
  | 0x18 => do
    r.md0; r.x6lt 2; r.unused true true true false false
    pure (.rot h (← r.ity) (r.x6 == 1) (← r.D) (← r.A) (← r.B))
  | 0x19 => do
    r.md0; r.x6lt 2; r.unused true true true true false
    pure (.fsh h (← r.ity) (r.x6 == 1) (← r.D) (← r.A) (← r.B) (← r.C))
  | 0x1A => do
    r.md0; r.x6lt 1; r.unused true true false false false
    pure (.popc h (← r.ity) (← r.D) (← r.A))
  | 0x1B => do
    r.md0; r.x6lt 1; r.unused true true false false false
    pure (.clz h (← r.ity) (← r.D) (← r.A))
  | 0x1C => do
    r.md0; r.x6lt 1; r.unused true true false false false
    pure (.ctz h (← r.ity) (← r.D) (← r.A))
  | 0x1D => do
    r.md0; r.x6lt 1; r.unused true true false false false
    pure (.brev h (← r.ity) (← r.D) (← r.A))
  | 0x1E => do
    r.md0; r.x6lt 1; r.unused true true true true false
    pure (.bfx h (← r.ity) (← r.D) (← r.A) (← r.B) (← r.C))
  | 0x1F => do
    r.md0; r.x6lt 1; r.unused true true true true true
    pure (.bfi h (← r.ity) (← r.D) (← r.A) (← r.B) (← r.C) (← r.E))
  | 0x20 => do
    r.md0; r.x6lt 8; r.unused true true true false false
    pure (.lea h (← r.ity) (r.x6.extractLsb' 0 3) (← r.D) (← r.A) (← r.B))
  | 0x21 => do
    r.var0; r.md0; r.x6lt 1; r.unused true true true true true
    pure (.pbool h (← r.D) (← r.A) (← r.B) (← r.C) (← r.E))
  | 0x22 => do
    if r.var == 0 then
      r.md0; r.x6lt 1; r.unused true false false false false
      pure (.pmovGet h (← r.D))
    else if r.var == 1 then
      r.md0; r.x6lt 1; r.unused false true true false false
      pure (.pmovPut h (← r.A) (← r.B))
    else throw .variant
  | 0x23 => do
    r.md0; r.x6lt 1; r.unused true true false false false
    pure (.srd h (← r.ity) (← r.D) (← r.A))
  | 0x24 => do
    r.md0; r.x6lt 1; r.unused true true false false false
    pure (.swr h (← r.ity) (← r.D) (← r.A))
  | 0x30 => do
    r.var0; r.x6lt 1; r.unused true true true false false
    pure (.fadd h (← r.rm) (← r.D) (← r.A) (← r.B))
  | 0x31 => do
    r.var0; r.x6lt 1; r.unused true true true false false
    pure (.fsub h (← r.rm) (← r.D) (← r.A) (← r.B))
  | 0x32 => do
    r.var0; r.x6lt 1; r.unused true true true false false
    pure (.fmul h (← r.rm) (← r.D) (← r.A) (← r.B))
  | 0x33 => do
    r.var0; r.x6lt 1; r.unused true true true true false
    pure (.ffma h (← r.rm) (← r.D) (← r.A) (← r.B) (← r.C))
  | 0x34 => do
    r.md0; r.x6lt 1; r.unused true true true false false
    pure (.fmin h (← r.fty) (← r.D) (← r.A) (← r.B))
  | 0x35 => do
    r.md0; r.x6lt 1; r.unused true true true false false
    pure (.fmax h (← r.fty) (← r.D) (← r.A) (← r.B))
  | 0x36 => do
    r.md0; r.x6lt 1; r.unused true true false false false
    pure (.fabs h (← r.fty) (← r.D) (← r.A))
  | 0x37 => do
    r.md0; r.x6lt 1; r.unused true true false false false
    pure (.fneg h (← r.fty) (← r.D) (← r.A))
  | 0x38 => do
    r.var0; r.unused true true true true false
    pure (.fcmp h (← pick Fcc.all r.md.toNat .reservedCode) (← pick Lop.all r.x6.toNat .reservedCode) (← r.D) (← r.A) (← r.B) (← r.C))
  | 0x39 => do
    r.var0; r.md0; r.x6lt 1; r.unused true true false false false
    pure (.fclass h (← r.D) (← r.A))
  | 0x3A => do
    r.var0; r.x6lt 2; r.unused true true false false false
    pure (.frnd h (← r.rm) (r.x6 == 1) (← r.D) (← r.A))
  | 0x3B => do
    r.var0; r.x6lt 1; r.unused true true true false false
    pure (.fscale h (← r.rm) (← r.D) (← r.A) (← r.B))
  | 0x3C => do
    r.x6lt 1; r.unused true true true false false
    pure (.pkadd h (← r.fty) (← r.rm) (← r.D) (← r.A) (← r.B))
  | 0x3D => do
    r.x6lt 1; r.unused true true true false false
    pure (.pkmul h (← r.fty) (← r.rm) (← r.D) (← r.A) (← r.B))
  | 0x3E => do
    r.x6lt 1; r.unused true true true true false
    pure (.pkfma h (← r.fty) (← r.rm) (← r.D) (← r.A) (← r.B) (← r.C))
  | 0x3F => do
    r.x6lt 1; r.unused true true true true false
    pure (.fdot2 h (← r.fty) (← r.rm) (← r.D) (← r.A) (← r.B) (← r.C))
  | 0x40 => do
    r.unused true true true false false
    pure (.cvt h (← pick CTy.all r.var.toNat .variant) (← pick CTy.all (r.x6.extractLsb' 0 4).toNat .reservedCode) (← r.rm) (r.x6.getLsbD 4) (r.x6.getLsbD 5) (← r.D) (← r.A) (← r.B))
  | 0x41 => do
    if r.var == 0 then
      r.md0; r.x6lt 1; r.unused true true true false false
      pure (.cvtlEnc h (← r.D) (← r.A) (← r.B))
    else if r.var == 1 then
      r.x6lt 1; r.unused true true true false false
      pure (.cvtlDec h (← r.rm) (← r.D) (← r.A) (← r.B))
    else if r.var == 2 then
      r.md0; r.x6lt 1; r.unused true true false false false
      pure (.cvtlScale h (← r.D) (← r.A))
    else throw .variant
  | 0x42 => do
    r.var0; r.md0; r.x6lt 1; r.unused true true false false false
    pure (.rcp h (← r.D) (← r.A))
  | 0x43 => do
    r.var0; r.md0; r.x6lt 1; r.unused true true false false false
    pure (.rsq h (← r.D) (← r.A))
  | 0x44 => do
    r.var0; r.x6lt 1; r.unused true true false false false
    pure (.sqrt h (← r.rm) (← r.D) (← r.A))
  | 0x45 => do
    r.var0; r.md0; r.x6lt 1; r.unused true true false false false
    pure (.ex2 h (← r.D) (← r.A))
  | 0x46 => do
    r.var0; r.md0; r.x6lt 1; r.unused true true false false false
    pure (.lg2 h (← r.D) (← r.A))
  | 0x47 => do
    r.var0; r.md0; r.x6lt 1; r.unused true true false false false
    pure (.rred h (← r.D) (← r.A))
  | 0x48 => do
    r.var0; r.md0; r.x6lt 1; r.unused true true false false false
    pure (.sint h (← r.D) (← r.A))
  | 0x49 => do
    r.var0; r.md0; r.x6lt 1; r.unused true true false false false
    pure (.cost h (← r.D) (← r.A))
  | 0x4A => do
    r.var0; r.md0; r.x6lt 1; r.unused true true false false false
    pure (.tanh h (← r.D) (← r.A))
  | 0x50 => do
    r.md0; r.x6lt 16; r.unused true true true true true
    pure (.shfl h (← pick ShMode.all r.var.toNat .variant) (r.x6.extractLsb' 1 3) (r.x6.getLsbD 0) (← r.D) (← r.A) (← r.B) (← r.C) (← r.E))
  | 0x51 => do
    need (decide (r.var.toNat ≤ 1)) .variant; r.md0; r.x6lt 2; r.unused true true true true false
    pure (.bcast h (r.var == 1) (r.x6.getLsbD 0) (← r.D) (← r.A) (← r.B) (← r.C))
  | 0x52 => do
    r.var0; r.md0; r.x6lt 1; r.unused true true false false false
    pure (.ballot h (← r.D) (← r.A))
  | 0x53 => do
    r.md0; r.x6lt 1; r.unused true true false false false
    pure (.vote h (← pick VoteK.all r.var.toNat .variant) (← r.D) (← r.A))
  | 0x54 => do
    need (decide (r.var.toNat ≤ 1)) .variant; r.md0; r.x6lt 2; r.unused true true false false true
    pure (.matchv h (r.var == 1) (r.x6.getLsbD 0) (← r.D) (← r.A) (← r.E))
  | 0x55 => do
    r.var0; r.md0; r.x6lt 1; r.unused true false false false true
    pure (.elect h (← r.D) (← r.E))
  | 0x56 => do
    r.unused true true false false false
    pure (.gred h (← pick GOp.all r.var.toNat .variant) (← pick GTy.all r.x6.toNat .reservedCode) r.md (← r.D) (← r.A))
  | 0x57 => do
    r.x6lt 32; r.unused true true false true false
    pure (.gscan h (← pick GOp.all r.var.toNat .variant) (← pick GTy.all (r.x6.extractLsb' 0 4).toNat .reservedCode) (r.x6.getLsbD 4) r.md (← r.D) (← r.A) (← r.C))
  | 0x58 => do
    need (decide (r.var.toNat ≤ 1)) .variant; r.md0; r.x6lt 1; r.unused true false false false false
    pure (.active h (r.var == 1) (← r.D))
  | 0x59 => do
    r.md0; r.x6lt 1; r.unused false true true false false
    pure (.meet h (← pick MeetK.all r.var.toNat .variant) (← r.A) (← r.B))
  | 0x5A => do
    r.var0; r.md0; r.x6lt 1; r.unused false false false false false
    pure (.join h)
  | 0x60 => do
    r.var0; r.md0; r.bTail; need (r.d == 0xE00) .mustBeZero; need (decide (r.slot.toNat ≤ 4)) .reservedCode
    pure (.bra h r.loff r.slot)
  | 0x61 => do
    r.var0; r.md0; r.x6lt 1; r.unused false true false false false
    pure (.brx h (← r.A))
  | 0x62 => do
    r.var0; r.md0; r.bTail; need (decide (r.slot.toNat ≤ 4)) .reservedCode
    pure (.call h (← r.D) r.loff r.slot)
  | 0x63 => do
    r.var0; r.md0; r.x6lt 1; r.unused true true false false false
    pure (.callx h (← r.D) (← r.A))
  | 0x64 => do
    r.var0; r.md0; r.x6lt 1; r.unused false true false false false
    pure (.ret h (← r.A))
  | 0x65 => do
    r.var0; r.md0; r.x6lt 1; r.unused false false false false false
    pure (.exit h)
  | 0x66 => do
    r.var0; r.md0; r.x10; need (r.d == 0xE00 && r.a == 0xE00) .mustBeZero
    pure (.trap h r.imm32)
  | 0x67 => do
    r.var0; r.md0; r.x6lt 1; r.unused false false false false false
    pure (.tret h)
  | 0x68 => do
    r.var0; r.md0; r.x6lt 1; r.unused false false false false false
    pure (.region h)
  | 0x69 => do
    r.var0; r.md0; r.x6lt 1; r.unused false true false false false
    pure (.sleep h (← r.A))
  | 0x70 => do
    r.var0; r.md0; r.x6lt 8; r.unused true true true false false
    pure (.bara h (← r.scope) (← r.D) (← r.A) (← r.B))
  | 0x71 => do
    r.var0; r.md0; r.x6lt 8; r.unused false true true true true
    pure (.barw h (← r.scope) (← r.A) (← r.B) (← r.C) (← r.E))
  | 0x72 => do
    r.var0; r.md0; r.x6lt 8; r.unused false true true true true
    pure (.bars h (← r.scope) (← r.A) (← r.B) (← r.C) (← r.E))
  | 0x73 => do
    need (decide (r.var.toNat ≤ 1)) .variant; r.md0
    pure (.monarm h (r.var == 1) (← r.order) (← r.scope) (← r.D) (← r.addr))
  | 0x74 => do
    r.var0; r.md0; r.x6lt 1; r.unused true true false false false
    pure (.waitmon h (← r.D) (← r.A))
  | 0x75 => do
    r.var0; r.md0
    pure (.waitc h (← r.order) (← r.scope) (← r.D) (← r.addr))
  | 0x76 => do
    r.var0; r.md0; r.x6lt 8; r.unused false true true true false
    pure (.ready h (← r.scope) (← r.A) (← r.B) (← r.C))
  | 0x77 => do
    need (decide (r.var.toNat ≤ 1)) .variant; r.md0
    pure (.ldmon h (r.var == 1) (← r.order) (← r.scope) (← r.D) (← r.addr))
  | 0x80 => do
    
    pure (.ld h (← pick MTy.all (r.var.extractLsb' 0 3).toNat .variant) (r.var.getLsbD 3) (← r.hint) (← r.order) (← r.scope) (← r.D) (← r.addr))
  | 0x81 => do
    
    pure (.ldw h (← pick MTy.all (r.var.extractLsb' 0 3).toNat .variant) (r.var.getLsbD 3) (← r.hint) (← r.order) (← r.scope) (← r.D) (← r.addr))
  | 0x82 => do
    
    pure (.st h (← pick MTy.all (r.var.extractLsb' 0 3).toNat .variant) (r.var.getLsbD 3) (← r.hint) (← r.order) (← r.scope) (← r.D) (← r.addr))
  | 0x83 => do
    r.md0
    pure (.lds h (← pick MTy.all (r.var.extractLsb' 0 3).toNat .variant) (r.var.getLsbD 3) (← r.order) (← r.scope) (← r.D) (← r.addr))
  | 0x84 => do
    r.md0
    pure (.sts h (← pick MTy.all (r.var.extractLsb' 0 3).toNat .variant) (r.var.getLsbD 3) (← r.order) (← r.scope) (← r.D) (← r.addr))
  | 0x85 => do
    
    pure (.atom h (← pick AOp.all r.var.toNat .variant) (← pick ATy.all r.md.toNat .reservedCode) (← r.order) (← r.scope) (← r.D) (← r.addr))
  | 0x86 => do
    
    pure (.atoms h (← pick AOp.all r.var.toNat .variant) (← pick ATy.all r.md.toNat .reservedCode) (← r.order) (← r.scope) (← r.D) (← r.addr))
  | 0x87 => do
    
    pure (.red h (← pick AOp.all r.var.toNat .variant) (← pick ATy.all r.md.toNat .reservedCode) (← r.order) (← r.scope) (← r.D) (← r.addr))
  | 0x88 => do
    r.var0; r.md0; need (r.d == 0xE00 && r.a == 0xE00 && r.b == 0xE00 && r.c == 0 && r.e == 0) .mustBeZero
    pure (.fence h (← r.order) (← r.scope))
  | 0x89 => do
    need (r.var.getLsbD 2 == false) .variant; need (r.d == 0xE00) .mustBeZero; r.x6lt 1
    pure (.pref h (← pick PLevel.all (r.var.extractLsb' 0 2).toNat .variant) (r.var.getLsbD 3) (← r.hint) (← r.addr))
  | 0xA0 => do
    r.var0; r.md0; r.x6lt 1
    pure (.probe h (← r.D) (← r.addr))
  | 0xA1 => do
    r.md0; r.x6lt 1
    pure (.advise h (← pick Advice.all r.var.toNat .variant) (← r.D) (← r.addr))
  | 0xA8 => do
    r.var0; r.x6lt 2; r.unused true true true true true
    pure (.btl h (← r.hint) (r.x6 == 1) (← r.D) (← r.A) (← r.B) (← r.C) (← r.E))
  | 0xA9 => do
    r.var0; r.x6lt 2; r.unused true true true true true
    pure (.bts h (← r.hint) (r.x6 == 1) (← r.D) (← r.A) (← r.B) (← r.C) (← r.E))
  | 0xAA => do
    r.var0; r.md0; r.x6lt 1; r.unused true true true false true
    pure (.twany h (← r.D) (← r.A) (← r.B) (← r.E))
  | 0xAB => do
    r.var0; r.md0; r.x6lt 1; r.unused true true true false true
    pure (.twall h (← r.D) (← r.A) (← r.B) (← r.E))
  | 0xAC => do
    r.var0; r.md0; r.x6lt 1; r.unused true true false false true
    pure (.tfirst h (← r.D) (← r.A) (← r.E))
  | 0xAD => do
    r.var0; r.md0; r.x6lt 1; r.unused false true false false false
    pure (.tclr h (← r.A))
  | 0xAE => do
    r.var0; r.x6lt 8; r.unused true true true true true
    pure (.strq h (← r.hint) (r.x6.getLsbD 0) (r.x6.getLsbD 1) (r.x6.getLsbD 2) (← r.D) (← r.A) (← r.B) (← r.C) (← r.E))
  | 0xAF => do
    r.var0; r.md0; r.x6lt 1; r.unused true true true false false
    pure (.strch h (← r.D) (← r.A) (← r.B))
  | 0xB0 => do
    need (decide (r.var.toNat ≤ 1)) .variant; r.md0; r.x6lt 1; r.unused true false false false false
    pure (.tzero h (r.var == 1) (← r.D))
  | 0xB1 => do
    r.md0; r.x6lt 2; r.unused true true true true true
    pure (.mma h (← pick MmaK.all r.var.toNat .variant) (r.x6 == 1) (← r.D) (← r.A) (← r.B) (← r.C) (← r.E))
  | 0xB2 => do
    r.var0; r.md0; r.x6lt 1; r.unused true false false false false
    pure (.mcommit h (← r.D))
  | 0xB3 => do
    r.var0; r.md0; r.x6lt 1; r.unused false true false false false
    pure (.mwait h (← r.A))
  | 0xB4 => do
    if r.var == 0 then
      r.unused true true true false false
      pure (.tld h (← r.hint) (← r.order) (← r.scope) (← r.D) (← r.A) (← r.B))
    else if r.var == 1 then
      r.md0; r.x6lt 1; r.unused true false true false false
      pure (.tldSp h (← r.D) (← r.B))
    else throw .variant
  | 0xB5 => do
    r.var0; r.unused true true true false false
    pure (.tst h (← r.hint) (← r.order) (← r.scope) (← r.D) (← r.A) (← r.B))
  | 0xB6 => do
    r.var0; r.md0; r.x6lt 1; r.unused true false true false false
    pure (.tsts h (← r.D) (← r.B))
  | 0xB7 => do
    r.var0; r.md0; r.x6lt 2; r.unused true false true false false
    pure (.qnt h (r.x6 == 1) (← r.D) (← r.B))
  | 0xB8 => do
    need (decide (r.var.toNat ≤ 1)) .variant; r.md0; r.x6lt 1; r.unused true true false false false
    pure (.tstat h (r.var == 1) (← r.D) (← r.A))
  | 0xC0 => do
    r.var0; r.md0; r.x6lt 8; r.unused false true true true false
    pure (.spawn h (← r.scope) (← r.A) (← r.B) (← r.C))
  | 0xC1 => do
    r.var0; r.md0; r.x6lt 8; r.unused true true true false true
    pure (.qpost h (← r.scope) (← r.D) (← r.A) (← r.B) (← r.E))
  | 0xC8 => do
    r.var0; r.md0; r.x6lt 1; r.unused true true true true false
    pure (.svc h (← r.D) (← r.A) (← r.B) (← r.C))
  | 0xC9 => do
    r.var0; r.md0; r.x6lt 1; r.unused true true false false false
    pure (.svcw h (← r.D) (← r.A))
  | 0xCA => do
    r.var0; r.md0; r.x6lt 1; r.unused true true false false false
    pure (.ctxq h (← r.D) (← r.A))
  | 0xD0 => do
    r.var0; r.md0; r.x6lt 2; r.unused true true false false false
    pure (.migrate h (r.x6 == 1) (← r.D) (← r.A))
  | 0xD1 => do
    r.var0; r.md0; r.x6lt 1; r.unused true true true false false
    pure (.drain h (← r.D) (← r.A) (← r.B))
  | 0xD2 => do
    r.var0; r.md0; r.x6lt 1; r.unused true true true false false
    pure (.lkq h (← r.D) (← r.A) (← r.B))
  | 0xD8 => do
    r.var0; r.md0; r.x6lt 1; r.unused true true true true true
    pure (.dsend h (← r.D) (← r.A) (← r.B) (← r.C) (← r.E))
  | 0xD9 => do
    r.var0; r.md0; r.x6lt 1; r.unused false true false false false
    pure (.ddrop h (← r.A))
  | 0xDA => do
    need (decide (r.var.toNat ≤ 1)) .variant; r.md0; r.x6lt 1; r.unused false true true false false
    pure (.dpull h (r.var == 1) (← r.A) (← r.B))
  | 0xDB => do
    r.var0; r.md0; r.x6lt 1; r.unused true true false false false
    pure (.dstat h (← r.D) (← r.A))
  | 0xE0 => do
    r.var0; r.md0; r.x6lt 1; r.unused true true true false false
    pure (.sqbind h (← r.D) (← r.A) (← r.B))
  | 0xE1 => do
    need (decide (r.var.toNat ≤ 1)) .variant; r.md0; r.x6lt 2; r.unused true true true false true
    pure (.sqtok h (r.var == 1) (r.x6 == 1) (← r.D) (← r.A) (← r.B) (← r.E))
  | 0xE2 => do
    r.var0; r.md0; r.x6lt 2; r.unused true true true false false
    pure (.sqconf h (r.x6 == 1) (← r.D) (← r.A) (← r.B))
  | 0xE3 => do
    r.var0; r.md0; r.x6lt 1; r.unused true true false false false
    pure (.sqrej h (← r.D) (← r.A))
  | 0xE4 => do
    r.var0; r.md0; r.x6lt 1; r.unused true true true true false
    pure (.sqrule h (← r.D) (← r.A) (← r.B) (← r.C))
  | 0xE5 => do
    r.var0; r.md0; r.x6lt 1; r.unused false true false false false
    pure (.sqclose h (← r.A))
  | 0xE8 => do
    if r.var == 0 then
      r.md0; r.x6lt 1; r.unused true false false false false
      pure (.ckptReq h (← r.D))
    else if r.var == 1 then
      r.md0; r.x6lt 1; r.unused true true false false false
      pure (.ckptWait h (← r.D) (← r.A))
    else if r.var == 2 then
      r.md0; r.x6lt 1; r.unused true false false false false
      pure (.ckptGen h (← r.D))
    else throw .variant
  | 0xE9 => do
    r.var0; r.md0; r.x10; need (r.d == 0xE00 && r.a == 0xE00) .mustBeZero
    pure (.brk h r.imm32)
  | 0xEA => do
    r.var0; r.md0; r.x10; need (r.d == 0xE00) .mustBeZero
    pure (.mark h r.imm32 (← r.A))
  | _ => throw .unassigned

/-- The instruction a word holds, or the first reason why it is an illegal encoding (R71, R77). -/
def decode (w : IWord) : Except DecodeError Instr := do
  let i ← (Raw.ofWord w).build
  if i.wf then pure i else throw .operandClass

/-- The little-endian number that bytes hold (R2). -/
def bytesToNat : List Byte → Nat
  | [] => 0
  | b :: r => b.toNat + 256 * bytesToNat r

/-- The n low bytes of a number, least significant first (R2). -/
def natToBytes : Nat → Nat → List Byte
  | 0, _ => []
  | n + 1, x => BitVec.ofNat 8 x :: natToBytes n (x / 256)

/-- The instruction in the first twelve bytes of a slot and the bytes that follow (R51). -/
def decodeBytes (l : List Byte) : Except DecodeError (Instr × List Byte) := do
  need (decide (12 ≤ l.length)) .shortInput
  let i ← decode (BitVec.ofNat 96 (bytesToNat (l.take 12)))
  pure (i, l.drop 12)

/-- The instruction the decoder reads from a word numbered as the opcode table numbers it: the slot's bytes hold the
bits below nbits and zeros above. -/
def decodeTableWord (nbits w : Nat) : Option Instr :=
  match decodeBytes (natToBytes 12 (w % 2 ^ nbits)) with
  | .ok (i, _) => some i
  | .error _ => none

/-- The line word's fields (R52): PAR, PLW, PAIR, TGT and the bits that must be zero. -/
structure LineWord where
  par : BitVec 5
  plw : Bool
  pair : BitVec 4
  tgt : BitVec 5
  zero : BitVec 17
  deriving DecidableEq, Repr

def LineWord.ofWord (w : BitVec 32) : LineWord where
  par := w.extractLsb' 27 5
  plw := w.getLsbD 26
  pair := w.extractLsb' 22 4
  tgt := w.extractLsb' 17 5
  zero := w.extractLsb' 0 17

/-- Whether a number's low n bits hold an odd number of ones. -/
def oddOnes : Nat → Nat → Bool
  | 0, _ => false
  | n + 1, x => xor (x % 2 == 1) (oddOnes n (x / 2))

/-- The word in slot i of a line (R51). -/
def lineSlot (line : BitVec 512) (i : Nat) : IWord := line.extractLsb' (32 + 96 * i) 96

def lineHead (line : BitVec 512) : BitVec 32 := line.extractLsb' 0 32

/-- The parity of the line word and of the five slots holds (R52, R54). -/
def lineParity (line : BitVec 512) : Bool :=
  let lw := LineWord.ofWord (lineHead line)
  !(xor (oddOnes 26 (lineHead line).toNat) lw.plw) &&
    (List.range 5).all fun i => !(xor (oddOnes 96 (lineSlot line i).toNat) (lw.par.getLsbD i))

/-! The encoder: from an instruction to its word. -/

/-- The field that names an operand (R60). -/
def Opnd.field : Opnd → BitVec 12
  | .v i => 0#4 ++ i
  | .o i => 1#3 ++ 0#6 ++ i
  | .a i => 2#3 ++ 0#7 ++ i
  | .s i => 3#3 ++ 0#3 ++ i
  | .p neg i => 4#3 ++ BitVec.ofBool neg ++ 0#5 ++ i
  | .sp i => 5#3 ++ i
  | .imm i => 6#3 ++ i
  | .absent => 0xE00

def bit1 (b : Bool) : BitVec 1 := BitVec.ofBool b
def bit4 (b : Bool) : BitVec 4 := (BitVec.ofBool b).setWidth 4
def bit6 (b : Bool) : BitVec 6 := (BitVec.ofBool b).setWidth 6
def satBit (b : Bool) : BitVec 3 := (BitVec.ofBool b).setWidth 3

def raw (opc : BitVec 8) (var : BitVec 4) (md : BitVec 3) (h : Hd) (d a b c e : BitVec 12) (x6 : BitVec 6) : Raw :=
  ⟨opc, var, h.la, h.ga, h.gb, BitVec.ofBool h.gj, md, BitVec.ofBool h.fi, BitVec.ofBool h.fo, d, a, b, c, e, x6⟩

/-- An M-format word (R66). -/
def rawM (opc : BitVec 8) (var : BitVec 4) (md : BitVec 3) (h : Hd) (d : BitVec 12) (m : Addr) (x6 : BitVec 6) : Raw :=
  raw opc var md h d m.base.field m.idx.field (m.off.extractLsb' 12 12) (m.off.extractLsb' 0 12) x6

/-- An I-format word with X10 zero (R66). -/
def rawI (opc : BitVec 8) (var : BitVec 4) (h : Hd) (d a : BitVec 12) (imm : BitVec 32) : Raw :=
  raw opc var 0 h d a (imm.extractLsb' 20 12) (imm.extractLsb' 8 12) (imm.extractLsb' 0 8 ++ 0#4) 0

/-- A B-format word (R66). -/
def rawB (opc : BitVec 8) (h : Hd) (d : BitVec 12) (loff : BitVec 30) (slot : BitVec 3) : Raw :=
  raw opc 0 0 h d (loff.extractLsb' 18 12) (loff.extractLsb' 6 12) (loff.extractLsb' 0 6 ++ slot ++ 0#3) 0 0

/-- The word that holds the fields (R59). -/
def Raw.word (r : Raw) : IWord :=
  r.opc ++ r.var ++ r.la ++ r.ga ++ r.gb ++ r.gj ++ r.md ++ r.fi ++ r.fo ++ r.d ++ r.a ++ r.b ++ r.c ++ r.e ++ r.x6

/-- The fields of the word that encodes an instruction; an event has no word. -/
def Instr.fields : Instr → Option Raw
  | .nop => some (Raw.ofWord 0)
  | .mov h t d a => some (raw 0x01 (BitVec.ofNat 4 t.ctorIdx) 0 h d.field a.field 0xE00 0xE00 0xE00 0)
  | .movi h k d imm => some (rawI 0x02 (BitVec.ofNat 4 k.ctorIdx) h d.field 0xE00 imm)
  | .sel h t d a b c => some (raw 0x03 (BitVec.ofNat 4 t.ctorIdx) 0 h d.field a.field b.field c.field 0xE00 0)
  | .iadd h t sat d a b => some (raw 0x04 (BitVec.ofNat 4 t.ctorIdx) (satBit sat) h d.field a.field b.field 0xE00 0xE00 0)
  | .isub h t sat d a b => some (raw 0x05 (BitVec.ofNat 4 t.ctorIdx) (satBit sat) h d.field a.field b.field 0xE00 0xE00 0)
  | .iaddc h t d a b c e => some (raw 0x06 (BitVec.ofNat 4 t.ctorIdx) 0 h d.field a.field b.field c.field e.field 0)
  | .imul h t sat d a b => some (raw 0x07 (BitVec.ofNat 4 t.ctorIdx) (satBit sat) h d.field a.field b.field 0xE00 0xE00 0)
  | .imulh h t d a b => some (raw 0x08 (BitVec.ofNat 4 t.ctorIdx) 0 h d.field a.field b.field 0xE00 0xE00 0)
  | .imad h t wide sat d a b c => some (raw 0x09 (BitVec.ofNat 4 t.ctorIdx) (satBit sat) h d.field a.field b.field c.field 0xE00 (bit6 wide))
  | .idiv h t d a b e => some (raw 0x0A (BitVec.ofNat 4 t.ctorIdx) 0 h d.field a.field b.field 0xE00 e.field 0)
  | .imin h t d a b => some (raw 0x0B (BitVec.ofNat 4 t.ctorIdx) 0 h d.field a.field b.field 0xE00 0xE00 0)
  | .imax h t d a b => some (raw 0x0C (BitVec.ofNat 4 t.ctorIdx) 0 h d.field a.field b.field 0xE00 0xE00 0)
  | .iabs h t sat d a => some (raw 0x0D (BitVec.ofNat 4 t.ctorIdx) (satBit sat) h d.field a.field 0xE00 0xE00 0xE00 0)
  | .ineg h t sat d a => some (raw 0x0E (BitVec.ofNat 4 t.ctorIdx) (satBit sat) h d.field a.field 0xE00 0xE00 0xE00 0)
  | .icmp h t cc op d a b c => some (raw 0x0F (BitVec.ofNat 4 t.ctorIdx) (BitVec.ofNat 3 cc.ctorIdx) h d.field a.field b.field c.field 0xE00 (BitVec.ofNat 6 op.ctorIdx))
  | .and h t d a b => some (raw 0x10 (BitVec.ofNat 4 t.ctorIdx) 0 h d.field a.field b.field 0xE00 0xE00 0)
  | .or h t d a b => some (raw 0x11 (BitVec.ofNat 4 t.ctorIdx) 0 h d.field a.field b.field 0xE00 0xE00 0)
  | .xor h t d a b => some (raw 0x12 (BitVec.ofNat 4 t.ctorIdx) 0 h d.field a.field b.field 0xE00 0xE00 0)
  | .not h t d a => some (raw 0x13 (BitVec.ofNat 4 t.ctorIdx) 0 h d.field a.field 0xE00 0xE00 0xE00 0)
  | .bool3 h t d a b c e => some (raw 0x14 (BitVec.ofNat 4 t.ctorIdx) 0 h d.field a.field b.field c.field e.field 0)
  | .shl h t d a b => some (raw 0x15 (BitVec.ofNat 4 t.ctorIdx) 0 h d.field a.field b.field 0xE00 0xE00 0)
  | .shr h t d a b => some (raw 0x16 (BitVec.ofNat 4 t.ctorIdx) 0 h d.field a.field b.field 0xE00 0xE00 0)
  | .sar h t d a b => some (raw 0x17 (BitVec.ofNat 4 t.ctorIdx) 0 h d.field a.field b.field 0xE00 0xE00 0)
  | .rot h t right d a b => some (raw 0x18 (BitVec.ofNat 4 t.ctorIdx) 0 h d.field a.field b.field 0xE00 0xE00 (bit6 right))
  | .fsh h t left d a b c => some (raw 0x19 (BitVec.ofNat 4 t.ctorIdx) 0 h d.field a.field b.field c.field 0xE00 (bit6 left))
  | .popc h t d a => some (raw 0x1A (BitVec.ofNat 4 t.ctorIdx) 0 h d.field a.field 0xE00 0xE00 0xE00 0)
  | .clz h t d a => some (raw 0x1B (BitVec.ofNat 4 t.ctorIdx) 0 h d.field a.field 0xE00 0xE00 0xE00 0)
  | .ctz h t d a => some (raw 0x1C (BitVec.ofNat 4 t.ctorIdx) 0 h d.field a.field 0xE00 0xE00 0xE00 0)
  | .brev h t d a => some (raw 0x1D (BitVec.ofNat 4 t.ctorIdx) 0 h d.field a.field 0xE00 0xE00 0xE00 0)
  | .bfx h t d a b c => some (raw 0x1E (BitVec.ofNat 4 t.ctorIdx) 0 h d.field a.field b.field c.field 0xE00 0)
  | .bfi h t d a b c e => some (raw 0x1F (BitVec.ofNat 4 t.ctorIdx) 0 h d.field a.field b.field c.field e.field 0)
  | .lea h t k d a b => some (raw 0x20 (BitVec.ofNat 4 t.ctorIdx) 0 h d.field a.field b.field 0xE00 0xE00 (k.setWidth 6))
  | .pbool h d a b c e => some (raw 0x21 0 0 h d.field a.field b.field c.field e.field 0)
  | .pmovGet h d => some (raw 0x22 0 0 h d.field 0xE00 0xE00 0xE00 0xE00 0)
  | .pmovPut h a b => some (raw 0x22 1 0 h 0xE00 a.field b.field 0xE00 0xE00 0)
  | .srd h t d a => some (raw 0x23 (BitVec.ofNat 4 t.ctorIdx) 0 h d.field a.field 0xE00 0xE00 0xE00 0)
  | .swr h t d a => some (raw 0x24 (BitVec.ofNat 4 t.ctorIdx) 0 h d.field a.field 0xE00 0xE00 0xE00 0)
  | .fadd h rm d a b => some (raw 0x30 0 (BitVec.ofNat 3 rm.ctorIdx) h d.field a.field b.field 0xE00 0xE00 0)
  | .fsub h rm d a b => some (raw 0x31 0 (BitVec.ofNat 3 rm.ctorIdx) h d.field a.field b.field 0xE00 0xE00 0)
  | .fmul h rm d a b => some (raw 0x32 0 (BitVec.ofNat 3 rm.ctorIdx) h d.field a.field b.field 0xE00 0xE00 0)
  | .ffma h rm d a b c => some (raw 0x33 0 (BitVec.ofNat 3 rm.ctorIdx) h d.field a.field b.field c.field 0xE00 0)
  | .fmin h t d a b => some (raw 0x34 (BitVec.ofNat 4 t.ctorIdx) 0 h d.field a.field b.field 0xE00 0xE00 0)
  | .fmax h t d a b => some (raw 0x35 (BitVec.ofNat 4 t.ctorIdx) 0 h d.field a.field b.field 0xE00 0xE00 0)
  | .fabs h t d a => some (raw 0x36 (BitVec.ofNat 4 t.ctorIdx) 0 h d.field a.field 0xE00 0xE00 0xE00 0)
  | .fneg h t d a => some (raw 0x37 (BitVec.ofNat 4 t.ctorIdx) 0 h d.field a.field 0xE00 0xE00 0xE00 0)
  | .fcmp h cc op d a b c => some (raw 0x38 0 (BitVec.ofNat 3 cc.ctorIdx) h d.field a.field b.field c.field 0xE00 (BitVec.ofNat 6 op.ctorIdx))
  | .fclass h d a => some (raw 0x39 0 0 h d.field a.field 0xE00 0xE00 0xE00 0)
  | .frnd h rm x d a => some (raw 0x3A 0 (BitVec.ofNat 3 rm.ctorIdx) h d.field a.field 0xE00 0xE00 0xE00 (bit6 x))
  | .fscale h rm d a b => some (raw 0x3B 0 (BitVec.ofNat 3 rm.ctorIdx) h d.field a.field b.field 0xE00 0xE00 0)
  | .pkadd h t rm d a b => some (raw 0x3C (BitVec.ofNat 4 t.ctorIdx) (BitVec.ofNat 3 rm.ctorIdx) h d.field a.field b.field 0xE00 0xE00 0)
  | .pkmul h t rm d a b => some (raw 0x3D (BitVec.ofNat 4 t.ctorIdx) (BitVec.ofNat 3 rm.ctorIdx) h d.field a.field b.field 0xE00 0xE00 0)
  | .pkfma h t rm d a b c => some (raw 0x3E (BitVec.ofNat 4 t.ctorIdx) (BitVec.ofNat 3 rm.ctorIdx) h d.field a.field b.field c.field 0xE00 0)
  | .fdot2 h t rm d a b c => some (raw 0x3F (BitVec.ofNat 4 t.ctorIdx) (BitVec.ofNat 3 rm.ctorIdx) h d.field a.field b.field c.field 0xE00 0)
  | .cvt h dt src rm sat hi d a b => some (raw 0x40 (BitVec.ofNat 4 dt.ctorIdx) (BitVec.ofNat 3 rm.ctorIdx) h d.field a.field b.field 0xE00 0xE00 ((bit1 hi ++ bit1 sat ++ BitVec.ofNat 4 src.ctorIdx : BitVec 6)))
  | .cvtlEnc h d a b => some (raw 0x41 0 0 h d.field a.field b.field 0xE00 0xE00 0)
  | .cvtlDec h rm d a b => some (raw 0x41 1 (BitVec.ofNat 3 rm.ctorIdx) h d.field a.field b.field 0xE00 0xE00 0)
  | .cvtlScale h d a => some (raw 0x41 2 0 h d.field a.field 0xE00 0xE00 0xE00 0)
  | .rcp h d a => some (raw 0x42 0 0 h d.field a.field 0xE00 0xE00 0xE00 0)
  | .rsq h d a => some (raw 0x43 0 0 h d.field a.field 0xE00 0xE00 0xE00 0)
  | .sqrt h rm d a => some (raw 0x44 0 (BitVec.ofNat 3 rm.ctorIdx) h d.field a.field 0xE00 0xE00 0xE00 0)
  | .ex2 h d a => some (raw 0x45 0 0 h d.field a.field 0xE00 0xE00 0xE00 0)
  | .lg2 h d a => some (raw 0x46 0 0 h d.field a.field 0xE00 0xE00 0xE00 0)
  | .rred h d a => some (raw 0x47 0 0 h d.field a.field 0xE00 0xE00 0xE00 0)
  | .sint h d a => some (raw 0x48 0 0 h d.field a.field 0xE00 0xE00 0xE00 0)
  | .cost h d a => some (raw 0x49 0 0 h d.field a.field 0xE00 0xE00 0xE00 0)
  | .tanh h d a => some (raw 0x4A 0 0 h d.field a.field 0xE00 0xE00 0xE00 0)
  | .shfl h m seg w64 d a b c e => some (raw 0x50 (BitVec.ofNat 4 m.ctorIdx) 0 h d.field a.field b.field c.field e.field ((0#2 ++ seg ++ bit1 w64 : BitVec 6)))
  | .bcast h first w64 d a b c => some (raw 0x51 (bit4 first) 0 h d.field a.field b.field c.field 0xE00 (bit6 w64))
  | .ballot h d a => some (raw 0x52 0 0 h d.field a.field 0xE00 0xE00 0xE00 0)
  | .vote h k d a => some (raw 0x53 (BitVec.ofNat 4 k.ctorIdx) 0 h d.field a.field 0xE00 0xE00 0xE00 0)
  | .matchv h same w64 d a e => some (raw 0x54 (bit4 same) 0 h d.field a.field 0xE00 0xE00 e.field (bit6 w64))
  | .elect h d e => some (raw 0x55 0 0 h d.field 0xE00 0xE00 0xE00 e.field 0)
  | .gred h op t md d a => some (raw 0x56 (BitVec.ofNat 4 op.ctorIdx) md h d.field a.field 0xE00 0xE00 0xE00 (BitVec.ofNat 6 t.ctorIdx))
  | .gscan h op t excl md d a c => some (raw 0x57 (BitVec.ofNat 4 op.ctorIdx) md h d.field a.field 0xE00 c.field 0xE00 ((0#1 ++ bit1 excl ++ BitVec.ofNat 4 t.ctorIdx : BitVec 6)))
  | .active h grp d => some (raw 0x58 (bit4 grp) 0 h d.field 0xE00 0xE00 0xE00 0xE00 0)
  | .meet h k a b => some (raw 0x59 (BitVec.ofNat 4 k.ctorIdx) 0 h 0xE00 a.field b.field 0xE00 0xE00 0)
  | .join h => some (raw 0x5A 0 0 h 0xE00 0xE00 0xE00 0xE00 0xE00 0)
  | .bra h loff slot => some (rawB 0x60 h 0xE00 loff slot)
  | .brx h a => some (raw 0x61 0 0 h 0xE00 a.field 0xE00 0xE00 0xE00 0)
  | .call h d loff slot => some (rawB 0x62 h d.field loff slot)
  | .callx h d a => some (raw 0x63 0 0 h d.field a.field 0xE00 0xE00 0xE00 0)
  | .ret h a => some (raw 0x64 0 0 h 0xE00 a.field 0xE00 0xE00 0xE00 0)
  | .exit h => some (raw 0x65 0 0 h 0xE00 0xE00 0xE00 0xE00 0xE00 0)
  | .trap h imm => some (rawI 0x66 0 h 0xE00 0xE00 imm)
  | .tret h => some (raw 0x67 0 0 h 0xE00 0xE00 0xE00 0xE00 0xE00 0)
  | .region h => some (raw 0x68 0 0 h 0xE00 0xE00 0xE00 0xE00 0xE00 0)
  | .sleep h a => some (raw 0x69 0 0 h 0xE00 a.field 0xE00 0xE00 0xE00 0)
  | .bara h sc d a b => some (raw 0x70 0 0 h d.field a.field b.field 0xE00 0xE00 (BitVec.ofNat 6 sc.ctorIdx))
  | .barw h sc a b c e => some (raw 0x71 0 0 h 0xE00 a.field b.field c.field e.field (BitVec.ofNat 6 sc.ctorIdx))
  | .bars h sc a b c e => some (raw 0x72 0 0 h 0xE00 a.field b.field c.field e.field (BitVec.ofNat 6 sc.ctorIdx))
  | .monarm h w64 ord sc d m => some (rawM 0x73 (bit4 w64) 0 h d.field m ((BitVec.ofNat 3 ord.ctorIdx ++ BitVec.ofNat 3 sc.ctorIdx : BitVec 6)))
  | .waitmon h d a => some (raw 0x74 0 0 h d.field a.field 0xE00 0xE00 0xE00 0)
  | .waitc h ord sc d m => some (rawM 0x75 0 0 h d.field m ((BitVec.ofNat 3 ord.ctorIdx ++ BitVec.ofNat 3 sc.ctorIdx : BitVec 6)))
  | .ready h sc a b c => some (raw 0x76 0 0 h 0xE00 a.field b.field c.field 0xE00 (BitVec.ofNat 6 sc.ctorIdx))
  | .ldmon h w64 ord sc d m => some (rawM 0x77 (bit4 w64) 0 h d.field m ((BitVec.ofNat 3 ord.ctorIdx ++ BitVec.ofNat 3 sc.ctorIdx : BitVec 6)))
  | .ld h t scaled hint ord sc d m => some (rawM 0x80 ((bit1 scaled ++ BitVec.ofNat 3 t.ctorIdx : BitVec 4)) (BitVec.ofNat 3 hint.ctorIdx) h d.field m ((BitVec.ofNat 3 ord.ctorIdx ++ BitVec.ofNat 3 sc.ctorIdx : BitVec 6)))
  | .ldw h t scaled hint ord sc d m => some (rawM 0x81 ((bit1 scaled ++ BitVec.ofNat 3 t.ctorIdx : BitVec 4)) (BitVec.ofNat 3 hint.ctorIdx) h d.field m ((BitVec.ofNat 3 ord.ctorIdx ++ BitVec.ofNat 3 sc.ctorIdx : BitVec 6)))
  | .st h t scaled hint ord sc d m => some (rawM 0x82 ((bit1 scaled ++ BitVec.ofNat 3 t.ctorIdx : BitVec 4)) (BitVec.ofNat 3 hint.ctorIdx) h d.field m ((BitVec.ofNat 3 ord.ctorIdx ++ BitVec.ofNat 3 sc.ctorIdx : BitVec 6)))
  | .lds h t scaled ord sc d m => some (rawM 0x83 ((bit1 scaled ++ BitVec.ofNat 3 t.ctorIdx : BitVec 4)) 0 h d.field m ((BitVec.ofNat 3 ord.ctorIdx ++ BitVec.ofNat 3 sc.ctorIdx : BitVec 6)))
  | .sts h t scaled ord sc d m => some (rawM 0x84 ((bit1 scaled ++ BitVec.ofNat 3 t.ctorIdx : BitVec 4)) 0 h d.field m ((BitVec.ofNat 3 ord.ctorIdx ++ BitVec.ofNat 3 sc.ctorIdx : BitVec 6)))
  | .atom h op t ord sc d m => some (rawM 0x85 (BitVec.ofNat 4 op.ctorIdx) (BitVec.ofNat 3 t.ctorIdx) h d.field m ((BitVec.ofNat 3 ord.ctorIdx ++ BitVec.ofNat 3 sc.ctorIdx : BitVec 6)))
  | .atoms h op t ord sc d m => some (rawM 0x86 (BitVec.ofNat 4 op.ctorIdx) (BitVec.ofNat 3 t.ctorIdx) h d.field m ((BitVec.ofNat 3 ord.ctorIdx ++ BitVec.ofNat 3 sc.ctorIdx : BitVec 6)))
  | .red h op t ord sc d m => some (rawM 0x87 (BitVec.ofNat 4 op.ctorIdx) (BitVec.ofNat 3 t.ctorIdx) h d.field m ((BitVec.ofNat 3 ord.ctorIdx ++ BitVec.ofNat 3 sc.ctorIdx : BitVec 6)))
  | .fence h ord sc => some (raw 0x88 0 0 h 0xE00 0xE00 0xE00 0 0 ((BitVec.ofNat 3 ord.ctorIdx ++ BitVec.ofNat 3 sc.ctorIdx : BitVec 6)))
  | .pref h lv scaled hint m => some (rawM 0x89 ((bit1 scaled ++ BitVec.ofNat 3 lv.ctorIdx : BitVec 4)) (BitVec.ofNat 3 hint.ctorIdx) h 0xE00 m 0)
  | .probe h d m => some (rawM 0xA0 0 0 h d.field m 0)
  | .advise h adv d m => some (rawM 0xA1 (BitVec.ofNat 4 adv.ctorIdx) 0 h d.field m 0)
  | .btl h hint rel d a b c e => some (raw 0xA8 0 (BitVec.ofNat 3 hint.ctorIdx) h d.field a.field b.field c.field e.field (bit6 rel))
  | .bts h hint rel d a b c e => some (raw 0xA9 0 (BitVec.ofNat 3 hint.ctorIdx) h d.field a.field b.field c.field e.field (bit6 rel))
  | .twany h d a b e => some (raw 0xAA 0 0 h d.field a.field b.field 0xE00 e.field 0)
  | .twall h d a b e => some (raw 0xAB 0 0 h d.field a.field b.field 0xE00 e.field 0)
  | .tfirst h d a e => some (raw 0xAC 0 0 h d.field a.field 0xE00 0xE00 e.field 0)
  | .tclr h a => some (raw 0xAD 0 0 h 0xE00 a.field 0xE00 0xE00 0xE00 0)
  | .strq h hint rel sfl dfl d a b c e => some (raw 0xAE 0 (BitVec.ofNat 3 hint.ctorIdx) h d.field a.field b.field c.field e.field ((0#3 ++ bit1 dfl ++ bit1 sfl ++ bit1 rel : BitVec 6)))
  | .strch h d a b => some (raw 0xAF 0 0 h d.field a.field b.field 0xE00 0xE00 0)
  | .tzero h all d => some (raw 0xB0 (bit4 all) 0 h d.field 0xE00 0xE00 0xE00 0xE00 0)
  | .mma h k rel d a b c e => some (raw 0xB1 (BitVec.ofNat 4 k.ctorIdx) 0 h d.field a.field b.field c.field e.field (bit6 rel))
  | .mcommit h d => some (raw 0xB2 0 0 h d.field 0xE00 0xE00 0xE00 0xE00 0)
  | .mwait h a => some (raw 0xB3 0 0 h 0xE00 a.field 0xE00 0xE00 0xE00 0)
  | .tld h hint ord sc d a b => some (raw 0xB4 0 (BitVec.ofNat 3 hint.ctorIdx) h d.field a.field b.field 0xE00 0xE00 ((BitVec.ofNat 3 ord.ctorIdx ++ BitVec.ofNat 3 sc.ctorIdx : BitVec 6)))
  | .tldSp h d b => some (raw 0xB4 1 0 h d.field 0xE00 b.field 0xE00 0xE00 0)
  | .tst h hint ord sc d a b => some (raw 0xB5 0 (BitVec.ofNat 3 hint.ctorIdx) h d.field a.field b.field 0xE00 0xE00 ((BitVec.ofNat 3 ord.ctorIdx ++ BitVec.ofNat 3 sc.ctorIdx : BitVec 6)))
  | .tsts h d b => some (raw 0xB6 0 0 h d.field 0xE00 b.field 0xE00 0xE00 0)
  | .qnt h col d b => some (raw 0xB7 0 0 h d.field 0xE00 b.field 0xE00 0xE00 (bit6 col))
  | .tstat h clr d a => some (raw 0xB8 (bit4 clr) 0 h d.field a.field 0xE00 0xE00 0xE00 0)
  | .spawn h sc a b c => some (raw 0xC0 0 0 h 0xE00 a.field b.field c.field 0xE00 (BitVec.ofNat 6 sc.ctorIdx))
  | .qpost h sc d a b e => some (raw 0xC1 0 0 h d.field a.field b.field 0xE00 e.field (BitVec.ofNat 6 sc.ctorIdx))
  | .svc h d a b c => some (raw 0xC8 0 0 h d.field a.field b.field c.field 0xE00 0)
  | .svcw h d a => some (raw 0xC9 0 0 h d.field a.field 0xE00 0xE00 0xE00 0)
  | .ctxq h d a => some (raw 0xCA 0 0 h d.field a.field 0xE00 0xE00 0xE00 0)
  | .migrate h try_ d a => some (raw 0xD0 0 0 h d.field a.field 0xE00 0xE00 0xE00 (bit6 try_))
  | .drain h d a b => some (raw 0xD1 0 0 h d.field a.field b.field 0xE00 0xE00 0)
  | .lkq h d a b => some (raw 0xD2 0 0 h d.field a.field b.field 0xE00 0xE00 0)
  | .dsend h d a b c e => some (raw 0xD8 0 0 h d.field a.field b.field c.field e.field 0)
  | .ddrop h a => some (raw 0xD9 0 0 h 0xE00 a.field 0xE00 0xE00 0xE00 0)
  | .dpull h wait a b => some (raw 0xDA (bit4 wait) 0 h 0xE00 a.field b.field 0xE00 0xE00 0)
  | .dstat h d a => some (raw 0xDB 0 0 h d.field a.field 0xE00 0xE00 0xE00 0)
  | .sqbind h d a b => some (raw 0xE0 0 0 h d.field a.field b.field 0xE00 0xE00 0)
  | .sqtok h draft rel d a b e => some (raw 0xE1 (bit4 draft) 0 h d.field a.field b.field 0xE00 e.field (bit6 rel))
  | .sqconf h rel d a b => some (raw 0xE2 0 0 h d.field a.field b.field 0xE00 0xE00 (bit6 rel))
  | .sqrej h d a => some (raw 0xE3 0 0 h d.field a.field 0xE00 0xE00 0xE00 0)
  | .sqrule h d a b c => some (raw 0xE4 0 0 h d.field a.field b.field c.field 0xE00 0)
  | .sqclose h a => some (raw 0xE5 0 0 h 0xE00 a.field 0xE00 0xE00 0xE00 0)
  | .ckptReq h d => some (raw 0xE8 0 0 h d.field 0xE00 0xE00 0xE00 0xE00 0)
  | .ckptWait h d a => some (raw 0xE8 1 0 h d.field a.field 0xE00 0xE00 0xE00 0)
  | .ckptGen h d => some (raw 0xE8 2 0 h d.field 0xE00 0xE00 0xE00 0xE00 0)
  | .brk h imm => some (rawI 0xE9 0 h 0xE00 0xE00 imm)
  | .mark h imm a => some (rawI 0xEA 0 h 0xE00 a.field imm)
  | _ => none

/-- The word that encodes an instruction. -/
def encode (i : Instr) : Option IWord := i.fields.map Raw.word

end Sys2Proof
end

