-- ==== Sys2Proof/Config.lean ====
section
/-! DEFINITION. Config.lean: what the manual leaves open (free values, with no body, so that nothing can be proved of
them) and the constants it fixes for the implementation. Each free value is marked in the assumption log. -/

namespace Sys2Proof.Config

/-- Which of the device's own steps happens next when several could (R18, R226, R242, R331: no order is given). Log 3. -/
opaque freeChoice : Nat → Nat

/-- Whether a fetch or an engine that meets a page is served by a TLB that still holds a translation of it, or by a walk (R211,
R212). The first argument counts the free choices made so far. Log 77. -/
opaque cachedEntry : Nat → BitVec 64 → Bool

/-- Whether a cache on the near side of a die link serves an access of a device line while the link retrains (R15, R333). The first
argument counts the free choices made so far. Log 3. -/
opaque nearLine : Nat → Nat → Bool

/-- The bank of a team's scratchpad that holds an offset (R190). Log 81. -/
opaque scratchBank : Nat → Nat

/-- Which of the results within the bounds of R36 a special function returns; a fixed function of its input bits (R138).
The first argument is the opcode. Log 12. -/
opaque specialResult : Nat → BitVec 32 → Nat

/-- A new adoption nonce (R305). Log 13. -/
opaque adoptionNonce : Nat → BitVec 128

/-- Greavazin's key, fused into Glen (R431). Log 13. -/
opaque fusedKey : List Byte

/-- The signed measurements that answer an attestation request (R432). Log 13. -/
opaque attestationAnswer : List Byte → List Byte → List Byte

/-- The offset of a team's save record in the save pool (R306: the order belongs to the firmware version). Log 14. -/
opaque saveOffset : Nat → BitVec 64

/-- Where a generation's directory lies in the checkpoint reserve (R400: the order of units within a row's reserve is not
given). Log 20. -/
opaque directoryOffset : Nat → BitVec 64

/-- Compute dies (R1, R8). -/
def dies : Nat := 8

/-- Cores of a die (R8). -/
def coresPerDie : Nat := 24

/-- Cores of the package (R1). -/
def cores : Nat := dies * coresPerDie

/-- Bytes of one stack (R8, R10). -/
def stackBytes : Nat := 48 * 2 ^ 30

/-- Bytes of device memory (R1, R10). -/
def deviceBytes : Nat := dies * stackBytes

/-- Bytes of the module's flash: 8 TB (R1, R426). -/
def flashBytes : Nat := 8 * 10 ^ 12

/-- Base and span of a format window's aperture (R215). -/
def apertureBase : Nat := 0x100_0000_0000
def apertureSpan : Nat := 0x10_0000_0000

/-- Accesses a group may hold counted in FAR (R180). -/
def farLimit : Nat := 2048

/-- Lines of a core's L1: 256 KiB (R11). -/
def l1Lines : Nat := 4096

/-- Entries of a core's first-level TLB, and of a die's second level (R8, R11, R211). -/
def tlb1 : Nat := 384
def tlb2 : Nat := 16384

/-- Operations a core's tile queue holds (R247). -/
def tileQueue : Nat := 32

end Sys2Proof.Config
end

