-- ==== Sys2Proof/Machine/Flags.lean ====
section
/-! DEFINITION. Machine/Flags.lean: the floating-point formats, rounding and the exception flags (R30 to R36, R125 to R140).
Values are exact: a significand and a power of two. The flags stand in the order of %fpst (R139). -/

namespace Sys2Proof.Machine

/-- A value of an IEEE format (R30): a NaN, an infinity, or (-1)^neg times m times 2^e exactly. -/
inductive Num where
  | nan (signalling : Bool)
  | inf (neg : Bool)
  | fin (neg : Bool) (m : Nat) (e : Int)
  deriving DecidableEq, Repr

/-- A format by its exponent and fraction widths (R30). -/
structure Fmt where
  eb : Nat
  fb : Nat
  deriving DecidableEq, Repr

def Fmt.f32 : Fmt := ⟨8, 23⟩
def Fmt.f16 : Fmt := ⟨5, 10⟩
def Fmt.bf16 : Fmt := ⟨8, 7⟩

def Fmt.bias (f : Fmt) : Nat := 2 ^ (f.eb - 1) - 1

/-- The exponent of the least significant bit of a subnormal. -/
def Fmt.emin (f : Fmt) : Int := 1 - (f.bias : Int) - (f.fb : Int)

/-- Exception bits in the layout of %fpst (R139). -/
abbrev Exc := BitVec 6
def Exc.nv : Exc := 1
def Exc.dz : Exc := 2
def Exc.of : Exc := 4
def Exc.uf : Exc := 8
def Exc.nx : Exc := 16
def Exc.di : Exc := 32

/-- Number of bits of n: floor(log2 n) + 1, and 0 for 0. -/
def bitLen (n : Nat) : Nat := if n = 0 then 0 else Nat.log2 n + 1

def Fmt.signBit (f : Fmt) (neg : Bool) : Nat := if neg then 2 ^ (f.eb + f.fb) else 0

/-- The bits of an infinity, of the canonical NaN and of the largest finite value (R30, R31). -/
def Fmt.infBits (f : Fmt) (neg : Bool) : Nat := f.signBit neg + (2 ^ f.eb - 1) * 2 ^ f.fb
def Fmt.nanBits (f : Fmt) : Nat := (2 ^ f.eb - 1) * 2 ^ f.fb + 2 ^ (f.fb - 1)
def Fmt.maxBits (f : Fmt) (neg : Bool) : Nat := f.infBits neg - 1

/-- Read bits as a value of the format (R30). -/
def Fmt.decode (f : Fmt) (bits : Nat) : Num :=
  let neg := bits.testBit (f.eb + f.fb)
  let ex := bits / 2 ^ f.fb % 2 ^ f.eb
  let fr := bits % 2 ^ f.fb
  if ex = 2 ^ f.eb - 1 then (if fr = 0 then .inf neg else .nan (fr < 2 ^ (f.fb - 1)))
  else if ex = 0 then .fin neg fr f.emin
  else .fin neg (fr + 2 ^ f.fb) (f.emin + (ex : Int) - 1)

/-- A nonzero value below the smallest normal. -/
def Fmt.isSub (f : Fmt) (bits : Nat) : Bool := bits / 2 ^ f.fb % 2 ^ f.eb == 0 && bits % 2 ^ f.fb != 0

/-- The input flush of FI, and whether it flushed (R32, R139 DI). -/
def Fmt.flushIn (f : Fmt) (fi : Bool) (bits : Nat) : Nat × Exc :=
  if fi && f.isSub bits then (f.signBit (bits.testBit (f.eb + f.fb)), Exc.di) else (bits, 0)

/-- m / 2^d rounded to an integer in a mode, for a value of the given sign, and whether it differs (R33, R34).
`r` is the draw of SRNext. -/
def roundInt (rm : Rm) (r : Nat) (neg : Bool) (m d : Nat) : Nat × Bool :=
  let q := m / 2 ^ d
  let rem := m % 2 ^ d
  if rem = 0 then (q, false)
  else
    let up := match rm with
      | .rne => decide (2 ^ d < 2 * rem) || (decide (2 * rem = 2 ^ d) && q % 2 == 1)
      | .rtz => false
      | .rdn => neg
      | .rup => !neg
      | .rna => decide (2 ^ d ≤ 2 * rem)
      | .sr => (decide (2 ^ 32 ≤ (if neg then 2 ^ d - rem else rem) * 2 ^ 32 / 2 ^ d + r)) != neg
    (if up then q + 1 else q, true)

/-- Round m times 2^e to an integer multiple of 2^u; zero is exact. A value far below 2^u is first replaced by one that every
mode rounds alike. -/
def roundUnit (rm : Rm) (r : Nat) (neg : Bool) (m : Nat) (e u : Int) : Nat × Bool :=
  if m = 0 then (0, false)
  else if u ≤ e then (m * 2 ^ (e - u).toNat, false)
  else
    let d := (u - e).toNat
    if bitLen m + 64 < d then roundInt rm r neg 1 64 else roundInt rm r neg m d

/-- The result of an overflow (R33). -/
def Fmt.overflow (f : Fmt) (rm : Rm) (neg : Bool) : Nat :=
  match rm with
  | .rne | .rna | .sr => f.infBits neg
  | .rtz => f.maxBits neg
  | .rdn => if neg then f.infBits neg else f.maxBits neg
  | .rup => if neg then f.maxBits neg else f.infBits neg

/-- Round a nonzero exact value (R33, R34) and raise overflow, underflow and inexact (R126). -/
def Fmt.round (f : Fmt) (rm : Rm) (r : Nat) (neg : Bool) (m : Nat) (e : Int) : Nat × Exc :=
  let p : Int := (f.fb : Int) + 1
  let free : Int := (bitLen m : Int) + e - p
  let u : Int := if free < f.emin then f.emin else free
  let q := roundUnit rm r neg m e u
  let t := roundUnit rm r neg m e free
  let tiny := decide ((bitLen t.1 : Int) + free < f.emin + p)
  let carry := q.1 = 2 ^ (f.fb + 1)
  let mant := if carry then q.1 / 2 else q.1
  let ex : Int := (if carry then u + 1 else u) - f.emin + 1
  if mant < 2 ^ f.fb then (f.signBit neg + mant, if q.2 then Exc.uf ||| Exc.nx else 0)
  else if (2 ^ f.eb - 1 : Int) ≤ ex then (f.overflow rm neg, Exc.of ||| Exc.nx)
  else (f.signBit neg + ex.toNat * 2 ^ f.fb + (mant - 2 ^ f.fb),
    if q.2 then (if tiny then Exc.uf ||| Exc.nx else Exc.nx) else 0)

/-- Write a value in a format: canonical NaN, infinities and zeros as they are, the rest rounded (R31, R33). -/
def Fmt.encode (f : Fmt) (rm : Rm) (r : Nat) : Num → Nat × Exc
  | .nan s => (f.nanBits, if s then Exc.nv else 0)
  | .inf neg => (f.infBits neg, 0)
  | .fin neg m e => if m = 0 then (f.signBit neg, 0) else f.round rm r neg m e

/-- The result flush of FO (R32). -/
def Fmt.flushOut (f : Fmt) (fo : Bool) (x : Nat × Exc) : Nat × Exc :=
  if fo && f.isSub x.1 then (f.signBit (x.1.testBit (f.eb + f.fb)), x.2 ||| Exc.uf ||| Exc.nx) else x

def Num.isNan : Num → Bool
  | .nan _ => true
  | _ => false

def Num.isSig : Num → Bool
  | .nan true => true
  | _ => false

def Num.isInf (neg : Bool) : Num → Bool
  | .inf n => n == neg
  | _ => false

def Num.isZero : Num → Bool
  | .fin _ 0 _ => true
  | _ => false

def Num.neg? : Num → Bool
  | .nan _ => false
  | .inf n => n
  | .fin n _ _ => n

def Num.negate : Num → Num
  | .nan s => .nan s
  | .inf n => .inf !n
  | .fin n m e => .fin (!n) m e

/-- An exact product; 0 times infinity is invalid (R126). The second component says that NV is raised. -/
def Num.mul : Num → Num → Num × Bool
  | .nan s, .nan t => (.nan false, s || t)
  | .nan s, _ => (.nan false, s)
  | _, .nan t => (.nan false, t)
  | .inf a, .inf b => (.inf (a != b), false)
  | .inf a, .fin b m _ => if m = 0 then (.nan false, true) else (.inf (a != b), false)
  | .fin a m _, .inf b => if m = 0 then (.nan false, true) else (.inf (a != b), false)
  | .fin a m e, .fin b n g => (.fin (a != b) (m * n) (e + g), false)

/-- The least exponent of the finite terms. -/
def minExp : List Num → Int → Int
  | [], a => a
  | .fin _ _ e :: r, a => minExp r (if e < a then e else a)
  | _ :: r, a => minExp r a

/-- The exact sum of finite terms in units of 2^u. -/
def sumAt (u : Int) : List Num → Int
  | [] => 0
  | .fin n m e :: r => (if n then -1 else 1) * ((m * 2 ^ (e - u).toNat : Nat) : Int) + sumAt u r
  | _ :: r => sumAt u r

/-- An exact sum with the special cases of R126: infinities of both signs are invalid; the sign of an exact zero. -/
def Num.sum (rm : Rm) (l : List Num) : Num × Bool :=
  let sig := l.any Num.isSig
  if l.any Num.isNan then (.nan false, sig)
  else if l.any (Num.isInf false) && l.any (Num.isInf true) then (.nan false, true)
  else if l.any (Num.isInf false) then (.inf false, false)
  else if l.any (Num.isInf true) then (.inf true, false)
  else
    let u := minExp l 0
    let t := sumAt u l
    if t = 0 then
      (if l.all Num.isZero && l.all Num.neg? then .fin true 0 0
       else if l.all Num.isZero && l.all (fun x => !x.neg?) then .fin false 0 0
       else .fin (rm == .rdn) 0 0, false)
    else (.fin (decide (t < 0)) t.natAbs u, false)

/-- a times b plus c, rounded once later; an invalid product raises NV even beside a quiet NaN (R126). -/
def Num.fma (rm : Rm) (a b c : Num) : Num × Bool :=
  let p := a.mul b
  let r := Num.sum rm [p.1, c]
  (r.1, p.2 || r.2)

/-- Exact comparison of two values that are not NaN. -/
def Num.lt (a b : Num) : Bool :=
  match a, b with
  | .inf x, .inf y => x && !y
  | .inf x, _ => x
  | _, .inf y => !y
  | .fin n m e, .fin k q g =>
    let u := if e < g then e else g
    decide (sumAt u [.fin n m e] < sumAt u [.fin k q g])
  | _, _ => false

/-- Equality of two values that are not NaN; -0 equals +0 (R131). -/
def Num.eqv (a b : Num) : Bool := !a.isNan && !b.isNan && !Num.lt a b && !Num.lt b a

/-- One step of the generator of stochastic rounding (R34). -/
def srNext (s : BitVec 32) : BitVec 32 :=
  let a := s ^^^ (s <<< 13)
  let b := a ^^^ (a >>> 17)
  b ^^^ (b <<< 5)

/-- A floating-point condition (R131). -/
def Fcc.holds (cc : Fcc) (a b : Num) : Bool :=
  let un := a.isNan || b.isNan
  match cc with
  | .eq => !un && Num.eqv a b
  | .ne => un || !Num.eqv a b
  | .lt => !un && Num.lt a b
  | .le => !un && !Num.lt b a
  | .gt => !un && Num.lt b a
  | .ge => !un && !Num.lt a b
  | .num => !un
  | .nan => un

/-- FMIN or FMAX of two bit patterns, with NV for a signalling NaN; -0 stands below +0 (R129). -/
def Fmt.minMax (f : Fmt) (max : Bool) (x y : Nat) : Nat × Exc :=
  let a := f.decode x
  let b := f.decode y
  let exc : Exc := if a.isSig || b.isSig then Exc.nv else 0
  let below (u v : Num) : Bool := Num.lt u v || (u.isZero && v.isZero && u.neg? && !v.neg?)
  (if a.isNan && b.isNan then f.nanBits
   else if a.isNan then y
   else if b.isNan then x
   else if (if max then below a b else below b a) then y
   else x, exc)

/-- The class bit of FCLASS (R132). -/
def fclassBit (bits : Nat) : Nat :=
  match Fmt.f32.decode bits with
  | .nan true => 8
  | .nan false => 9
  | .inf true => 0
  | .inf false => 7
  | .fin n m _ =>
    if m = 0 then (if n then 3 else 4)
    else if Fmt.f32.isSub bits then (if n then 2 else 5)
    else (if n then 1 else 6)

/-- A value rounded to an integer in a mode: sign, magnitude and whether it differs (R133, R135). -/
def Num.toInteger (rm : Rm) (r : Nat) : Num → Bool × Nat × Bool
  | .fin n m e => let q := roundUnit rm r n m e 0; (n, q.1, q.2)
  | x => (x.neg?, 0, false)

/-- The largest k with k * k at most n, found bit by bit. -/
def isqrtAux (n : Nat) : Nat → Nat → Nat
  | 0, acc => acc
  | b + 1, acc => isqrtAux n b (if (acc + 2 ^ b) * (acc + 2 ^ b) ≤ n then acc + 2 ^ b else acc)

def isqrt (n : Nat) : Nat := isqrtAux n (bitLen n / 2 + 1) 0

/-- The square root of a positive value to 64 bits, with a last bit that stands for what is left: enough for every
rounding mode but SR to round correctly (R36); for SR it fixes d of R34. -/
def Num.sqrt (m : Nat) (e : Int) : Num :=
  let k := 132 - (bitLen m : Int)
  let k := if (e - k) % 2 = 0 then k else k + 1
  let n := m * 2 ^ k.toNat
  let q := isqrt n
  .fin false (2 * q + (if q * q = n then 0 else 1)) ((e - k) / 2 - 1)

/-! ### Special functions (R36, R137): a close value in fixed point, and a result that is free within the bound. -/

/-- 1 in the fixed point of this section. -/
def fxOne : Nat := 2 ^ 96

/-- Product of two fixed-point values. -/
def fxMul (a b : Nat) : Nat := a * b / fxOne

/-- 2 to the power of the fraction whose next binary places follow `f`, `t` being 2^(2^-k). -/
def fxExp2Aux : Nat → Nat → Nat → Nat → Nat
  | 0, _, _, acc => acc
  | n + 1, f, t, acc =>
    let f2 := 2 * f
    fxExp2Aux n (f2 % fxOne) (isqrt (t * fxOne)) (if fxOne ≤ f2 then fxMul acc t else acc)

/-- 2^f for a fixed-point fraction f. -/
def fxExp2 (f : Nat) : Nat := fxExp2Aux 90 f (isqrt (2 * fxOne * fxOne)) fxOne

/-- The fraction of log2 x for 1 ≤ x < 2, one binary place a step. -/
def fxLog2Aux : Nat → Nat → Nat → Nat
  | 0, _, acc => acc
  | n + 1, x, acc =>
    let y := fxMul x x
    if 2 * fxOne ≤ y then fxLog2Aux n (y / 2) (2 * acc + 1) else fxLog2Aux n y (2 * acc)

/-- log2 x for a fixed-point x in [1, 2), with 80 places. -/
def fxLog2 (x : Nat) : Nat := fxLog2Aux 80 x 0 * 2 ^ 16

/-- 2π and log2 e in fixed point. -/
def fxTwoPi : Nat := 0x6487ed5110b4611a62633145c
def fxLog2e : Nat := 0x171547652b82fe1777d0ffda0

/-- The Taylor series of sine: terms alternate, each from the one before. -/
def fxSinAux (x2 : Nat) : Nat → Nat → Nat → Int
  | 0, _, _ => 0
  | n + 1, k, t => (t : Int) - fxSinAux x2 n (k + 2) (fxMul t x2 / ((k + 1) * (k + 2)))

/-- sin(2πf) for a fixed-point f in [0, 1/4]. -/
def fxSin (f : Nat) : Nat := let x := fxMul f fxTwoPi; (fxSinAux (fxMul x x) 24 1 x).toNat

/-- A fixed-point value as a number. -/
def fxNum (neg : Bool) (m : Nat) (e : Int) : Num := .fin neg m (e - 96)

/-- The fraction in turns of |x| as fixed point, exactly where it matters: multiples of 1/4 stay exact. -/
def turns (m : Nat) (e : Int) : Nat :=
  if 0 ≤ e then 0 else if -96 ≤ e then m * 2 ^ (96 + e).toNat % fxOne else m / 2 ^ (-96 - e).toNat % fxOne

/-- sin(2πt) for a fraction of a turn: sign and magnitude. -/
def fxSinTurn (t : Nat) : Bool × Nat :=
  let q := fxOne / 4
  if t ≤ q then (false, fxSin t) else if t ≤ 2 * q then (false, fxSin (2 * q - t))
  else if t ≤ 3 * q then (true, fxSin (t - 2 * q)) else (true, fxSin (fxOne - t))

/-- A value close to sin(2πx). A tiny x keeps its relative precision. -/
def approxSin (neg : Bool) (m : Nat) (e : Int) : Num :=
  if (bitLen m : Int) + e < -40 then fxNum neg (m * fxTwoPi) e
  else let r := fxSinTurn (turns m e); fxNum (neg != r.1) r.2 0

/-- A value close to cos(2πx), for an x that is no multiple of 1/4: its magnitude lies below 1. -/
def approxCos (m : Nat) (e : Int) : Num :=
  let r := fxSinTurn ((turns m e + fxOne / 4) % fxOne); fxNum r.1 (min r.2 (fxOne - 1)) 0

/-- A value close to 1/x. -/
def approxRcp (neg : Bool) (m : Nat) (e : Int) : Num := .fin neg (2 ^ 160 / m) (-160 - e)

/-- A value close to 1/sqrt x. -/
def approxRsq (m : Nat) (e : Int) : Num :=
  let odd := e % 2
  let n := m * 2 ^ odd.toNat
  .fin false (isqrt (2 ^ 320 / n)) (-160 - (e - odd) / 2)

/-- A value close to 2^x, for an |x| below 256 that is no integer; it lies on the same side of every power of two as 2^x. -/
def approxEx2 (neg : Bool) (m : Nat) (e : Int) : Num :=
  let a := if 0 ≤ e then m * 2 ^ e.toNat * fxOne else if -96 ≤ e then m * 2 ^ (96 + e).toNat else m / 2 ^ (-96 - e).toNat
  let i : Int := a / fxOne
  let f := a % fxOne
  if neg then (if a = 0 then fxNum false (fxOne - 1) 0 else if f = 0 then fxNum false fxOne (-i) else fxNum false (fxExp2 (fxOne - f)) (-i - 1))
  else fxNum false (max (fxExp2 f) (fxOne + 1)) i

/-- A value close to log2 x, for a finite x above 0. -/
def approxLg2 (m : Nat) (e : Int) : Num :=
  let k := bitLen m - 1
  let f := fxLog2 (m * fxOne / 2 ^ k)
  let i : Int := (k : Int) + e
  let v : Int := i * (fxOne : Int) + f
  fxNum (decide (v < 0)) v.natAbs 0

/-- A value close to tanh x. -/
def approxTanh (neg : Bool) (m : Nat) (e : Int) : Num :=
  let mag := (bitLen m : Int) + e
  if mag < -13 then
    (match Num.sum .rne [.fin neg m e, .fin (!neg) (m * m * m * (2 ^ 96 / 3)) (3 * e - 96)] with | (x, _) => x)
  else if 5 < mag then fxNum neg (fxOne - 1) 0
  else
    let a := if 0 ≤ e then m * 2 ^ e.toNat * fxOne else m * fxOne / 2 ^ (-e).toNat
    let t := 2 * fxMul a fxLog2e
    let x := fxExp2 (t % fxOne) * 2 ^ (t / fxOne)
    fxNum neg ((x - fxOne) * fxOne / (x + fxOne)) 0

/-- |a - b| at most 2^k: an absolute bound. -/
def Num.near (k : Int) (a b : Num) : Bool :=
  match (Num.sum .rne [a, b.negate]).1 with
  | .fin _ m e => !Num.lt (.fin false 1 k) (.fin false m e)
  | _ => false

/-- floor(log2 |x|) - 23, and never below -149: the exponent of one ulp of R36. -/
def ulpExp : Num → Int
  | .fin _ m e => let k := (bitLen m : Int) - 1 + e; (if k < -126 then -126 else k) - 23
  | _ => 0

/-- A result that the manual does not publish (R138): the free value where it lies within the bound of the close value,
else the close value rounded. `bound` is an exponent: results lie within 2^bound of the close value. -/
def freeWithin (op : Nat) (x : BitVec 32) (a : Num) (bound : Int) : Nat :=
  let y := Config.specialResult op x % 2 ^ 32
  match Fmt.f32.decode y with
  | .fin n m e => if Num.near bound a (.fin n m e) then y else (Fmt.f32.encode .rne 0 a).1
  | _ => (Fmt.f32.encode .rne 0 a).1

/-- x/(2π) less the nearest integer, correctly rounded; for |x| above 2^20 with the 48-bit constant (R36). Inexact for every
finite nonzero input, and underflow where a tiny result is rounded (R126, R137). Where |x| is above 2^20 and x times K is an
integer, the zero has the sign of x: the manual names none (DESIGN CHOICE, log 12). -/
def rredResult (neg : Bool) (m : Nat) (e : Int) : Nat × Exc :=
  let big := Num.lt (.fin false 1 20) (.fin false m e)
  let c : Nat := if big then 0x28be60db9391 else 0x28be60db9391054a7f09d5f47d4d377036d8a5664f10e4107f9458eaf7aef158
  let g : Int := e - (if big then 48 else 256)
  let p := m * c
  -- the signed value p * 2^g, less the nearest integer, the greater on a tie
  let v : Int := if neg then -(p : Int) else p
  let r : Int :=
    if 0 ≤ g then 0
    else
      let u : Int := 2 ^ (-g).toNat
      v - (2 * v + u) / (2 * u) * u
  let out := if r = 0 then (Fmt.f32.signBit neg, 0) else Fmt.f32.round .rne 0 (decide (r < 0)) r.natAbs g
  (if out.1 = 0x3F000000 then 0xBF000000 else out.1, out.2 ||| Exc.nx)

/-- A special function of a flushed input: its result bits and exceptions before FO (R36, R137). The opcode names it. -/
def specialFn (op : Nat) (bits : Nat) : Nat × Exc :=
  let f := Fmt.f32
  let w : BitVec 32 := BitVec.ofNat 32 bits
  let ret (y : Nat) : Nat × Exc :=
    (y, if y % 2 ^ 31 = 0x7F800000 then Exc.of ||| Exc.nx
        else if y % 2 ^ 31 < 0x00800000 then Exc.uf ||| Exc.nx else Exc.nx)
  match f.decode bits with
  | .nan s => (f.nanBits, if s then Exc.nv else 0)
  | .inf n =>
    if op = 0x42 then (f.signBit n, 0)
    else if op = 0x43 then (if n then (f.nanBits, Exc.nv) else (0, 0))
    else if op = 0x45 then (if n then 0 else f.infBits false, 0)
    else if op = 0x46 then (if n then (f.nanBits, Exc.nv) else (f.infBits false, 0))
    else if op = 0x4A then (f.signBit n + 0x3F800000, 0)
    else (f.nanBits, Exc.nv)
  | .fin n m e =>
    if m = 0 then
      if op = 0x42 ∨ op = 0x43 then (f.infBits n, Exc.dz)
      else if op = 0x46 then (f.infBits true, Exc.dz)
      else if op = 0x45 ∨ op = 0x49 then (0x3F800000, 0)
      else (f.signBit n, 0)
    else
      let pow2 := m == 2 ^ (bitLen m - 1)
      let lg : Int := (bitLen m : Int) - 1 + e
      if op = 0x42 then
        (if pow2 then f.encode .rne 0 (.fin n 1 (-lg))
         else if lg < -128 then ret (f.infBits n)
         else ret (freeWithin op w (approxRcp n m e) (ulpExp (approxRcp n m e))))
      else if op = 0x43 then
        (if n then (f.nanBits, Exc.nv)
         else if pow2 && lg % 2 == 0 then f.encode .rne 0 (.fin false 1 (-lg / 2))
         else ret (freeWithin op w (approxRsq m e) (ulpExp (approxRsq m e) + 1)))
      else if op = 0x45 then
        (if decide (7 ≤ lg) && !n then (f.infBits false, Exc.of ||| Exc.nx)
         else if n && !Num.lt (.fin true 150 0) (.fin n m e) then (0, Exc.uf ||| Exc.nx)
         else if (roundUnit .rtz 0 n m e 0).2 == false then
           f.encode .rne 0 (.fin false 1 (if n then -((roundUnit .rtz 0 n m e 0).1 : Int) else (roundUnit .rtz 0 n m e 0).1))
         else ret (freeWithin op w (approxEx2 n m e) (ulpExp (approxEx2 n m e) + 1)))
      else if op = 0x46 then
        (if n then (f.nanBits, Exc.nv)
         else if pow2 then
           (if lg = 0 then (0, 0) else f.encode .rne 0 (.fin (decide (lg < 0)) lg.natAbs 0))
         else ret (freeWithin op w (approxLg2 m e) (if lg = 0 ∨ lg = -1 then -22 else ulpExp (approxLg2 m e) + 1)))
      else if op = 0x47 then rredResult n m e
      else if op = 0x48 then
        (let t := turns m e
         if decide (-2 ≤ e) || (t % (fxOne / 4) == 0 && decide (-96 ≤ e)) then
           (let q := if 0 ≤ e then 0 else t / (fxOne / 4)
            if q % 2 = 0 then (f.signBit n, 0) else (f.signBit (n != (q == 3)) + 0x3F800000, 0))
         else ret (freeWithin op w (approxSin n m e) (-22)))
      else if op = 0x49 then
        (let t := turns m e
         if decide (-2 ≤ e) || (t % (fxOne / 4) == 0 && decide (-96 ≤ e)) then
           (let q := if 0 ≤ e then 0 else t / (fxOne / 4)
            if q % 2 = 1 then (0, 0) else (f.signBit (q == 2) + 0x3F800000, 0))
         else ret (freeWithin op w (approxCos m e) (-22)))
      else ret (freeWithin op w (approxTanh n m e) (ulpExp (approxTanh n m e) + 1))

/-- SQRT, correctly rounded (R36, R137). -/
def sqrtFn (rm : Rm) (r : Nat) (bits : Nat) : Nat × Exc :=
  let f := Fmt.f32
  match f.decode bits with
  | .nan s => (f.nanBits, if s then Exc.nv else 0)
  | .inf n => if n then (f.nanBits, Exc.nv) else (f.infBits false, 0)
  | .fin n m e =>
    if m = 0 then (f.signBit n, 0) else if n then (f.nanBits, Exc.nv) else f.encode rm r (Num.sqrt m e)

end Sys2Proof.Machine
end

