-- ==== Sys2Proof/Machine/Numbers.lean ====
section
/-! DEFINITION. Machine/Numbers.lean: integers by type (R27 to R29), LNS6, SC24, the scaled block, matrix summation,
quantisation and the MX storage formats (R37 to R49). -/

namespace Sys2Proof.Machine

/-! ### Integers -/

/-- Width of an integer type (R27). -/
def ITy.width : ITy → Nat
  | .i8 | .n8 => 8
  | .i16 | .n16 => 16
  | .i64 | .n64 | .b64 => 64
  | .i32 | .n32 | .b32 => 32

/-- The exact integer that the low bits of a source stand for (R27, R102). -/
def ITy.read (t : ITy) (x : DWord) : Int :=
  let n := x.toNat % 2 ^ ITy.width t
  if t.isSigned && n.testBit (ITy.width t - 1) then (n : Int) - 2 ^ ITy.width t else n

/-- The type's least and greatest value. -/
def ITy.min (t : ITy) : Int := if t.isSigned then -(2 ^ (ITy.width t - 1)) else 0
def ITy.max (t : ITy) : Int := if t.isSigned then 2 ^ (ITy.width t - 1) - 1 else 2 ^ ITy.width t - 1

/-- Sat (R28). -/
def ITy.sat (t : ITy) (x : Int) : Int := if x < ITy.min t then ITy.min t else if ITy.max t < x then ITy.max t else x

/-- The value of the type congruent to x modulo 2^w. -/
def ITy.wrap (t : ITy) (x : Int) : Int :=
  let n := x % 2 ^ ITy.width t
  if t.isSigned && decide (2 ^ (ITy.width t - 1) ≤ n) then n - 2 ^ ITy.width t else n

/-- Fit (R102), extended to 64 bits: sign-extended for .i types, zero-extended for the others (R27, R100). -/
def ITy.fit (t : ITy) (sat : Bool) (x : Int) : DWord :=
  BitVec.ofInt 64 (if sat then ITy.sat t x else ITy.wrap t x)

/-! ### LNS6 and SC24 -/

/-- The table T (R41). -/
def lnsT (k : Nat) : Nat := match k % 4 with | 0 => 0x8000 | 1 => 0x9838 | 2 => 0xB505 | _ => 0xD744

/-- An SC24 scale as it is read (R39). -/
inductive Sc where
  | zero
  | nan
  /-- E from 1 to 254, and F. -/
  | val (e f : Nat)
  deriving DecidableEq, Repr

/-- A scale from its 24 bits; bit 23 set makes a NaN block (R39). -/
def Sc.decode (c : Nat) : Sc :=
  if c.testBit 23 then .nan
  else
    let e := c / 2 ^ 15 % 256
    if e = 0 then .zero else if e = 255 then .nan else .val e (c % 2 ^ 15)

/-- The 24 bits of a scale. Of a NaN block and of a zero block R40 and R45 fix E only: F is written as 0, the code that CVTL.scale
gives (R136; DESIGN CHOICE, log 75). -/
def Sc.code : Sc → Nat
  | .zero => 0
  | .nan => 255 * 2 ^ 15
  | .val e f => e * 2 ^ 15 + f

/-- Sc(c) as significand and exponent. -/
def Sc.sig : Sc → Nat × Int
  | .val e f => (2 ^ 15 + f, (e : Int) - 142)
  | _ => (0, 0)

/-- An element's value relative to a scale (R37): none for NaN. -/
def lnsValue (el : Nat) (c : Sc) : Num :=
  let m := el % 32
  let neg := el.testBit 5
  if m = 0 then (if neg then .nan false else .fin false 0 0)
  else .fin neg (lnsT m * c.sig.1) ((m / 4 : Nat) - 19 + c.sig.2)

/-- EncL (R38) against a scale above zero: the comparison with each half step is exact, in eighth powers. -/
def encL (v : Num) (c : Sc) : Nat :=
  match v with
  | .nan _ => 32
  | .inf neg => (if neg then 32 else 0) + 31
  | .fin neg m e =>
    if m = 0 then 0
    else
      let above (k : Nat) : Bool :=
        Num.lt (.fin false (c.sig.1 ^ 8) (8 * c.sig.2 + 2 * (k : Int) + 1 - 32)) (.fin false (m ^ 8) (8 * e))
      let n := ((List.range 32).filter above).length
      if n = 0 then 0 else (if neg then 32 else 0) + (if 31 < n then 31 else n)

/-- Least F with (2^15 + F)^4 times 2^(4(k-15)) at least t: found bit by bit. -/
def scaleFrac (k : Int) (t : Num) : Nat → Nat → Nat
  | 0, acc => acc
  | b + 1, acc =>
    let mid := acc + 2 ^ b
    if Num.lt (.fin false ((2 ^ 15 + mid - 1) ^ 4) (4 * (k - 15))) t then scaleFrac k t b mid else scaleFrac k t b acc

/-- Events of QntBlock (R45). -/
inductive QEvent where
  | none | underflow | overflow
  deriving DecidableEq, Repr

/-- The scale and event of QntBlock for a greatest magnitude amax above zero (R45); an infinity overflows. -/
def quantScale (amax : Num) : Sc × QEvent :=
  match amax with
  | .fin _ m e =>
    let t : Num := .fin false (m ^ 4) (4 * e - 15)
    if Num.lt t (.fin false 1 (-504)) then (.val 1 0, .underflow)
    else if Num.lt (.fin false ((2 ^ 16 - 1) ^ 4) (4 * 112)) t then (.val 254 0x7FFF, .overflow)
    else
      let k : Int := ((bitLen (m ^ 4) : Int) - 1 + 4 * e - 15) / 4
      let f := scaleFrac k t 16 0
      if f = 2 ^ 15 then (.val (k + 128).toNat 0, .none) else (.val (k + 127).toNat f, .none)
  | _ => (.val 254 0x7FFF, .overflow)

/-- The greatest magnitude among values that are not NaN. -/
def amaxOf : List Num → Num → Num
  | [], a => a
  | .nan _ :: r, a => amaxOf r a
  | .inf _ :: _, _ => .inf false
  | .fin _ m e :: r, a => amaxOf r (if Num.lt a (.fin false m e) then .fin false m e else a)

/-- A scaled block: elements and scale (R40). -/
structure Block where
  els : List Nat
  sc : Sc
  deriving DecidableEq, Repr

/-- Elements packed six bits each, element 0 lowest. -/
def packBits (w : Nat) : List Nat → Nat
  | [] => 0
  | x :: r => x % 2 ^ w + 2 ^ w * packBits w r

/-- n fields of w bits each. -/
def unpackBits (w : Nat) : Nat → Nat → List Nat
  | 0, _ => []
  | n + 1, x => x % 2 ^ w :: unpackBits w n (x / 2 ^ w)

/-- The 32 bytes of a block as one little-endian number; zero and NaN blocks have zero elements (R40). -/
def Block.bits (b : Block) : Nat :=
  (match b.sc with | .val _ _ => packBits 6 b.els | _ => 0) + 2 ^ 192 * b.sc.code

/-- A block from its 32 bytes as one number. -/
def Block.ofBits (x : Nat) : Block := ⟨unpackBits 6 32 x, Sc.decode (x / 2 ^ 192 % 2 ^ 24)⟩

/-- QntBlock (R45). -/
def quantBlock (x : List Num) : Block × QEvent :=
  if x.all Num.isNan then (⟨List.replicate 32 0, .nan⟩, .none)
  else
    let a := amaxOf x (.fin false 0 0)
    if a.isZero && !x.any Num.isNan then (⟨List.replicate 32 0, .zero⟩, .none)
    else
      let s := if a.isZero then (Sc.val 1 0, QEvent.none) else quantScale a
      (⟨x.map fun v => encL v s.1, s.1⟩, s.2)

/-! ### Matrix summation -/

/-- Lin(t) × 2^23 (R41). -/
def lnsLin (t : Nat) : Nat := lnsT t * 2 ^ (t / 4)

/-- The exact sum of a block product, and the products dropped; none for NaN (R42). -/
def blockSum (nz : Bool) : List Nat → List Nat → Int → Nat → Option (Int × Nat)
  | a :: as, b :: bs, acc, drop =>
    if a = 32 ∨ b = 32 then (if nz then blockSum nz as bs acc (drop + 1) else none)
    else if a % 32 = 0 ∨ b % 32 = 0 then blockSum nz as bs acc drop
    else
      let p : Int := lnsLin (a % 32 + b % 32)
      blockSum nz as bs (if a.testBit 5 = b.testBit 5 then acc + p else acc - p) drop
  | _, _, acc, drop => some (acc, drop)

/-- BlockDot (R42): the FP32 bits of the contribution, and the products dropped. -/
def blockDot (nz : Bool) (a b : Block) : Nat × Nat :=
  match a.sc, b.sc with
  | .nan, _ => (Fmt.f32.nanBits, 0)
  | _, .nan => (Fmt.f32.nanBits, 0)
  | .zero, _ => (0, 0)
  | _, .zero => (0, 0)
  | _, _ =>
    match blockSum nz a.els b.els 0 0 with
    | none => (Fmt.f32.nanBits, 0)
    | some (t, drop) =>
      if t = 0 then (0, drop)
      else
        ((Fmt.f32.encode .rne 0 (.fin (decide (t < 0)) (t.natAbs * a.sc.sig.1 * b.sc.sig.1)
          (a.sc.sig.2 + b.sc.sig.2 - 23))).1, drop)

/-- acc ← Round(acc + y, .f32, RNE), the canonical NaN for a NaN or an invalid sum (R42). -/
def accAdd (acc y : Nat) : Nat :=
  (Fmt.f32.encode .rne 0 (Num.sum .rne [Fmt.f32.decode acc, Fmt.f32.decode y]).1).1

/-- The contribution of eight BF16 products, rounded once (R43). -/
def bf16Dot (a b : List Nat) : Nat :=
  (Fmt.f32.encode .rne 0
    (Num.sum .rne (List.zipWith (fun x y => (Num.mul (Fmt.bf16.decode x) (Fmt.bf16.decode y)).1) a b)).1).1

/-! ### MX storage formats (R46 to R49) -/

/-- An E4M3 element (R46). -/
def e4m3 (x : Nat) : Num :=
  let neg := x.testBit 7
  let ex := x / 8 % 16
  let fr := x % 8
  if x % 128 = 127 then .nan false else if ex = 0 then .fin neg fr (-9) else .fin neg (8 + fr) ((ex : Int) - 10)

/-- An E2M1 element (R46). -/
def e2m1 (x : Nat) : Num :=
  let neg := x.testBit 3
  let ex := x / 2 % 4
  let fr := x % 2
  if ex = 0 then .fin neg fr (-1) else .fin neg (2 + fr) ((ex : Int) - 2)

/-- A value times 2^k. -/
def Num.scale (k : Int) : Num → Num
  | .fin n m e => .fin n m (e + k)
  | x => x

/-- Round into a small format with RNE, saturating at its largest code (R49). `fb` fraction bits, least exponent `lo`. -/
def roundSmall (fb : Nat) (lo : Int) (top sign : Nat) : Num → Nat
  | .fin n m e =>
    let free : Int := (bitLen m : Int) + e - ((fb : Int) + 1)
    let u : Int := if free < lo then lo else free
    let q := (roundUnit .rne 0 n m e u).1
    let code := if q < 2 ^ fb then q else ((u - lo + 1).toNat) * 2 ^ fb + (q - 2 ^ fb)
    (if n then sign else 0) + (if top < code then top else code)
  | .inf n => (if n then sign else 0) + top
  | .nan _ => top + 1

/-- Assemble a view block from its element bytes and scale (R47, R48); the window's TYPE. -/
def viewAssemble (ty : Nat) (el sc : Nat) : Nat :=
  if ty = 0 then el % 2 ^ 192 + 2 ^ 192 * (sc % 2 ^ 24)
  else if sc % 256 = 255 then Block.bits ⟨List.replicate 32 0, .nan⟩
  else
    let k : Int := ((sc % 256 : Nat) : Int) - 127
    let v := if ty = 1 then (unpackBits 8 32 el).map fun x => (e4m3 x).scale k
      else (unpackBits 4 32 el).map fun x => (e2m1 x).scale k
    (quantBlock v).1.bits

/-- Split a view block into element bytes and scale (R47, R49). -/
def viewSplit (ty : Nat) (blk : Nat) : Nat × Nat :=
  if ty = 0 then (blk % 2 ^ 192, blk / 2 ^ 192 % 2 ^ 24)
  else
    let b := Block.ofBits blk
    match b.sc with
    | .nan => (0, 255)
    | .zero => (0, 0)
    | .val _ _ =>
      let w := b.els.map fun x => lnsValue x b.sc
      if ty = 2 && w.any Num.isNan then (0, 255)
      else
        let a := amaxOf w (.fin false 0 0)
        let ex : Int := match a with
          | .fin _ m e =>
            if m = 0 then -127
            else
              let t : Int := (bitLen m : Int) - 1 + e - (if ty = 1 then 8 else 2)
              if t < -127 then -127 else if 127 < t then 127 else t
          | _ => -127
        let small := w.map fun x =>
          if ty = 1 then roundSmall 3 (-9) 126 128 (x.scale (-ex)) else roundSmall 1 (-1) 7 8 (x.scale (-ex))
        (packBits (if ty = 1 then 8 else 4) small, (ex + 127).toNat)

end Sys2Proof.Machine
end

