-- ==== Sys2Proof/Machine/State.lean ====
section
/-! DEFINITION. Machine/State.lean: everything the manual gives the machine to hold, as plain data; the reasons a step can
stop; the machine right after reset. Each structure's docstring names the rules that give its fields. -/

namespace Sys2Proof.Machine

/-- A file of BitVec n values by number, in one canonical form: keys strictly rising, no value zero. An unlisted key reads
zero. Memory is such a file of bytes (log 4). -/
abbrev Sparse (n : Nat) := List (Nat × BitVec n)

/-- Objects by number. -/
abbrev Table (α : Type) := List (Nat × α)

/-- Fault codes (R309). -/
inductive Code where
  | illegalEncoding | branchTarget | resourceBound | scratchBounds | alignment | float | intDivide | userTrap
  | pageNotPresent | pageProtection | pageLost | pageHeld | formatView
  | atomicUnsupported | peerUnreachable | remoteTimeout
  | stubLost | stubInvalid | seqTrap | serviceRequired | handlerFetch | machineCheck
  deriving DecidableEq, Repr

/-- Memory monitor (R168). -/
inductive MonState where
  | idle | armed | fired
  deriving DecidableEq, Repr

structure Monitor where
  st : MonState
  addr : DWord
  w64 : Bool
  expect : DWord
  deriving DecidableEq, Repr

/-- What a STALLED lane waits for (R93 and the entry of the waiting instruction). -/
inductive WaitKind where
  /-- BARW, BARS: barrier, token, scope (R167). -/
  | barrier (b : Nat) (tok : Word) (sc : Scope)
  /-- An arrival that is not yet recorded: barrier, count, scope, the access id before which all must be acknowledged,
  whether it waits for the next phase, whether BARS goes on to wait, and the token destination (R164, R165). -/
  | arrive (b : Nat) (count : Option Nat) (sc : Scope) (before : Nat) (again thenWait : Bool) (d : Opnd)
  /-- WAITMON (R173). -/
  | monitor
  /-- WAITC: address, target, whether it acquires, scope (R174). -/
  | counter (addr target : DWord) (acq : Bool) (sc : Scope)
  /-- TWANY, TWALL: mask destination, mask, whether all must be READY (R228). -/
  | tags (d : Opnd) (mask : DWord) (every : Bool)
  /-- MWAIT: the commit group waited for (R253). -/
  | mwait (n : Nat)
  /-- SVC that waits for a FREE record: destination, first argument register, arguments, the numbers left with their lanes, and the
  handles given so far (R311). -/
  | posting (d : Opnd) (base nargs : Nat) (left : List (Nat × Mask)) (handles : List (Nat × Nat))
  /-- SVCW: destination and handle (R312). -/
  | svcw (d : Opnd) (handle : Word)
  /-- DRAIN until the group's fabric accesses before number `before` have been sent; then it places its markers (R343). -/
  | drainSend (before : Nat) (ports : List Nat)
  /-- DRAIN: its markers, from number `marker`, one for each port of a list (R342). -/
  | drain (marker : Nat) (ports : List Nat)
  /-- DPULL.wait: the stub, by its number and its serial number, and the tiles it names, from lo below hi; the lowest unpulled one of them once
  the stub has become LOST (R370). -/
  | pulled (stub serial lo hi : Nat) (lost : Option DWord)
  /-- CKPT.wait: destination, mode (R417). -/
  | checkpoint (d : Opnd) (generation : DWord)
  /-- A sequence instruction that Clove has yet to answer (R389). -/
  | clove (inst : Nat)
  /-- A lane tile instruction that is not yet complete (R243). -/
  | tile (id : Nat)
  /-- DDROP: the stub, by its number and its serial number, while its pulls end and its invalidation completes (R369). -/
  | dropped (stub serial : Nat)
  deriving DecidableEq, Repr

structure Wait where
  kind : WaitKind
  /-- Stall reason (R159). -/
  reason : Nat
  /-- Nanoseconds of the limit that remain (R175); none without a limit. -/
  left : Option Nat
  /-- The predicate that receives the result. -/
  result : Opnd
  /-- The word of the waiting instruction, for a fault that ends the wait (R73). -/
  word : IWord
  /-- The lane's guard was false: it waits with its bundle and receives nothing (R64). -/
  muted : Bool
  /-- The condition has held since the wait began, though the value may have changed again (R174). -/
  met : Bool
  deriving DecidableEq, Repr

/-- Lane states (R93). SAVED is the state of the lane's group; the lane keeps the state it held at the save. -/
inductive LaneState where
  | running
  | stalled (w : Wait)
  /-- HELD at its meeting address, or at a JOIN (R147, R157). -/
  | held (join : Bool)
  | sleeping (wake : DWord)
  | parked
  | exited
  deriving DecidableEq, Repr

/-- Who acts on memory (R322): a lane, with its core, team and group; an engine of a core; a streamer of a cluster; another agent of the
package; a host; another device. -/
inductive Agent where
  | lane (core team gid : Nat)
  | engine (core : Nat)
  | streamer (cluster : Nat)
  | package
  | host (n : Nat)
  | peer (n : Nat)
  deriving DecidableEq, Repr

/-- A release (R323): who made it and at which scope, how many writes had been performed when it was, and the access number below which
its group's accesses come before it. -/
structure Rel where
  agent : Agent
  sc : Scope
  ver : Nat
  num : Nat
  deriving DecidableEq, Repr

/-- Written bytes, and the releases in whose sequence their value stands (R323). -/
structure Writer where
  key : Nat
  size : Nat
  rels : List Rel
  deriving DecidableEq, Repr

/-- What a lane holds (R91). %xop to %xx6 and the three %xword registers are views of `xword` (R73). -/
structure Lane where
  pc : DWord
  meet : DWord
  v : Sparse 32
  o : Sparse 32
  a : Sparse 32
  /-- P0 to P6. -/
  p : BitVec 7
  /-- Stochastic-rounding state S (R34). -/
  sr : Word
  fpst : Word
  fpen : Word
  regionPc : DWord
  regionCtr : DWord
  /-- The region counter before the current region's REGION executed (R98). -/
  regionBase : DWord
  /-- Handler flag H. -/
  h : Bool
  fcode : Word
  faddr : DWord
  skid : Word
  xword : IWord
  xpc : DWord
  xinfo : DWord
  monitor : Monitor
  st : LaneState
  /-- Open lookahead windows: the result awaited, and how many more instructions may issue (R69, R70). -/
  wins : List (Nat × Nat)
  /-- %retired (R407). -/
  retired : DWord
  /-- The first access id that an instruction waiting at issue need not wait for (R203; the model's own). -/
  since : Option Nat
  /-- The widest scope of a releasing FENCE that the lane has executed (R323). -/
  fenced : Option Scope
  /-- The lane re-executes from its region entry, whose TGT bit its next issue checks (R58). -/
  reenter : Bool
  /-- Nanoseconds since the core last read the value of host or fabric memory that the lane watches (R169, R174). -/
  polled : Nat
  /-- The releases whose sequences the lane's loads have read, for a FENCE that acquires (R323). -/
  heard : List Rel
  deriving DecidableEq, Repr

/-- A bundle (R144, R145): its lanes, the cycle it issued last, the stall reason under which its next instruction waits at issue
in this cycle, and whether it has lost lanes and issues nothing more until the next boundary. -/
structure Bundle where
  lanes : Mask
  last : Nat
  blocked : Option Nat
  broken : Bool
  deriving DecidableEq, Repr

/-- Group states (R143). A SAVED group remembers whether it was parked. A retired group leaves the table. -/
inductive GroupState where
  | resident | parked | saved (wasParked : Bool) | inTransit
  deriving DecidableEq, Repr

/-- A commit group of tile operations (R251, R253): how many operations remain, and whether one aborted, with its record. -/
structure Commit where
  number : DWord
  left : Nat
  sealed : Bool
  abort : Option (Code × DWord)
  deriving DecidableEq, Repr

/-- A group (R142, R143, R158, R161, R222, R251, R204). -/
structure Group where
  team : Nat
  gidx : Nat
  core : Nat
  quad : Nat
  slot : Nat
  st : GroupState
  lanes : List Lane
  bundles : List Bundle
  /-- The cycle in which the group issued last (R148). -/
  lastIssue : Nat
  issued : DWord
  stalls : List DWord
  tstart : DWord
  /-- FLAGS of the exit record: saved, migrated, parked (R161). -/
  flags : BitVec 3
  s : Sparse 64
  /-- %tags and %terr (R222). -/
  tags : DWord
  terr : DWord
  /-- The fault of each tag in ERROR: code and address (R230). -/
  tagFault : Table (Code × DWord)
  /-- Tags that have been observed in ERROR (R230). -/
  tagSeen : DWord
  /-- %mcmade, %mcdone (R251) and the commit groups not yet done. -/
  mcmade : DWord
  mcdone : DWord
  commits : List Commit
  /-- The earliest dropped store that the group has not been told of (R204). -/
  unreachable : Option DWord
  /-- Combined stores of other groups that the group's loads have read before they were performed, each with the load's
  access number (R326). -/
  observed : List (Nat × Nat)
  /-- Set while an event has parked the group with FLAGS bits of the save header (R306): double trap, SVCW, handler fetch. -/
  saveFlags : BitVec 3
  /-- A debug hit has parked it (R414). -/
  debugParked : Bool
  /-- While a MIGRATE waits, the lanes of its bundle: no other bundle of the group issues (R349); 0 stops none. -/
  only : Mask
  /-- The counter of the die that it last left, below which it reads no %ptime (R20). -/
  timeFloor : DWord
  deriving DecidableEq, Repr

/-- A team barrier (R162): arrived masks by group index, EXPECT (none is ALL). -/
structure Barrier where
  phase : Word
  arrived : Table Mask
  expect : Option Nat
  deriving DecidableEq, Repr

/-- A tile (R240): 1,024 FP32 values by 32 × row + column, and the four counts of TSTAT. -/
structure Tile where
  vals : Sparse 32
  nans : BitVec 24
  underflows : BitVec 16
  overflows : BitVec 16
  deriving DecidableEq, Repr

/-- An old scratchpad word: its offset, the bytes it held, the groups behind whose next release the write that replaced it comes, and the
number of that write's instruction or transfer (R190, R332). -/
structure OldWord where
  off : Nat
  data : List Byte
  gids : List Nat
  num : Nat
  deriving DecidableEq, Repr

/-- A team (R143, R162, R190, R240, R268, R272). -/
structure Team where
  kernel : Nat
  tix : Nat
  core : Nat
  groups : List Nat
  sp : Sparse 8
  /-- Scratchpad bytes that stand in a release's sequence, by their offset (R323). -/
  marks : List Writer
  /-- What scratchpad words held before lanes and the block-transfer engine wrote them, latest first: an engine may still read it until a
  release orders the write (R190, R332). -/
  olds : List OldWord
  barriers : List Barrier
  tiles : List Tile
  /-- Saved in the save pool, with nothing resident (R306). -/
  saved : Bool
  /-- Every group has retired, and the steps of R276 remain; its scratchpad, barriers and tiles are free. -/
  retiring : Bool
  freed : Bool
  /-- Issue and stall cycles of the groups that have retired, and the estimate charged at dispatch (R293). -/
  cycles : Nat
  est : Nat
  /-- A pre-emption is under way: its groups issue no more (R306). -/
  stopping : Bool
  /-- Quadrants whose registers its retired groups hold until the team frees them (R272, R276). -/
  regs : List Nat
  deriving DecidableEq, Repr

/-- A translation (R207, R211): the leaf as it was read, its size in bits, and the physical address of the entry. -/
structure Trans where
  leaf : DWord
  bits : Nat
  entry : Nat
  deriving DecidableEq, Repr

/-- What kind of access (R177). -/
inductive AccKind where
  | load (t : MTy)
  | store
  | atom (op : AOp) (t : ATy)
  | red (op : AOp) (t : ATy)
  /-- MONARM and LDMON read at the coherence point and arm the lane's monitor (R172). -/
  | arm (w64 ldmon : Bool)
  /-- One 64-byte read of TLD: the tile operation and the piece (R256). -/
  | line (op piece : Nat)
  deriving DecidableEq, Repr

/-- States of an unfinished access (R177). A DONE, ACKNOWLEDGED, DROPPED or FAULTED access leaves the table. -/
inductive AccState where
  | queued | bound | combined | performed
  /-- The home reported the store dropped; the report has yet to reach the core. -/
  | refused
  deriving DecidableEq, Repr

structure Access where
  gid : Nat
  lane : Nat
  /-- The lanes that receive the value; more than one in the uniform forms (R197). -/
  lanes : Mask
  /-- The lanes of the bundle, which a fault parks (R98), and those of them whose guard holds (R146, R150). -/
  bundle : Mask
  parts : Mask
  /-- %wid of the group's lane 0, for a fault after the group has retired (R143). -/
  wid0 : DWord
  core : Nat
  ctx : Nat
  kernel : Nat
  team : Nat
  /-- The instruction: accesses of one instruction share it (R181, R198). -/
  inst : Nat
  kind : AccKind
  /-- A scratchpad access (R190). -/
  sp : Bool
  va : DWord
  size : Nat
  /-- Atomic operand or expected value; then the value read. -/
  data : DWord
  /-- Store data, or the bytes a load has read. -/
  bytes : List Byte
  /-- The instruction writes the whole 32-byte block that a store falls in (R198). -/
  whole : Bool
  /-- The port by which its request went to a peer (R342). -/
  via : Option Nat
  cmp : DWord
  dst : Opnd
  hint : Hint
  ord : Order
  sc : Scope
  /-- The scope of the widest FENCE.rel or FENCE.acqrel ahead of it in the lane (R323). -/
  fenced : Option Scope
  /-- Once its group has retired: the stores of other groups that a release must wait for (R326). -/
  awaits : List Nat
  st : AccState
  /-- The translation it uses. -/
  tr : Option Trans
  /-- What the lane had retired when the access issued, for %skid (R98). -/
  skid : Nat
  /-- Nanoseconds the access has waited for a reply, or for a hold (R340, R362). -/
  waited : Nat
  /-- A fault found on the way, reported by ACCESS_FAULTED. -/
  fault : Option Code
  deriving DecidableEq, Repr

/-- A result of a long-latency instruction that is not yet written (R69): register writes, predicate writes and %fpst bits by lane. -/
structure Pending where
  gid : Nat
  regs : List (Nat × Opnd × Bool × DWord)
  preds : List (Nat × Opnd × Bool)
  /-- %fpst bits that the result sets (R141). -/
  exc : List (Nat × BitVec 6)
  /-- The access, if the result comes from one. -/
  remote : Bool
  deriving DecidableEq, Repr

/-- The run state: groups, teams, accesses, pending results. -/
structure Run where
  groups : Table Group
  teams : Table Team
  accs : Table Access
  pend : Table Pending
  /-- Quadrants in the second cycle of a bundle of more than 32 lanes (R12): core × 4 + quadrant, and the group. -/
  busy : Table Nat
  deriving DecidableEq, Repr

/-- The bundle in issue: the group, the active lanes, the PC and word of the instruction; whether it issued in a pair and
as its second (R56); the group as it stood before the pair; whether a trap was taken; the PC of the pair's first slot. -/
structure Issue where
  gid : Nat
  lanes : Mask
  pc : DWord
  pc0 : DWord
  word : IWord
  paired : Bool
  second : Bool
  snap : Option Group
  trapped : Bool
  /-- The instruction has to wait at issue, under this stall reason (R159). -/
  held : Option Nat
  deriving DecidableEq, Repr

/-- What an agent outside the device does to its memory: a load, a store, or an atomic with its operand and its comparand. -/
inductive Deed where
  | load (n : Nat)
  | store (bytes : List Byte)
  | atomic (op : AOp) (t : ATy) (data cmp : Nat)
  deriving DecidableEq, Repr

/-- An access to device memory that comes in over a link: from a peer, by device physical address (R201, R331), or an AtomicOp of a host (R420);
the scope of the release that it is, if it is one. -/
structure Visit where
  who : Agent
  addr : Nat
  deed : Deed
  rel : Option Scope
  deriving DecidableEq, Repr

/-- A line of a core's L1, main side or uniform side (R184 to R188). -/
structure L1Line where
  core : Nat
  uniform : Bool
  line : Nat
  data : List Byte
  stale : Bool
  ro : Bool
  /-- Filled by .stream: the first to be evicted (R184). -/
  first : Bool
  kernel : Nat
  deriving DecidableEq, Repr

/-- A .ro copy of a host or fabric line in the die and Steppe caches (R189). -/
structure RoCopy where
  line : Nat
  data : List Byte
  kernel : Nat
  deriving DecidableEq, Repr

/-- A cached leaf translation (R211): its core's first-level TLB or its die's second-level TLB. -/
structure TlbEntry where
  core : Option Nat
  die : Nat
  ctx : Nat
  page : Nat
  tr : Trans
  deriving DecidableEq, Repr

/-- A walk in progress (R211): die, core, context, virtual address, store or not, and the leaf that it has read. -/
structure Walk where
  die : Nat
  core : Nat
  ctx : Nat
  va : DWord
  write : Bool
  read : Option Trans
  deriving DecidableEq, Repr

/-- A view block in the caches (R48 to R50): window, block, 32 bytes, dirty or not. -/
structure ViewBlock where
  win : Nat
  blk : Nat
  data : List Byte
  dirty : Bool
  deriving DecidableEq, Repr

/-- A posted invalidation (R212, R213). -/
structure Inval where
  ctx : Nat
  part : Nat
  base : DWord
  len : DWord
  /-- The counter's memory key, if the invalidation names one. -/
  ctr : Option Nat
  deriving DecidableEq, Repr

/-- What a device line held before a lane's write number `ver`: a core that need not have seen that write may still be served
the old line from its die's cache (R319, R330; log 76). -/
structure OldLine where
  line : Nat
  ver : Nat
  data : List Byte
  deriving DecidableEq, Repr

/-- A write that stalled at a held page: context, where the page begins, who writes, and the ns that it has waited while the page was held
(R210, R362). -/
structure Stall where
  ctx : Nat
  page : Nat
  id : Nat
  waited : Nat
  deriving DecidableEq, Repr

/-- Memory, caches and translation (R10, R14, R184 to R191, R206 to R218). -/
structure Memory where
  /-- Every space in one list: device, host, peer and flash memory (log 4). -/
  cells : List Host.Cell
  l1 : List L1Line
  roCopies : List RoCopy
  tlb : List TlbEntry
  walks : Table Walk
  views : List ViewBlock
  invals : Table Inval
  /-- Last writer of a line or scratchpad segment while a context logs (R408): key, with the context at 2^96, and %wid,
  all ones where two groups have written. -/
  writers : Table DWord
  /-- Old lines, latest first; how many lane writes have been performed; for each core the last write that it must see; the
  same for one line, by line × 256 + core; and, by the same number, the last write that the core's loads have seen there, which an acquire
  makes one that it must see (R319, R325, R328, R330; log 76). -/
  old : List OldLine
  ver : Nat
  floors : Table Nat
  lineFloors : Table Nat
  lineSeen : Table Nat
  /-- Bytes whose value stands in a release's sequence (R323). -/
  marks : List Writer
  /-- Writes that wait for a hold to clear, in the order they stalled (R210). -/
  stalls : List Stall
  deriving DecidableEq, Repr

/-- A kernel header as the device keeps it (R267). -/
structure Header where
  va : DWord
  entry : DWord
  handler : DWord
  prof : DWord
  width : Nat
  vregs : Nat
  sregs : Nat
  barriers : Nat
  tiles : Nat
  scratch : Nat
  /-- W1 to W5. -/
  ws : List Nat
  /-- PL2 to PL5. -/
  pls : List Nat
  /-- X1 to X5. -/
  xs : List Nat
  energy : Nat
  strw : Nat
  deriving DecidableEq, Repr

/-- Kernel states (R270). An ACCEPTED kernel waits until its header and launch values have been read; a REFUSED or COMPLETE kernel leaves the
table. -/
inductive KernelState where
  | accepted | dispatching | running | flushing
  deriving DecidableEq, Repr

/-- What a launch record of a queue adds to a launch (R283 to R291): the record's index, the flag base and target of its ready
flags, the completion counter and the amount added to it. -/
structure Launch where
  queue : Nat
  index : DWord
  flags : Option (DWord × DWord)
  cpla : DWord
  cpln : DWord
  deriving DecidableEq, Repr

/-- A kernel (R267 to R277, R293). -/
structure Kernel where
  ctx : Nat
  part : Nat
  hdrVa : DWord
  hdr : Header
  vals : List DWord
  /-- The join record, if the launch named one. -/
  join : Option DWord
  st : KernelState
  nextTix : Nat
  /-- Teams not yet retired. -/
  live : Nat
  /-- It holds one of the partition's spawn slots (R278). -/
  slot : Bool
  launch : Option Launch
  /-- The estimate E of a team's charge (R293). -/
  est : Nat
  /-- ACCEPTED: where the launch values stand that are still to be read, and a refusal that the launch record has earned (R285). -/
  args : Option DWord
  early : Option Code
  /-- ACCEPTED: the header's bytes, once they have been read, and the refusal that they earned, while it waits: its code and the number of
  teams that COUNT receives (R267, R276). -/
  text : Option (List Byte)
  verdict : Option (Nat × Nat)
  deriving DecidableEq, Repr

/-- An event record (R424). -/
structure Event where
  kind : Nat
  code : Nat
  ctx : Nat
  flags : Nat
  wid : DWord
  addr : DWord
  detail : DWord
  time : DWord
  deriving DecidableEq, Repr

/-- Context states (R302). -/
inductive CtxState where
  | building | guarded | shared | orphaned | suspended | tornDown
  deriving DecidableEq, Repr

/-- The copy of a context record (R298). -/
structure Record where
  root : DWord
  callA : DWord
  saveA : DWord
  saveSz : DWord
  /-- LEASE and OLIM as the record has them, 0 included. -/
  lease : Nat
  olim : Nat
  part : Nat
  nadopt : Nat
  adopt : List (BitVec 384)
  /-- A must-be-zero bit was set. -/
  dirty : Bool
  deriving DecidableEq, Repr

/-- A guardian: host, nanoseconds of its lease so far, and its MSI-X vector (R301, R424). -/
structure Guardian where
  host : Nat
  age : Nat
  deriving DecidableEq, Repr

/-- A context (R298 to R314). -/
structure Context where
  record : Record
  creator : Nat
  st : CtxState
  guardians : List Guardian
  /-- The orphan clock in ns (R302). -/
  orphan : Nat
  nonce : BitVec 128
  /-- Events that wait for a guardian, oldest first, at most 1,024, and how many were dropped (R309, R424). -/
  events : List (Event × Option Nat)
  lost : Nat
  /-- Records of the call area that wait to be offered again are memory; GEN is too (R310). A suspension under way. -/
  suspending : Bool
  tearing : Bool
  /-- RESUMEG of a SUSPENDED context: group and PC (R309). -/
  marked : Table DWord
  /-- MSI-X vector for its events by host (R300 EVVEC). -/
  vecs : Table Nat
  /-- The group that posted each call record (R312). -/
  callers : Table Nat
  deriving DecidableEq, Repr

/-- A link's command page (R422, R424). -/
structure CmdPage where
  arg : DWord
  arg2 : DWord
  stat : DWord
  nonce : BitVec 128
  evBase : DWord
  evLog : Nat
  evHead : DWord
  evTail : DWord
  invVa : DWord
  invLen : DWord
  invCtr : DWord
  msg : List Byte
  key : List Byte
  sig : List Byte
  deriving DecidableEq, Repr

/-- Queue states by their STATE codes (R286, R290). -/
inductive QueueState where
  | disabled | active | waiting | overrun | suspended
  deriving DecidableEq, Repr

/-- A queue (R282 to R294). -/
structure Queue where
  cfg : DWord
  base : DWord
  wr : DWord
  rd : DWord
  dropped : Word
  lasterr : DWord
  st : QueueState
  prior : QueueState
  /-- A service request for a ring read has been sent (R290). -/
  asked : Bool
  deficit : Int
  /-- The head record, once it has been read with its SEQ (R283, R285). -/
  record : Option (List Byte)
  /-- The last kernel that the queue accepted (R288). -/
  last : Option Nat
  /-- The QPOST that has locked the index page and waits: its team, group index and lanes (R297). -/
  lock : Option (Nat × Nat × Mask)
  deriving DecidableEq, Repr

/-- A partition's energy terms: Pidle in 1/256 W, and the correction c as a fraction (R295). -/
structure Energy where
  pidle : Nat
  cNum : Nat
  cDen : Nat
  /-- The draw above idle as last measured, in 1/256 W. -/
  measured : Nat
  deriving DecidableEq, Repr

/-- An exit record that waits: its number, its kernel, its bytes (R161, R275). -/
structure ExitRecord where
  id : Nat
  kernel : Nat
  bytes : List Byte
  deriving DecidableEq, Repr

/-- Kernels and queues (R267 to R297). -/
structure Kernels where
  kernels : Table Kernel
  queues : Table Queue
  /-- The queue last visited, by partition (R292). -/
  rotation : Sparse 16
  energy : Table Energy
  /-- Partitions whose visit of that queue has ended (R292). -/
  visitOver : List Nat
  /-- Exit records that wait for their page (R275, R277, R362). -/
  records : List ExitRecord
  deriving DecidableEq, Repr

/-- A save record's 64-byte header (R306). -/
structure SaveHeader where
  wid : DWord
  live : Mask
  parked : Mask
  fcode : Word
  flags : Word
  faddr : DWord
  team : DWord
  deriving DecidableEq, Repr

/-- Contexts and command pages (R298 to R314, R422 to R424). -/
structure Contexts where
  contexts : Table Context
  pages : Table CmdPage
  headers : Table SaveHeader
  /-- Where the save records of groups and teams stand in their pools (R306). -/
  slots : Table Nat
  /-- MSI-X vectors raised: host and vector, latest first (R420, R424). -/
  raised : List (Nat × Nat)
  deriving DecidableEq, Repr

/-- A block transfer (R222 to R230). -/
structure Transfer where
  gid : Nat
  core : Nat
  team : Nat
  ctx : Nat
  /-- %wid of lane 0 of the group. -/
  wid0 : DWord
  tag : Nat
  load : Bool
  mem : DWord
  sp : Nat
  rows : Nat
  units : Nat
  mstride : Int
  sstride : Nat
  hint : Hint
  /-- Units performed: row × UNITS + unit. -/
  done : List Nat
  /-- Words that the engine has read ahead of their unit, by unit × 16 + word (R227). -/
  got : Table (List Byte)
  /-- A serviced fault on which it waits (R230). -/
  fault : Option (Code × DWord)
  /-- Nanoseconds it has waited on a held page. -/
  waited : Nat
  deriving DecidableEq, Repr

/-- A streamer transfer, from STRQ or from a chain record (R231 to R237). -/
structure Stream where
  cluster : Nat
  ctx : Nat
  kernel : Nat
  /-- Streamer weight of the kernel (R231). -/
  weight : Nat
  dst : DWord
  src : DWord
  len : Nat
  ctr : Option DWord
  add : DWord
  sfl : Bool
  dfl : Bool
  hint : Hint
  chan : Option Nat
  recVa : DWord
  next : DWord
  /-- Pieces moved: each is the part of one destination line that the transfer writes (R238). -/
  done : List Nat
  /-- Words that the streamer has read ahead of their piece, counted from the source address. -/
  got : Table (List Byte)
  /-- Steps performed after the data: STATUS, counter add, OWN (R236). -/
  phase : Nat
  fault : Option (Code × DWord)
  /-- It stands for a chain record whose read waits for service. -/
  reading : Bool
  /-- Nanoseconds it has waited on a held page. -/
  waited : Nat
  deriving DecidableEq, Repr

/-- What a saved channel was, and is again at resume (R234, R239). -/
inductive ChanWas where
  | walking | waiting | stopped
  deriving DecidableEq, Repr

/-- Chain channel states (R234). -/
inductive ChanState where
  | idle | walking | waiting | stopped | saved (was : ChanWas)
  deriving DecidableEq, Repr

structure Channel where
  st : ChanState
  cur : DWord
  ctx : Nat
  kernel : Nat
  weight : Nat
  /-- STRCH with head 0 met it WALKING. -/
  stop : Bool
  deriving DecidableEq, Repr

/-- Tile operations (R242, R246, R254). -/
inductive TileKind where
  | mma (k : MmaK) (a b n sa sb : Nat)
  | zero (all : Bool)
  | load (addr pitch : DWord) (acq : Bool) (sc : Scope)
  | loadSp (off : Nat)
  | store (addr pitch : DWord) (hint : Hint) (ord : Order) (sc : Scope)
  | storeSp (off : Nat)
  | quant (col : Bool) (off : Nat)
  deriving DecidableEq, Repr

/-- An accepted operation that has not retired or aborted (R242 to R250). -/
structure TileOp where
  team : Nat
  gid : Nat
  /-- %wid of lane 0 of the group. -/
  wid0 : DWord
  core : Nat
  tile : Nat
  kind : TileKind
  /-- The commit group of an MMA (R251); the bundle of a lane tile instruction and its lanes whose guard holds. -/
  commit : DWord
  bundle : Mask
  lanes : Mask
  /-- It has started; an MMA then holds its result or the abort it met. -/
  started : Bool
  result : Option (Sparse 32 × Nat)
  abort : Option DWord
  /-- Pieces of a TLD, or words of an MMA's operands, that have been read (R250, R256). -/
  got : Table (List Byte)
  /-- An access of its bundle as it was at issue, which the operation's accesses follow. -/
  proto : Access
  deriving DecidableEq, Repr

/-- Whose turn it is in a streamer's round, and the bytes that are left of it (R231). -/
structure Round where
  kernel : Nat
  left : Nat
  deriving DecidableEq, Repr

/-- Engines (R222 to R263). Channels are keyed by cluster × 16 + channel, rounds by cluster. -/
structure Engines where
  transfers : Table Transfer
  streams : Table Stream
  channels : Table Channel
  rounds : Table Round
  tileOps : Table TileOp
  deriving DecidableEq, Repr

/-- Port states by their STATE codes (R336, R352). -/
inductive PortState where
  | training | locked | degraded | dark | relocking | down
  deriving DecidableEq, Repr

/-- An Avryn port (R334 to R338, R344, R352). -/
structure Port where
  st : PortState
  peer : Option Nat
  lat : Nat
  /-- Allowances held: requests, responses, set-aside, control (R338). -/
  alw : List Nat
  /-- Replays in the last 1 ms, and these by their age in ns: age and count. -/
  repl : Nat
  replays : List (Nat × Nat)
  laneLost : Bool
  /-- ns since it went DARK; ns since training began; ns with fewer than 5 replays in the last 1 ms. -/
  dark : Nat
  train : Nat
  clean : Nat
  darklim : Nat
  /-- ns for which its queue has been blocked for lack of request allowances (R339). -/
  blocked : Nat
  deriving DecidableEq, Repr

/-- Die link states by their codes (R333, R352). -/
inductive LinkState where
  | locked | retraining | down
  deriving DecidableEq, Repr

structure DieLink where
  st : LinkState
  fails : Nat
  deriving DecidableEq, Repr

/-- A flow in a set-aside queue, and the ns for which it has held fewer than 16 flits there (R339). -/
structure Flow where
  port : Nat
  src : Nat
  dst : Nat
  die : Nat
  queue : Nat
  calm : Nat
  deriving DecidableEq, Repr

/-- A drain marker on a port; the accesses that stood ahead of it there when it was placed, and the engines' units and pieces, each with its
operation; whether its control flit has been sent (R338, R342). -/
structure Marker where
  port : Nat
  ahead : List Nat
  units : List (Nat × Nat)
  sent : Bool
  done : Bool
  deriving DecidableEq, Repr

/-- Links (R8, R333 to R352). Die links: 0 to 7 Steppe to die d, 8 to 15 ring d to d + 1, 16 to 19 Col. -/
structure Links where
  ports : Table Port
  fen : Bool
  fdev : Nat
  dieLinks : Table DieLink
  generation : DWord
  /-- For each other device, the devices its LOCKED ports reach (R337). -/
  remote : Table (List Nat)
  flows : List Flow
  markers : Table Marker
  absent : List Nat
  /-- Virtual die to physical die (R8): rotation and reflection. -/
  rot : Nat
  refl : Bool
  deriving DecidableEq, Repr

/-- A context's Sumac registers and the count of stubs it has received (R357, R359). -/
structure SwRegs where
  ctl : DWord
  base : DWord
  size : DWord
  inbox : DWord
  stage : DWord
  stageSz : DWord
  h : Nat
  deriving DecidableEq, Repr

/-- Stub states by their codes (R363, R371). -/
inductive StubState where
  | active | complete | lost
  deriving DecidableEq, Repr

/-- A received stub (R358, R360, R363). Tiles are numbered from the first window page. -/
structure Stub where
  ctx : Nat
  va : DWord
  len : DWord
  origin : Nat
  octx : Nat
  obase : DWord
  hold : Nat
  st : StubState
  firstPage : Nat
  frames : List Nat
  pulled : List Nat
  pulling : List Nat
  /-- ns since the last renewal was sent, and since one was last acknowledged. -/
  renew : Nat
  quiet : Nat
  /-- The invalidation that a drop awaits; a stub that is being dropped is live no more (R363, R369). -/
  inval : Option Nat
  /-- How many stubs the device had received before: a number is used again (R363). -/
  serial : Nat
  deriving DecidableEq, Repr

/-- A hold entry at the origin (R361). -/
structure Hold where
  octx : Nat
  base : DWord
  len : DWord
  dev : Nat
  stub : Nat
  /-- ns of its lease so far. -/
  age : Nat
  deriving DecidableEq, Repr

/-- Sumac (R356 to R371, R405). -/
structure Sumac where
  /-- Counts the stubs received, for the serial that tells two users of one stub number apart. -/
  serial : Nat
  regs : Table SwRegs
  stubs : Table Stub
  holds : Table Hold
  /-- Pages that stay held after a restore: context, page address; ns left (R405). -/
  restored : List (Nat × Nat)
  restoredLeft : Table Nat
  deriving DecidableEq, Repr

/-- A rule record (R378). -/
structure Rule where
  pat : List Word
  inj : List Word
  prio : Nat
  act : Nat
  en : Bool
  /-- None for a pattern rule; a budget rule's CSEL. -/
  csel : Option Nat
  n : Nat
  deriving DecidableEq, Repr

/-- A sequence that is not FREE (R375, R382). -/
structure Sequence where
  ctx : Nat
  part : Nat
  /-- Confirmed tokens, oldest first, at most 32. -/
  hist : List Word
  /-- Draft tokens with their provisional hits, oldest first. -/
  drafts : List (Word × List Nat)
  run : List Word
  conf : Word
  hits : Sparse 32
  /-- The counters as a budget rule saw them at the previous confirmed position (R380). -/
  seenConf : Word
  seenHits : Sparse 32
  rules : Table Rule
  mask : DWord
  notify : Option DWord
  stopped : Bool
  deriving DecidableEq, Repr

/-- The work of an iteration (R383). -/
inductive IterKind where
  | tok (draft : Bool) (t : Word)
  | conf (n : Nat)
  | rej
  | rule (idx : Nat) (r : Option Rule)
  | close
  deriving DecidableEq, Repr

/-- An iteration that waits for Clove or has been answered (R383, R389). -/
structure Iter where
  inst : Nat
  gid : Nat
  lanes : Mask
  handle : Word
  kind : IterKind
  d : Opnd
  e : Opnd
  /-- The answer: emitted token, status, predicate, or the SEQ_TRAP address or RESOURCE_BOUND fault. -/
  answer : Option (Word × Word × Bool × Option (Code × DWord))
  /-- The cycle in which it reached Clove, and the core and group slot that it came from: 64 × core + slot (R383). -/
  cycle : Nat
  place : Nat
  deriving DecidableEq, Repr

/-- Clove (R375 to R390). -/
structure Clove where
  shares : Sparse 17
  /-- Shared rule records of 128 bytes, by partition × 64 + index; none is all zeros. -/
  shared : Table (List Byte)
  seqs : Table Sequence
  gens : Sparse 15
  iters : Table Iter
  deriving DecidableEq, Repr

/-- A context's checkpoint registers (R394). -/
structure CkRegs where
  ctl : DWord
  job : DWord
  res : DWord
  resSz : DWord
  root : DWord
  log : DWord
  logSz : DWord
  cmd : DWord
  deriving DecidableEq, Repr

/-- Interval states (R406). -/
inductive IntState where
  | off | running | quiescing | snapshot | replaying | stopped
  deriving DecidableEq, Repr

/-- A replay log record (R409). -/
structure LogRec where
  type : Nat
  size : Nat
  aux : Nat
  wid : DWord
  rcnt : DWord
  data : List Byte
  deriving DecidableEq, Repr

/-- A 1 MiB unit that stands in the reserve: its generation and row, its slot there, the granules that it holds (none of a directory unit or
a parity unit), and, of a parity unit, how many data units it covers (R400). -/
structure StripeUnit where
  gen : Nat
  row : Nat
  slot : Nat
  parity : Bool
  granules : List Nat
  covers : Nat
  deriving DecidableEq, Repr

/-- What a snapshot holds (R398). -/
structure Snapshot where
  groups : Table Group
  teams : Table Team
  queues : Table Queue
  kernels : Table Kernel
  streams : Table Stream
  channels : Table Channel
  /-- Sequences by their handles. -/
  seqs : Table Sequence
  stubs : Table Stub
  tileOps : Table TileOp
  transfers : Table Transfer
  /-- Pages that were held (R405). -/
  held : List Nat
  /-- Granules by virtual address / 64 KiB: offset and byte, zeros left out. -/
  granules : Table (List Host.Cell)
  /-- %wid and %retired of every lane as the interval before it ended (R411). -/
  counts : List (DWord × DWord)
  /-- Which group posted each call record (R312). -/
  callers : Table Nat
  /-- Every granule of the generation at its cut: virtual and physical number; and those that had changed, by virtual number (R398). -/
  maps : List (Nat × Nat)
  fresh : List Nat
  /-- Groups of the snapshot that pass a comparator or a watchpoint once, with the PC (R414). -/
  passed : List (Nat × DWord)
  deriving DecidableEq, Repr

/-- An effect outside the job, by what identifies it (R410, R412; the model's own): %wid, the lane's retired count and the address; of an
engine, all ones, 0 and the address. -/
abbrev Effect := DWord × DWord × DWord

/-- A context's interval (R396 to R412). -/
structure Interval where
  st : IntState
  number : DWord
  /-- Highest generation whose boundary has begun; whether it has reached its cut. -/
  begun : Nat
  prep : Nat
  gen : Nat
  tcut : DWord
  flashGen : Nat
  /-- Ranks that have reported DRAINED, PREPARED, and acknowledged COMMIT. -/
  drained : List Nat
  prepared : List Nat
  acked : List Nat
  /-- The boundary instant received from rank 0 (R396). -/
  instant : Option DWord
  /-- Granules changed since the last cut, and those marked copy-on-write and not yet copied; none dirty means all. -/
  allDirty : Bool
  dirty : List Nat
  marked : List Nat
  /-- ns and lane retirements since the last cut; ns since quiesce or cut. -/
  clock : Nat
  work : Nat
  wait : Nat
  logs : Table (List LogRec)
  snaps : Table Snapshot
  /-- Parity accumulated by row (R400). -/
  parity : Table (List Byte)
  /-- The stop of STOPCMD in force: %wid and count (R411). -/
  stop : Option (DWord × DWord)
  /-- Log records still to consume in a replay. -/
  replay : List LogRec
  /-- The member has found another JOBID, MEMBERS, MODE, PERIOD or KEEP at rank 0, and takes no part (R395). -/
  out : Bool
  /-- The member has asked rank 0 for a boundary (R396). -/
  asked : Bool
  /-- The first of the boundary's sixteen drain markers, once they stand on the ports (R397). -/
  fence : Option Nat
  /-- Where the next record goes in the log area, and the records that are not written there yet (R408). -/
  logAt : Nat
  toLog : List LogRec
  /-- Units in the reserve, how many of the generation's own units have been written, and those whose row's parity member has still to
  acknowledge them (R400, R401). -/
  units : List StripeUnit
  written : Nat
  unacked : List Nat
  /-- The drain of a generation under way: the queue and index of its launch record (R404, R428). -/
  drain : Option (Nat × Nat × Nat)
  /-- Effects outside the job that have been made, by interval; and those that the replay must not make again (R410, R412). -/
  made : Table (List Effect)
  remade : List Effect
  /-- How far each lane had come where each replayed interval ends, and where the replay was begun (R411, R412). -/
  reached : Table (List (DWord × DWord))
  /-- The group that a stop has parked (R406). -/
  stopped : Option Nat
  deriving DecidableEq, Repr

/-- What comes about next: a row of the table, as an input from outside or a step of the device, or one of the device's own
steps and messages under its name (they stand for the rows of those names). -/
inductive Due where
  | row (i : Instr)
  | pullServe (hold tile : Nat)
  | tilePulled (stub tile : Nat) (data : List Byte)
  | holdRenewal (stub : Nat)
  | holdExpiry (hold : Nat)
  | dropMessage (hold : Nat)
  | stubCompletionMessage (hold : Nat)
  | lostMessage (stub : Nat)
  | renewalTimeout (stub : Nat)
  | renewalReachesOrigin (hold : Nat)
  | renewalAcknowledgement (stub : Nat)
  /-- A restored stub asks its origin on this device for a hold entry (R405). -/
  | holdRequest (stub : Nat)
  | holdLimit (id : Nat)
  /-- An engine reads a word ahead of the unit or piece that it belongs to (R227, R250). -/
  | engineWord (id n : Nat)
  /-- The dispatcher reads a kernel's header and launch values, or a ready flag on a stub tile (R270, R281). -/
  | kernelRead (id : Nat)
  /-- A walk reads its leaf (R211). -/
  | walkRead (id : Nat)
  /-- An exit record that has waited is written. -/
  | recordWrite (n : Nat)
  /-- A queue's visit ends with a team that cannot be placed or admitted (R292). -/
  | visitEnd (part : Nat)
  /-- A streamer moves a piece, or performs a step after the data (R231, R236). -/
  | streamPiece (id k : Nat)
  | restoredHoldWindow (ctx : Nat)
  | cloveIteration (seq : Nat)
  | boundaryBegin (ctx : Nat)
  | quiesce (ctx : Nat)
  | drained (ctx rank : Nat)
  | cut (ctx : Nat)
  | granuleCopy (ctx granule : Nat)
  | prepared (ctx : Nat)
  | preparedReport (ctx rank : Nat)
  | commit (ctx gen : Nat)
  | commitAcknowledged (ctx rank : Nat)
  | generationDiscard (ctx : Nat)
  | flashDrain (ctx : Nat)
  /-- The service processor posts a drain's launch record on an SVC queue (R404, R428). -/
  | drainPost (ctx q : Nat) (record : List Byte)
  /-- Rank 0's message of the boundary's instant, with its CKCTL and CKJOB (R395, R396). -/
  | instant (ctx : Nat) (t ctl job : DWord)
  /-- Another member asks rank 0 for a boundary (R396). -/
  | boundaryRequest (ctx rank : Nat)
  /-- A member places its drain markers; a log record is written to the log area; a unit of the stripe to the reserve, and it is acknowledged
  by its row's parity member; a unit that another member has freed leaves the parity (R397, R400, R408). -/
  | fencePlace (ctx : Nat)
  | logWrite (ctx : Nat)
  | unitWrite (ctx k : Nat)
  | unitAcknowledged (ctx k : Nat)
  | unitFreed (ctx gen row : Nat) (bytes : List Byte)
  /-- A RESTORE that waits for another member's units: they come in, row by row from each surviving member, with the generation's other
  state; or more than one member's are missing (R402). -/
  | unitsArrive (host ctx gen : Nat) (objects : Snapshot) (rows : List (List (List Byte)))
  | unitsLost (ctx : Nat) (uncommitted : Bool)
  /-- Bring-up fails at a step (R433). -/
  | bringUpFailed (step : Nat)
  | debugStopReached (p : Nat)
  | replayEnd (ctx : Nat)
  /-- A host's store to its CXL.mem window that waits at its home, with a number of its own (R362, R399, R425). -/
  | cxlStore (host addr : Nat) (bytes : List Byte) (id : Nat)
  /-- A peer's store or atomic, or a host's AtomicOp, reaches its home; `id` names it once it has waited there. -/
  | visit (v : Visit) (id : Nat)
  /-- A host's clearing of EN that waits for a boundary in progress (R395). -/
  | checkpointOff (host ctx : Nat)
  /-- The core clock's next cycle (log 1). -/
  | clock
  deriving DecidableEq, Repr

/-- A correction of one copy of the time counter that is being slewed: ns left to gain, or to lose if negative, and ns that have run since
it last changed (R20). -/
structure Slew where
  left : Int
  run : Nat
  deriving DecidableEq, Repr

/-- Scheduling (R19 to R22, R144, R429; log 1, log 2, log 3). -/
structure Sched where
  /-- Core cycles since reset. -/
  cycle : Nat
  /-- The package time counter's copy of each die: virtual dies 0 to 7, Steppe, the four Col dies (R8, R19). -/
  clocks : List DWord
  /-- What the copies showed when the timers that run by them last counted (R3; the model's own). -/
  counted : List DWord
  /-- The corrections of the copies under way (R20). -/
  slews : List Slew
  /-- The exchange over the Avryn ports has brought the device within DOM of its domain (R19, R21). -/
  inDomain : Bool
  /-- %tskew (R21). -/
  skew : DWord
  /-- The bundles that quadrants have chosen in this cycle, and the lanes whose stalled arrival may be recorded in it: group and
  lanes, by core, group slot and lane (R163, R242; the model's own). -/
  latch : List (Nat × Mask)
  /-- What comes about next: inputs from outside and the device's own steps (the model's own). -/
  agenda : List Due
  /-- Host writes that the host port holds back (R279), oldest first. -/
  held : List Due
  issue : Option Issue
  /-- Counts the free values used (the model's own; log 3). -/
  free : Nat
  /-- Names the next object (the model's own). -/
  nextId : Nat
  /-- Bring-up has finished and power holds (R429, R433). -/
  powered : Bool
  deriving DecidableEq, Repr

/-- Checkpoint, replay and debug (R394 to R419). `dbg` is keyed by partition × 0x400 + offset (R413). -/
structure Checkpoint where
  regs : Table CkRegs
  ints : Table Interval
  dbg : Sparse 64
  /-- Groups and PCs at which the next issue hits no comparator or watchpoint again (R414). -/
  passed : List (Nat × DWord)
  /-- Generations drained to flash, by job identifier × 2^64 + the root's address: generation and content (R404; log 93). -/
  flash : Table (Nat × Snapshot)
  deriving DecidableEq, Repr

/-- Partition registers (R25). -/
structure Partition where
  ctl : DWord
  clu : DWord
  wayLo : DWord
  wayHi : DWord
  allow : DWord
  deriving DecidableEq, Repr

/-- Format-window registers (R215). -/
structure Window where
  ctl : DWord
  elem : DWord
  scale : DWord
  deriving DecidableEq, Repr

/-- A record of Glen's event log: sequence number, time, source, code, detail (R430). -/
structure GlenRec where
  seq : DWord
  time : DWord
  source : BitVec 16
  code : BitVec 16
  detail : BitVec 128
  deriving DecidableEq, Repr

/-- Partitions, windows, flash, hosts and Glen (R9, R25, R215, R420 to R436). -/
structure System where
  devauth : BitVec 8
  parts : Table Partition
  windows : Table Window
  /-- FLBASE and FLSIZE by partition (R426). -/
  flash : Table (DWord × DWord)
  module : Bool
  /-- Attached hosts; true through CXL 3.1, false through PCIe. -/
  hosts : Table Bool
  /-- CXL.mem window of each link: base and size (R425). -/
  cxlWin : Table (DWord × DWord)
  glenLog : List GlenRec
  glenSeq : DWord
  sensors : List Nat
  /-- Allowance in W after Glen lowers it, by partition (R429). -/
  allowance : Table Nat
  /-- Dies whose arithmetic clock is halved. -/
  halved : List Nat
  image : List Byte
  pending : Option (List Byte)
  failures : Nat
  recovery : Bool
  attest : List Byte
  /-- Firmware has been verified and loaded (R433 step 2). -/
  loaded : Bool
  /-- Where the flash tables' 8 GiB stand in device memory, which R428 does not say (DESIGN CHOICE, log 95). -/
  tables : Nat
  deriving DecidableEq, Repr

/-- The whole machine. -/
structure State where
  sch : Sched
  mem : Memory
  run : Run
  eng : Engines
  ker : Kernels
  ctx : Contexts
  lnk : Links
  sum : Sumac
  clv : Clove
  ckp : Checkpoint
  sys : System
  deriving DecidableEq, Repr

/-- Why the machine stops. -/
inductive Fault where
  /-- Raised by step when the package's power is cut (R429) and nothing is left on the agenda. Safe: the hardware does
  nothing either until Glen brings it up again, which comes in by the agenda. -/
  | packageOff
  deriving DecidableEq, Repr

/-- Why an instruction has no meaning. -/
inductive Refusal where
  /-- Raised by the arm of an instruction that has not been modelled yet. Safe: the run ends. -/
  | notModelled (mnemonic : String)
  deriving DecidableEq, Repr

/-- Every port after bring-up: DOWN, nothing known (R434). -/
def portReset : Port :=
  ⟨.down, none, 0, [0, 0, 0, 0], 0, [], false, 0, 0, 0, 0, 0⟩

/-- The machine right after reset: bring-up has ended (R433, R434). Values that the manual does not give are in the log. -/
def State.reset : State where
  sch := ⟨0, List.replicate 13 0, List.replicate 13 0, List.replicate 13 ⟨0, 0⟩, false, 0x80000000FFFF0004, [], [], [], none, 0, 1, true⟩
  mem := ⟨[], [], [], [], [], [], [], [], [], 0, [], [], [], [], []⟩
  run := ⟨[], [], [], [], []⟩
  eng := ⟨[], [], [], [], []⟩
  ker := ⟨[], [], [], [], [], []⟩
  ctx := ⟨[], [], [], [], []⟩
  lnk := ⟨(List.range 16).map fun n => (n, portReset), false, 0, (List.range 20).map fun n => (n, ⟨.locked, 0⟩), 0, [],
    [], [], [], 0, false⟩
  sum := ⟨0, [], [], [], [], []⟩
  clv := ⟨[], [], [], [], []⟩
  ckp := ⟨[], [], [], [], []⟩
  sys := ⟨0, [], [], [], true, [], [], [⟨0, 0, 10, 1, 0⟩], 1, [], [], [], [], none, 0, false, [], true, 376 * 2 ^ 30⟩

end Sys2Proof.Machine
end

