-- ==== Sys2Proof/Machine/Ops.lean ====
section
/-! DEFINITION. Machine/Ops.lean: the named operations over tables, memory, translation, events, groups and lanes; taking an
exception and returning from one (R96, R97, R121, R308). -/

namespace Sys2Proof.Machine

/-! ### Tables and sparse files -/

/-- The object with number k. -/
def Table.get {α : Type} : Table α → Nat → Option α
  | [], _ => none
  | (j, v) :: r, k => if j = k then some v else Table.get r k

/-- Put an object under number k. -/
def Table.set {α : Type} : Table α → Nat → α → Table α
  | [], k, v => [(k, v)]
  | (j, w) :: r, k, v => if j = k then (k, v) :: r else (j, w) :: Table.set r k v

/-- Remove the object with number k. -/
def Table.del {α : Type} : Table α → Nat → Table α
  | [], _ => []
  | (j, w) :: r, k => if j = k then Table.del r k else (j, w) :: Table.del r k

/-- Change the object with number k, if there is one. -/
def Table.upd {α : Type} : Table α → Nat → (α → α) → Table α
  | [], _, _ => []
  | (j, w) :: r, k, f => if j = k then (j, f w) :: r else (j, w) :: Table.upd r k f

/-- The value under key k; zero where none is listed. -/
def Sparse.get {n : Nat} : Sparse n → Nat → BitVec n
  | [], _ => 0
  | (j, v) :: r, k => if k = j then v else if k < j then 0 else Sparse.get r k

/-- Put a value under key k, keeping keys rising and no zero listed. -/
def Sparse.set {n : Nat} : Sparse n → Nat → BitVec n → Sparse n
  | [], k, v => if v = 0 then [] else [(k, v)]
  | (j, w) :: r, k, v =>
    if k < j then (if v = 0 then (j, w) :: r else (k, v) :: (j, w) :: r)
    else if k = j then (if v = 0 then r else (k, v) :: r)
    else (j, w) :: Sparse.set r k v

/-- Keys above `lo` that rise strictly, and no zero value: the canonical form. -/
def Sparse.above {n : Nat} (lo : Option Nat) : Sparse n → Bool
  | [] => true
  | (j, v) :: r => (match lo with | none => true | some l => decide (l < j)) && v != 0 && Sparse.above (some j) r

def Sparse.wf {n : Nat} (m : Sparse n) : Bool := Sparse.above none m

/-- The canonical form of memory: addresses strictly rising, no entry equal to what an unlisted address reads as. -/
def Memory.wf (m : Memory) : Bool := Sparse.wf (n := 8) m.cells

/-! ### Bytes of memory. Keys: device memory from 0, host h from (1 + h) 2^64, peer f from (16 + f) 2^64, flash from 32 2^64. -/

def hostKey (h : Nat) (a : Nat) : Nat := (1 + h) * 2 ^ 64 + a
def peerKey (f : Nat) (a : Nat) : Nat := (16 + f) * 2 ^ 64 + a
def flashKey (a : Nat) : Nat := 32 * 2 ^ 64 + a

/-- One byte; 0 where nothing was written (log 4). -/
def Memory.byte (m : Memory) (k : Nat) : Byte := Sparse.get (n := 8) m.cells k

def Memory.setByte (m : Memory) (k : Nat) (b : Byte) : Memory := { m with cells := Sparse.set (n := 8) m.cells k b }

/-- n bytes from k. -/
def Memory.bytes (m : Memory) : Nat → Nat → List Byte
  | _, 0 => []
  | k, n + 1 => m.byte k :: m.bytes (k + 1) n

def Memory.setBytes (m : Memory) : Nat → List Byte → Memory
  | _, [] => m
  | k, b :: r => (m.setByte k b).setBytes (k + 1) r

/-- A little-endian number and its bytes. -/
def leNat (b : List Byte) : Nat := bytesToNat b
def leBytes (n x : Nat) : List Byte := natToBytes n x

/-- n bytes of a sparse file of bytes (a team's scratchpad). -/
def Sparse.bytes (m : Sparse 8) : Nat → Nat → List Byte
  | _, 0 => []
  | k, n + 1 => Sparse.get m k :: Sparse.bytes m (k + 1) n

def Sparse.setBytes (m : Sparse 8) : Nat → List Byte → Sparse 8
  | _, [] => m
  | k, b :: r => Sparse.setBytes (Sparse.set m k b) (k + 1) r

/-- The byte order of every access is little-endian (R196). -/
def Memory.le (m : Memory) (k n : Nat) : Nat := leNat (m.bytes k n)

/-! ### Format windows and the coherence point (R47 to R50, R215, R216) -/

/-- Field bits hi:lo of a register. -/
def field (x : DWord) (hi lo : Nat) : Nat := x.toNat / 2 ^ lo % 2 ^ (hi + 1 - lo)

def Window.en (w : Window) : Bool := w.ctl.getLsbD 0
def Window.ty (w : Window) : Nat := field w.ctl 2 1
def Window.part (w : Window) : Nat := field w.ctl 11 8
def Window.nblk (w : Window) : Nat := field w.ctl 63 32

/-- Bytes of a block in the element range and in the scale range (R47). -/
def Window.elSize (w : Window) : Nat := if w.ty = 0 then 24 else if w.ty = 1 then 32 else 16
def Window.scSize (w : Window) : Nat := if w.ty = 0 then 3 else 1

/-- Write a view block back into the window's ranges (R49). -/
def Memory.writeBack (m : Memory) (w : Window) (v : ViewBlock) : Memory :=
  let p := viewSplit w.ty (leNat v.data)
  (m.setBytes (w.elem.toNat + w.elSize * v.blk) (leBytes w.elSize p.1)).setBytes (w.scale.toNat + w.scSize * v.blk)
    (leBytes w.scSize p.2)

/-- Do [a, a+n) and [b, b+k) meet. -/
def overlap (a n b k : Nat) : Bool := decide (a < b + k) && decide (b < a + n)

/-- Is the key in a window's aperture (R215). -/
def inAperture (key : Nat) : Bool :=
  decide (Config.apertureBase ≤ key) && decide (key < Config.apertureBase + 16 * Config.apertureSpan)

def apertureWin (key : Nat) : Nat := (key - Config.apertureBase) / Config.apertureSpan
def apertureBlk (key : Nat) : Nat := (key - Config.apertureBase) % Config.apertureSpan / 32

/-- The 32 bytes of a view block: the cached block, or the one the controller assembles (R48). -/
def State.viewBytes (s : State) (win blk : Nat) : List Byte :=
  match s.mem.views.find? (fun v => v.win == win && v.blk == blk) with
  | some v => v.data
  | none =>
    match Table.get s.sys.windows win with
    | none => List.replicate 32 0
    | some w =>
      leBytes 32 (viewAssemble w.ty (s.mem.le (w.elem.toNat + w.elSize * blk) w.elSize)
        (s.mem.le (w.scale.toNat + w.scSize * blk) w.scSize))

/-- n bytes at the coherence point. -/
def State.load (s : State) (key n : Nat) : List Byte :=
  if inAperture key then
    let all := s.viewBytes (apertureWin key) (apertureBlk key) ++ s.viewBytes (apertureWin key) (apertureBlk key + 1)
      ++ s.viewBytes (apertureWin key) (apertureBlk key + 2)
    (all.drop ((key - Config.apertureBase) % 32)).take n
  else s.mem.bytes key n

/-- Split bytes into whole view blocks and cache them dirty (R49). -/
def storeViews (win : Nat) : Nat → List Byte → List ViewBlock → Nat → List ViewBlock
  | _, _, vs, 0 => vs
  | blk, bs, vs, n + 1 =>
    storeViews win (blk + 1) (bs.drop 32)
      (⟨win, blk, (bs.take 32).take 27 ++ List.replicate 5 0, true⟩ :: vs.filter fun v => !(v.win == win && v.blk == blk)) n

/-- The content of a granule. -/
def Memory.granule (m : Memory) (g : Nat) : List Host.Cell :=
  (m.cells.filter fun c => decide (65536 * g ≤ c.1) && decide (c.1 < 65536 * (g + 1))).map fun c => (c.1 - 65536 * g, c.2)

/-- The writer copies a marked granule into the snapshot of the interval, at every virtual address that it had at the cut (R399). -/
def Interval.copy (x : Interval) (g : Nat) (cells : List Host.Cell) : Interval :=
  if x.marked.contains g then
    { x with
      marked := x.marked.filter (· != g)
      snaps := Table.upd x.snaps x.number.toNat fun y =>
        { y with granules := (y.maps.filter fun m => m.2 == g).foldl (fun t m => Table.set t m.1 cells) y.granules } }
  else x

/-- A granule that a write changes, for an interval: copied first if it waits for its copy, and dirty then (R398, R399). -/
def Interval.touch (x : Interval) (g : Nat) (cells : List Host.Cell) : Interval :=
  if x.st = .off then x else { x.copy g cells with dirty := g :: x.dirty.filter (· != g) }

/-- The granules of device memory that a write is about to change, for every context that keeps checkpoints (R398, R399). A lane's write
and an engine's wait for the copy before they come here; what the device itself writes finds it made. -/
def State.markDirty (s : State) (key n : Nat) : State :=
  if Config.deviceBytes ≤ key then s
  else
    let first := key / 65536
    let last := (key + n - 1) / 65536
    let one (t : State) (g : Nat) : State :=
      { t with ckp := { t.ckp with ints := t.ckp.ints.map fun p => (p.1, p.2.touch g (t.mem.granule g)) } }
    if last = first then one s first else one (one s last) first

/-- A dirty view block is written back: its bytes in the element and the scale range change (R49, R398). -/
def State.writeBack (s : State) (w : Window) (v : ViewBlock) : State :=
  let t := (s.markDirty (w.elem.toNat + w.elSize * v.blk) w.elSize).markDirty (w.scale.toNat + w.scSize * v.blk) w.scSize
  { t with mem := t.mem.writeBack w v }

/-- Drop the view blocks derived from bytes that are about to be written, the dirty ones written back first (R50). -/
def State.dropViews (s : State) (key n : Nat) : State :=
  s.mem.views.foldl (fun t v =>
    match Table.get t.sys.windows v.win with
    | none => t
    | some w =>
      if overlap key n (w.elem.toNat + w.elSize * v.blk) w.elSize || overlap key n (w.scale.toNat + w.scSize * v.blk) w.scSize
      then
        let u := if v.dirty then t.writeBack w v else t
        { u with mem := { u.mem with views := u.mem.views.filter fun x => !(x.win == v.win && x.blk == v.blk) } }
      else t) s

/-- What lanes wrote into bytes is written over: no core reads the old lines again, and no lane's write stands there last. -/
def Memory.forget (m : Memory) (key n : Nat) : Memory :=
  { m with
    old := m.old.filter fun o => !overlap key n (64 * o.line) 64
    marks := m.marks.filter fun w => !overlap key n w.key w.size }

/-- Write bytes at the coherence point: a store through a view covers whole blocks; a store into a window's ranges drops
the views derived from it (R50). -/
def State.store (s : State) (key : Nat) (b : List Byte) : State :=
  if inAperture key then
    { s with mem := { s.mem with views := storeViews (apertureWin key) (apertureBlk key) b s.mem.views (b.length / 32) } }
  else
    let t := (s.dropViews key b.length).markDirty key b.length
    { t with mem := (t.mem.forget key b.length).setBytes key b }

/-! ### Page tables (R206 to R209) -/

/-- Virtual die and physical stack (R8, R10). -/
def Links.physical (l : Links) (v : Nat) : Nat := ((if l.refl then 8 - v else v) + l.rot) % 8
def Links.virtual (l : Links) (p : Nat) : Nat :=
  ((List.range 8).find? fun v => l.physical v == p % 8).getD 0

/-- Does a device physical range lie in the memory of present dies (R8, R435). -/
def State.present (s : State) (base len : Nat) : Bool :=
  decide (base + len ≤ Config.deviceBytes) &&
    (List.range 8).all fun p => !(overlap base len (p * Config.stackBytes) Config.stackBytes &&
      s.lnk.absent.contains (s.lnk.virtual p))

/-- Fields of a leaf (R207). -/
def Trans.cls (t : Trans) : Nat := field t.leaf 10 8
def Trans.num (t : Trans) : Nat := field t.leaf 15 11
def Trans.cxla (t : Trans) : Bool := t.leaf.getLsbD 6
def Trans.x (t : Trans) : Bool := t.leaf.getLsbD 3
def Trans.w (t : Trans) : Bool := t.leaf.getLsbD 2
def Trans.frame (t : Trans) : Nat := field t.leaf 51 16 * 65536

/-- A valid leaf that maps 2^bits bytes is well formed (R208; a device frame outside present memory is malformed, log 16). -/
def State.leafOk (s : State) (t : Trans) : Bool :=
  let c := t.cls
  let dev := c == 0 || c == 4 || c == 5
  field t.leaf 63 52 == 0 && !t.leaf.getLsbD 7 && t.frame % 2 ^ t.bits == 0 &&
  (if c == 1 then decide (t.num < 8) else if c == 2 || c == 3 then decide (t.num < 16) else t.num == 0) &&
  (c == 1 || !t.cxla) && !(c == 6 && t.w) && (dev || !t.x) && (!dev || s.present t.frame (2 ^ t.bits))

/-- The levels below the root: the lowest VA bit indexed, and the number of bits indexed (R206). -/
def pageLevels : List (Nat × Nat) := [(45, 12), (33, 12), (29, 4), (21, 8), (16, 5)]

/-- Why a walk finds no leaf: an entry that is not valid, or a malformed entry at an address (R208). -/
inductive WalkEnd where
  | found (t : Trans)
  | invalid
  | malformed (entry : Nat)
  deriving DecidableEq, Repr

/-- Walk the levels from a table's physical address (R206 to R208). -/
def State.walkFrom (s : State) (va : Nat) : List (Nat × Nat) → Nat → WalkEnd
  | [], _ => .invalid
  | (sh, n) :: r, table =>
    let ea := table + 8 * (va / 2 ^ sh % 2 ^ n)
    let e : DWord := BitVec.ofNat 64 (s.mem.le ea 8)
    if !e.getLsbD 0 then .invalid
    else if e.getLsbD 1 then
      (if sh = 45 then .malformed ea
       else if s.leafOk ⟨e, sh, ea⟩ then .found ⟨e, sh, ea⟩ else .malformed ea)
    else if r.isEmpty || field e 63 52 != 0 || field e 6 2 != 0 then .malformed ea
    else s.walkFrom va r (field e 51 7 * 128)

/-- Bits 63:57 equal bit 56 (R206). -/
def canonicalVa (va : DWord) : Bool := field va 63 56 == 0 || field va 63 56 == 255

def State.rootOf (s : State) (ctx : Nat) : Nat :=
  match Table.get s.ctx.contexts ctx with
  | some c => c.record.root.toNat
  | none => 0

/-- The leaf that maps a virtual address of a context, from the tables themselves. -/
def State.walk (s : State) (ctx : Nat) (va : DWord) : WalkEnd :=
  if canonicalVa va then s.walkFrom (va.toNat % 2 ^ 57) pageLevels (s.rootOf ctx) else .invalid

/-- The memory key of a virtual address under a leaf (R207, R209). -/
def Trans.key (t : Trans) (va : DWord) : Nat :=
  let a := t.frame + va.toNat % 2 ^ t.bits
  if t.cls = 1 then hostKey t.num a else if t.cls = 2 then peerKey t.num a else a

/-- What an access does to memory, for the checks of R209. -/
inductive Use where
  | load | store | atomic | fetch
  deriving DecidableEq, Repr

/-- FORMAT_VIEW of n bytes at a view address (R198, R216): window disabled, a block beyond NBLK, another partition's window. So too where
FRAME lies outside the aperture of the window that NUM names, for which the spec gives no outcome (DESIGN CHOICE, log 88). -/
def State.viewBad (s : State) (ctx : Nat) (t : Trans) (va : DWord) (n : Nat := 1) : Bool :=
  let k := t.key va
  !inAperture k ||
  match Table.get s.sys.windows (apertureWin k) with
  | none => true
  | some w =>
    !w.en || decide (w.nblk ≤ apertureBlk k) || decide (w.nblk ≤ apertureBlk (k + n - 1)) || apertureWin k != t.num ||
    match Table.get s.ctx.contexts ctx with
    | some c => c.record.part != w.part
    | none => true

/-- The Steppe link of the die whose stack holds a device address is DOWN (R333). -/
def State.stackDown (s : State) (key : Nat) : Bool :=
  match Table.get s.lnk.dieLinks (s.lnk.virtual (key / Config.stackBytes)) with | some x => x.st == .down | none => false

/-- The class check of R209 for n bytes, in its order: lost, then W and X, then the view rules; memory behind a Steppe link that
is DOWN raises MACHINE_CHECK (R333). Holds and stub pulls are waits. -/
def State.classFault (s : State) (ctx : Nat) (u : Use) (t : Trans) (va : DWord) (n : Nat := 1) : Option Code :=
  if t.cls = 7 then some .pageLost
  else if (u = .store || u = .atomic) && !t.w then some .pageProtection
  else if u = .fetch && !t.x then some .pageProtection
  else if (t.cls = 0 || t.cls = 4 || t.cls = 5) && s.stackDown (t.key va) then some .machineCheck
  else if t.cls = 3 then
    (if u = .atomic then some .formatView else if s.viewBad ctx t va n then some .formatView else none)
  else none

/-- The page number of an address under a leaf's size. -/
def Trans.page (t : Trans) (va : DWord) : Nat := va.toNat / 2 ^ t.bits

/-- What a fetch or an engine finds at an address: the tables' own entry, or, at the hardware's choice, a translation of the page
that a TLB still holds (R211, R212; log 77). A write uses a cached entry only where DIRTY is set in it. -/
def State.find (s : State) (ctx : Nat) (write : Bool) (va : DWord) : WalkEnd :=
  let w := s.walk ctx va
  match (s.mem.tlb.find? fun e => e.ctx == ctx && e.tr.page va == e.page && (!write || e.tr.leaf.getLsbD 5)) with
  | some e => if w = .found e.tr then w else if Config.cachedEntry s.sch.free va then .found e.tr else w
  | none => w

/-- Translate and check n bytes for a fetch or an engine (R209). -/
def State.translate (s : State) (ctx : Nat) (u : Use) (va : DWord) (n : Nat := 1) : Except Code Trans :=
  match s.find ctx (u = .store || u = .atomic) va with
  | .found t => match s.classFault ctx u t va n with
    | some c => .error c
    | none => .ok t
  | _ => .error .pageNotPresent

/-- A malformed entry counts as not valid, and the guardian hears of its physical address (R208). -/
def State.malformedAt (s : State) (ctx : Nat) (va : DWord) : Option Nat :=
  match s.walk ctx va with | .malformed ea => some ea | _ => none

/-- Set ACC, and DIRTY at a write, in the entry a translation came from, if it has not changed (R211). -/
def State.setAccessed (s : State) (t : Trans) (write : Bool) : State × Trans :=
  let e := t.leaf ||| 0x10#64 ||| (if write then 0x20#64 else 0#64)
  if BitVec.ofNat 64 (s.mem.le t.entry 8) = t.leaf then
    (s.store t.entry (leBytes 8 e.toNat), { t with leaf := e })
  else (s, t)

/-! ### Places and time (R11, R13, R19) -/

def dieOf (core : Nat) : Nat := core / Config.coresPerDie
def clusterOf (core : Nat) : Nat := core / 4

/-- The package time counter as a die reads it; 8 is Steppe. -/
def Sched.time (c : Sched) (die : Nat) : DWord := c.clocks.getD die 0

/-! ### Glen's log, events and vectors (R304, R309, R424, R430) -/

/-- Add a record to Glen's event log, a ring of 131,072 (R430). -/
def State.glen (s : State) (source code : Nat) (detail : DWord) : State :=
  { s with sys := { s.sys with
    glenLog := (⟨s.sys.glenSeq, s.sch.time 8, BitVec.ofNat 16 source, BitVec.ofNat 16 code, detail.setWidth 128⟩ :: s.sys.glenLog).take 131072
    glenSeq := s.sys.glenSeq + 1 } }

def eventBytes (seq : DWord) (e : Event) (lost : Nat) : List Byte :=
  leBytes 8 seq.toNat ++ leBytes 8 e.time.toNat ++ leBytes 2 e.ctx ++ leBytes 1 e.kind ++ leBytes 1 e.code ++
  leBytes 4 e.flags ++ leBytes 8 e.wid.toNat ++ leBytes 8 e.addr.toNat ++ leBytes 8 e.detail.toNat ++
  leBytes 8 lost ++ leBytes 8 0

/-- Has a link an event ring with room for one more record (R424). -/
def CmdPage.room (p : CmdPage) : Bool := p.evLog != 0 && decide ((p.evTail - p.evHead).toNat < 2 ^ p.evLog)

/-- Write one event record to a host's ring, advance CEVTAIL and raise the vector (R424). -/
def State.writeEvent (s : State) (host : Nat) (e : Event) : Option State :=
  match Table.get s.ctx.pages host, Table.get s.ctx.contexts e.ctx with
  | some p, some c =>
    if p.room then
      let m := s.mem.setBytes (hostKey host (p.evBase.toNat + 64 * (p.evTail.toNat % 2 ^ p.evLog)))
        (eventBytes p.evTail e c.lost)
      some { s with mem := m, ctx := { s.ctx with
        pages := Table.set s.ctx.pages host { p with evTail := p.evTail + 1 }
        contexts := Table.set s.ctx.contexts e.ctx { c with lost := 0 }
        raised := (host, (Table.get c.vecs host).getD 0) :: s.ctx.raised } }
    else none
  | _, _ => none

/-- Keep an event in the context's queue of 1,024, or drop and count it (R309, R424). -/
def State.queueEvent (s : State) (e : Event) (host : Option Nat) : State :=
  { s with ctx := { s.ctx with contexts := Table.upd s.ctx.contexts e.ctx fun c =>
    if c.events.length < 1024 then { c with events := c.events ++ [(e, host)] } else { c with lost := c.lost + 1 } } }

/-- Deliver an event to every guardian; what no ring can take waits in the context's queue (R424). -/
def State.event (s : State) (e : Event) : State :=
  match Table.get s.ctx.contexts e.ctx with
  | none => s
  | some c =>
    if c.guardians.isEmpty then s.queueEvent e none
    else c.guardians.foldl (fun t g => (t.writeEvent g.host e).getD (t.queueEvent e (some g.host))) s

/-- An event of a context now: TYPE, CODE, FLAGS, WID, ADDR, DETAIL (R424). -/
def State.raise (s : State) (ctx kind code flags : Nat) (wid addr detail : DWord) : State :=
  s.event ⟨kind, code, ctx, flags, wid, addr, detail, s.sch.time 8⟩

/-- The guardian hears of a malformed entry that a fetch or an engine met (R208). -/
def State.noteMalformed (s : State) (ctx : Nat) (va : DWord) : State :=
  match s.malformedAt ctx va with
  | some ea => s.raise ctx 1 0x10 0 0 (BitVec.ofNat 64 ea) 0
  | none => s

/-- A chain channel is saved, or goes on as what it was (R234). -/
def Channel.save (c : Channel) : Channel :=
  match c.st with
  | .walking => { c with st := .saved .walking }
  | .waiting => { c with st := .saved .waiting }
  | .stopped => { c with st := .saved .stopped }
  | _ => c

def Channel.unsave (c : Channel) : Channel :=
  match c.st with
  | .saved .walking => { c with st := .walking }
  | .saved .waiting => { c with st := .waiting }
  | .saved .stopped => { c with st := .stopped }
  | _ => c

/-- Save a context's chain channels, or let them go on (R239). -/
def State.mapChans (s : State) (ctx : Nat) (f : Channel → Channel) : State :=
  { s with eng := { s.eng with channels := s.eng.channels.map fun (p : Nat × Channel) => (p.1, if p.2.ctx = ctx then f p.2 else p.2) } }

/-- Begin a suspension: dispatch stops, queues go to SUSPENDED, chain channels to SAVED, groups are pre-empted as they may (R306). -/
def State.beginSuspend (s : State) (ctx : Nat) : State :=
  let s := s.mapChans ctx Channel.save
  { s with
    ctx := { s.ctx with contexts := Table.upd s.ctx.contexts ctx fun c => { c with st := .suspended, suspending := true } }
    ker := { s.ker with queues := s.ker.queues.map fun p =>
      (p.1, if field p.2.cfg 47 36 == ctx && (p.2.st == .active || p.2.st == .waiting || p.2.st == .overrun)
            then { p.2 with prior := p.2.st, st := .suspended, asked := false } else p.2) } }

/-- An event that needs service: in an orphan the context suspends (R304). -/
def State.needService (s : State) (ctx : Nat) : State :=
  match Table.get s.ctx.contexts ctx with
  | some c => if c.st = .orphaned then s.beginSuspend ctx else s
  | none => s

/-! ### Lanes: registers and predicates (R27, R60 to R64, R99, R100) -/

def hasBit (m : Mask) (i : Nat) : Bool := m.getLsbD i

def laneMask (l : List Nat) : Mask := l.foldl (fun m i => m ||| (1#64 <<< i)) 0

/-- The lanes of a mask in ascending order. -/
def maskLanes (m : Mask) : List Nat := (List.range 64).filter fun i => hasBit m i

/-- P7 reads true (R60). -/
def Lane.pred (l : Lane) (i : Nat) : Bool := if i = 7 then true else l.p.getLsbD i

def Lane.setPred (l : Lane) (i : Nat) (b : Bool) : Lane :=
  if i < 7 then { l with p := if b then l.p ||| (1#7 <<< i) else l.p &&& ~~~(1#7 <<< i) } else l

/-- v255 reads zero (R60). -/
def Lane.readV (l : Lane) (i : Nat) : Word := if i = 255 then 0 else Sparse.get l.v i

/-- v255 discards writes (R60). -/
def Lane.writeV (l : Lane) (i : Nat) (x : Word) : Lane := if i = 255 then l else { l with v := Sparse.set l.v i x }

/-- A 32-bit register of class 0 to 2. -/
def Lane.read32 (l : Lane) (cls i : Nat) : Word :=
  if cls = 0 then l.readV i else if cls = 1 then Sparse.get l.o i else Sparse.get l.a i

def Lane.write32 (l : Lane) (cls i : Nat) (x : Word) : Lane :=
  if cls = 0 then l.writeV i x
  else if cls = 1 then { l with o := Sparse.set l.o i x } else { l with a := Sparse.set l.a i x }

/-- The class and index of a per-lane register. -/
def laneReg : Opnd → Option (Nat × Nat)
  | .v i => some (0, i.toNat)
  | .o i => some (1, i.toNat)
  | .a i => some (2, i.toNat)
  | _ => none

/-- Src of a 32- or 64-bit operand: a pair has its low half in the even register; an immediate is sign-extended; an absent
field reads 0 (R60, R61, R100, R102). -/
def readOp (g : Group) (l : Lane) (w64 : Bool) (x : Opnd) : DWord :=
  match x with
  | .s i => Sparse.get g.s i.toNat
  | .imm i => i.signExtend 64
  | _ =>
    match laneReg x with
    | some (c, i) =>
      if w64 then l.read32 c (i + 1) ++ l.read32 c i else (l.read32 c i).setWidth 64
    | none => 0

/-- Pred(F): class 7 reads as the entry states (R65). -/
def readPred (l : Lane) (dflt : Bool) : Opnd → Bool
  | .p neg i => l.pred i.toNat != neg
  | _ => dflt

/-- The guard of a lane (R64). -/
def Lane.guard (l : Lane) (h : Hd) : Bool :=
  let g (x : BitVec 4) : Bool := l.pred (x.toNat % 8) != x.getLsbD 3
  if h.gj then g h.ga || g h.gb else g h.ga && g h.gb

/-- A register write in one lane; a pair takes the low half in the even register. -/
def Lane.write (l : Lane) (x : Opnd) (w64 : Bool) (y : DWord) : Lane :=
  match laneReg x with
  | some (c, i) =>
    if w64 then (l.write32 c i (y.setWidth 32)).write32 c (i + 1) ((y >>> 32).setWidth 32)
    else l.write32 c i (y.setWidth 32)
  | none => l

/-- Dst: a register of the lane, or an s register of the group (R99, R100, R102). -/
def Group.write (g : Group) (lane : Nat) (x : Opnd) (w64 : Bool) (y : DWord) : Group :=
  match x with
  | .s i => { g with s := Sparse.set g.s i.toNat y }
  | _ => { g with lanes := g.lanes.modify lane fun l => l.write x w64 y }

def Group.updLane (g : Group) (lane : Nat) (f : Lane → Lane) : Group := { g with lanes := g.lanes.modify lane f }

/-- Every lane of a mask. -/
def Group.updLanes (g : Group) (m : Mask) (f : Lane → Lane) : Group :=
  { g with lanes := g.lanes.mapIdx fun i l => if hasBit m i then f l else l }

/-- The reset value of a lane, for filling reads past a group's width. -/
def laneZero : Lane :=
  ⟨0, 0, [], [], [], 0, 0, 0, 0, 0, 0, 0, false, 0, 0, 0, 0, 0, 0, ⟨.idle, 0, false, 0⟩, .running, [], 0, none, none, false, 0, []⟩

def Group.lane (g : Group) (i : Nat) : Lane := g.lanes.getD i laneZero

def Group.width (g : Group) : Nat := g.lanes.length

/-- Lanes not EXITED (R142). -/
def Group.liveMask (g : Group) : Mask :=
  laneMask ((List.range g.width).filter fun i => (g.lane i).st != .exited)

def Group.parkedMask (g : Group) : Mask :=
  laneMask ((List.range g.width).filter fun i => (g.lane i).st == .parked)

/-! ### Groups, teams, kernels -/

def State.group (s : State) (gid : Nat) : Option Group := Table.get s.run.groups gid

def State.setGroup (s : State) (gid : Nat) (g : Group) : State :=
  { s with run := { s.run with groups := Table.set s.run.groups gid g } }

def State.updGroup (s : State) (gid : Nat) (f : Group → Group) : State :=
  { s with run := { s.run with groups := Table.upd s.run.groups gid f } }

def State.setTeam (s : State) (k : Nat) (t : Team) : State :=
  { s with run := { s.run with teams := Table.set s.run.teams k t } }

def State.teamOf (s : State) (g : Group) : Option Team := Table.get s.run.teams g.team

def State.kernelOf (s : State) (g : Group) : Option Kernel :=
  match s.teamOf g with
  | some t => Table.get s.ker.kernels t.kernel
  | none => none

/-- The context of a group; 4,096 names none. -/
def State.ctxOf (s : State) (g : Group) : Nat := match s.kernelOf g with | some k => k.ctx | none => 4096

def State.partOf (s : State) (ctx : Nat) : Nat :=
  match Table.get s.ctx.contexts ctx with | some c => c.record.part | none => 12

/-- %wid of a lane (R268). -/
def State.wid (s : State) (g : Group) (lane : Nat) : DWord :=
  match s.teamOf g, s.kernelOf g with
  | some t, some k =>
    let w0 := if k.hdr.width = 16 then 4 else if k.hdr.width = 32 then 5 else 6
    BitVec.ofNat 64 (lane + g.gidx * 2 ^ w0 + t.tix * 2 ^ (w0 + k.hdr.ws.getD 0 0))
  | _, _ => BitVec.ofNat 64 lane

/-- %ptime as a group reads it: its die's copy, which after a migration or a restore it reads as no less than before (R19, R20). -/
def State.ptime (s : State) (g : Group) : DWord :=
  let t := s.sch.time (dieOf g.core)
  if t.toNat < g.timeFloor.toNat then g.timeFloor else t

/-- The group as it leaves its die (R20). -/
def Group.leaving (g : Group) (s : State) : Group := { g with timeFloor := s.ptime g }

/-- A fresh object number. -/
def State.fresh (s : State) : Nat × State := (s.sch.nextId, { s with sch := { s.sch with nextId := s.sch.nextId + 1 } })

/-! ### Program counters and fetch lines (R51 to R58) -/

/-- Malformed: bits 5:3 nonzero or a slot above 4 (R53). -/
def pcOk (pc : DWord) : Bool := field pc 5 3 == 0 && decide (field pc 2 0 ≤ 4)

/-- The sequential successor (R53). -/
def succPc (pc : DWord) : DWord := if field pc 2 0 = 4 then pc - 4 + 64 else pc + 1

/-- The fetch line that holds a PC, as the context fetches it (R55, R209). It is read at the coherence point, so code that has been
stored is seen at once (DESIGN CHOICE, log 79: R55 gives code stored while a kernel runs no defined time). -/
def State.fetchLine (s : State) (ctx : Nat) (pc : DWord) : Except Code (BitVec 512) :=
  let va := pc - BitVec.ofNat 64 (field pc 5 0)
  match s.translate ctx .fetch va with
  | .error c => .error c
  | .ok t => .ok (BitVec.ofNat 512 (leNat (s.load (t.key va) 64)))

/-- A transfer may land on this PC: it is well formed and its TGT bit is set (R53, R58). A line that cannot be fetched
passes: the fetch at the target faults then (R214; log 17). The TGT bit of a line whose parity fails is read as it stands, so a clear one
gives BRANCH_TARGET here and a set one MACHINE_CHECK at the fetch (R54, R58 give no order; DESIGN CHOICE, log 17). -/
def State.targetOk (s : State) (ctx : Nat) (pc : DWord) : Bool :=
  pcOk pc && match s.fetchLine ctx pc with
    | .ok line => (lineHead line).getLsbD (17 + field pc 2 0)
    | .error _ => true

/-- A handler's first slot can be fetched and is marked (R58). -/
def State.handlerOk (s : State) (ctx : Nat) (pc : DWord) : Bool :=
  pcOk pc && match s.fetchLine ctx pc with
    | .ok line => (lineHead line).getLsbD (17 + field pc 2 0)
    | .error _ => false

/-! ### Meeting, joining and bundles (R93, R144 to R147, R157) -/

/-- A lane that moves to a PC: HELD where it equals the nonzero meeting register (R147). -/
def Lane.arrive (l : Lane) (pc : DWord) : Lane :=
  { l with pc := pc, since := none,
           st := if l.st = .running ∧ l.meet ≠ 0 ∧ pc = l.meet then .held false else l.st }

/-- Every other non-exited lane that names a held lane's meeting address is held there too (R147). -/
def Group.meetDone (g : Group) (a : DWord) : Bool :=
  g.lanes.all fun l => l.st == .exited || l.meet != a || l.st == .held false

/-- Every non-exited lane is HELD at a JOIN (R157). -/
def Group.joinDone (g : Group) : Bool := g.lanes.all fun l => l.st == .exited || l.st == .held true

/-- Every non-exited lane is HELD somewhere (R147). -/
def Group.allHeld (g : Group) : Bool :=
  g.lanes.all fun l => l.st == .exited || l.st == .held true || l.st == .held false

/-- Lanes that are HELD or SLEEPING belong to no bundle; what they leave is re-formed at the next boundary (R144, R145). -/
def Group.unbundle (g : Group) : Group :=
  let away := laneMask ((List.range g.width).filter fun i =>
    match (g.lane i).st with | .held _ | .sleeping _ => true | _ => false)
  { g with bundles := g.bundles.filterMap fun b =>
      if b.lanes &&& away = 0 then some b
      else if b.lanes &&& ~~~away = 0 then none
      else some { b with lanes := b.lanes &&& ~~~away, broken := true } }

/-- Release the lanes whose meeting or join is complete; a deadlocked group releases its meeting lanes (R147, R157). -/
def Group.release (g : Group) : Group :=
  let met := g.lanes.map fun l =>
    if l.st = .held false ∧ g.meetDone l.meet then { l with st := .running, meet := 0 } else l
  let g1 := { g with lanes := met }
  if g1.joinDone then { g1 with lanes := g1.lanes.map fun l => if l.st = .held true then { l with st := .running } else l }
  else if g1.allHeld then
    { g1 with lanes := g1.lanes.map fun l => if l.st = .held false then { l with st := .running, meet := 0 } else l }
  else g1

/-- After lanes have moved: who is held leaves its bundle, and whoever may be released is (R144 to R147, R157). -/
def Group.settle (g : Group) : Group := g.unbundle.release

/-- Put lane i into the bundles being formed: with the lanes of the same PC, on the same side of the split of R146. The bundle
counts as not having issued since the latest issue of its parts, and 0 for lanes that were in none (R148 does not say; DESIGN
CHOICE, log 80). -/
def Group.place (g : Group) (late : Nat → Bool) (bs : List Bundle) (i : Nat) : List Bundle :=
  let last := ((g.bundles.find? fun b => hasBit b.lanes i).map (·.last)).getD 0
  let same (b : Bundle) : Bool :=
    ((maskLanes b.lanes).head?.map fun j => (g.lane j).pc == (g.lane i).pc && late j == late i).getD false
  if bs.any same then
    bs.map fun b => if same b then { b with lanes := b.lanes ||| (1#64 <<< i), last := Nat.max b.last last } else b
  else bs ++ [⟨1#64 <<< i, last, none, false⟩]

/-- Place the RUNNING lanes in bundles by PC; lanes that wait stay with their bundle (R144). -/
def Group.rebundle (g : Group) (late : Nat → Bool) : Group :=
  let waiting := g.bundles.filterMap fun b =>
    let m := laneMask ((maskLanes b.lanes).filter fun i => match (g.lane i).st with | .stalled _ => true | _ => false)
    if m = 0 then none else some { b with lanes := m, blocked := none, broken := false }
  let run := (List.range g.width).filter fun i => (g.lane i).st == .running
  { g with bundles := run.foldl (g.place late) [] ++ waiting }

/-! ### Faults: parks and traps (R72, R93, R96 to R98, R304, R308, R309) -/

def Code.num : Code → Nat
  | .illegalEncoding => 0x01
  | .branchTarget => 0x02
  | .resourceBound => 0x03
  | .scratchBounds => 0x04
  | .alignment => 0x05
  | .float => 0x06
  | .intDivide => 0x07
  | .userTrap => 0x08
  | .pageNotPresent => 0x10
  | .pageProtection => 0x11
  | .pageLost => 0x12
  | .pageHeld => 0x13
  | .formatView => 0x14
  | .atomicUnsupported => 0x18
  | .peerUnreachable => 0x19
  | .remoteTimeout => 0x1A
  | .stubLost => 0x20
  | .stubInvalid => 0x21
  | .seqTrap => 0x28
  | .serviceRequired => 0x30
  | .handlerFetch => 0x31
  | .machineCheck => 0x3F

/-- Set %fcode and %faddr of the lanes of a bundle: the faulting lanes' own, 0 in the others (R96, R214). -/
def Group.setFault (g : Group) (m : Mask) (fs : List (Nat × Code × DWord)) : Group :=
  { g with lanes := g.lanes.mapIdx fun i l =>
    if hasBit m i then
      (match fs.find? fun f => f.1 == i with
        | some (_, c, a) => { l with fcode := BitVec.ofNat 32 c.num, faddr := a }
        | none => { l with fcode := 0, faddr := 0 })
    else l }

/-- Park lanes: they leave RUNNING, STALLED or SLEEPING, and the group becomes PARKED (R93, R143). -/
def Group.park (g : Group) (m : Mask) : Group :=
  { g with
    lanes := g.lanes.mapIdx fun i l => if hasBit m i ∧ l.st ≠ .exited then { l with st := .parked, since := none } else l
    bundles := g.bundles.filterMap fun b => if b.lanes &&& ~~~m = 0 then none else some { b with lanes := b.lanes &&& ~~~m }
    st := match g.st with | .saved _ => .saved true | .resident => .parked | x => x
    flags := g.flags ||| 4 }

/-- A lane of the group waits on SVCW (R306). -/
def Group.onSvcw (g : Group) : Bool :=
  g.lanes.any fun l => match l.st with | .stalled w => (match w.kind with | .svcw _ _ => true | _ => false) | _ => false

/-- FLAGS of the group's save header (R306). -/
def Group.headerFlags (g : Group) : BitVec 3 := g.saveFlags ||| (if g.onSvcw then 2 else 0)

/-- Park a bundle and send the fault to the guardians; an orphan suspends (R72, R93, R304, R424). `save` holds the FLAGS bits of
the save header: 1 double trap, 2 waiting on SVCW, 4 HANDLER_FETCH. -/
def State.parkFault (s : State) (gid : Nat) (m : Mask) (fs : List (Nat × Code × DWord)) (save : BitVec 3) : State :=
  match s.group gid with
  | none => s
  | some g =>
    let ctx := s.ctxOf g
    let g1 := { ((g.setFault m fs).park m) with saveFlags := g.saveFlags ||| save }
    let f := (fs.head?.map fun x => (x.2.1.num, x.2.2)).getD (0, 0)
    ((s.setGroup gid g1).raise ctx 1 f.1 g1.headerFlags.toNat (s.wid g 0) f.2 0).needService ctx

/-- Write a pending result in the lanes of a mask, and close their windows for it (R69, R141). -/
def Group.writePending (g : Group) (id : Nat) (p : Pending) (m : Mask) : Group :=
  let g1 := p.regs.foldl (fun h r => if hasBit m r.1 then h.write r.1 r.2.1 r.2.2.1 r.2.2.2 else h) g
  let g2 := p.preds.foldl (fun h r => if hasBit m r.1 then h.updLane r.1 (fun l =>
    match r.2.1 with | .p _ i => l.setPred i.toNat r.2.2 | _ => l) else h) g1
  let g3 := p.exc.foldl (fun h r => if hasBit m r.1 then
    h.updLane r.1 (fun l => { l with fpst := l.fpst ||| r.2.setWidth 32 }) else h) g2
  g3.updLanes m fun l => { l with wins := l.wins.filter fun w => w.1 != id }

/-- What is left of a pending result once the lanes of a mask have it. -/
def Pending.without (p : Pending) (m : Mask) : Pending :=
  { p with regs := p.regs.filter fun r => !hasBit m r.1, preds := p.preds.filter fun r => !hasBit m r.1,
           exc := p.exc.filter fun r => !hasBit m r.1 }

/-- Write the results that have arrived for lanes entering a handler; the handler's first instruction waits for those that
have not (R97: `enter` closes every window). -/
def Group.flushPending (g : Group) (gid : Nat) (m : Mask) (pend : Table Pending) : Group :=
  pend.foldl (fun h p => if p.2.gid = gid then h.writePending p.1 p.2 m else h) g

/-- Fill the emulation registers, set H and enter the handler (R73, R97). -/
def Group.enter (g : Group) (m : Mask) (word : IWord) (pc info entry : DWord) : Group :=
  { g with
    lanes := g.lanes.mapIdx fun i l =>
      if hasBit m i then
        (Lane.arrive { l with xword := word, xpc := pc, xinfo := info, h := true, st := .running,
                              wins := l.wins.map fun w => (w.1, 0) } entry)
      else l }

/-- What %xinfo says of the trapping instruction (R73): its slot, PAIRED, SECOND. -/
def Issue.info (i : Issue) : DWord :=
  BitVec.ofNat 64 (field i.pc 2 0 + (if i.paired then 8 else 0) + (if i.second then 16 else 0))

def State.setIssue (s : State) (f : Issue → Issue) : State :=
  { s with sch := { s.sch with issue := s.sch.issue.map f } }

/-- Take a precise fault in a bundle (R72, R96, R97, R308, R309): every active lane enters the handler named in the header;
with H set in a lane the trap is double and the bundle parks; without a handler, or where its first slot cannot be entered,
the bundle parks. `fs` lists the lanes that raised the fault, with code and %faddr. -/
def State.takeTrap (s : State) (i : Issue) (fs : List (Nat × Code × DWord)) : State :=
  match s.group i.gid with
  | none => s
  | some g0 =>
    let g := i.snap.getD g0
    let s1 := (s.setGroup i.gid g).setIssue fun j => { j with trapped := true }
    let handler := match s.kernelOf g with | some k => k.hdr.handler | none => 0
    if fs.any fun f => (g.lane f.1).h then s1.parkFault i.gid i.lanes fs 1
    else if handler = 0 then s1.parkFault i.gid i.lanes fs 0
    else
      let g1 := (((g.flushPending i.gid i.lanes s.run.pend).setFault i.lanes fs).enter i.lanes i.word i.pc0 i.info handler).settle
      let s2 := { s1.setGroup i.gid g1 with run := { (s1.setGroup i.gid g1).run with
        pend := s1.run.pend.map fun p => (p.1, if p.2.gid = i.gid then p.2.without i.lanes else p.2) } }
      if s.handlerOk (s.ctxOf g) handler then s2
      else s2.parkFault i.gid i.lanes ((maskLanes i.lanes).map fun l => (l, Code.handlerFetch, handler)) 4

/-- Return from the handler: H is cleared, and the lane goes to its %xpc (R74, R121). -/
def Lane.leave (l : Lane) : Lane × DWord := ({ l with h := false }, l.xpc)

/-! ### Issue: the bundle that runs (R56, R64, R93, R99, R148) -/

/-- The bundle in issue and its group, if there is one. -/
def State.current (s : State) : Option (Issue × Group) :=
  match s.sch.issue with
  | some i => match s.group i.gid with
    | some g => some (i, g)
    | none => none
  | none => none

/-- Active lanes in ascending order. -/
def Issue.active (i : Issue) : List Nat := maskLanes i.lanes

/-- The group whose operands the instruction reads: as it stood before the pair (R56). -/
def Issue.source (i : Issue) (g : Group) : Group := i.snap.getD g

/-- Active lanes whose guard holds (R64). -/
def Issue.guarded (i : Issue) (g : Group) (h : Hd) : List Nat :=
  i.active.filter fun l => ((i.source g).lane l).guard h

/-- The first instruction of a pair: the bundle's meetings are looked at after the second (R56, R157). -/
def Issue.firstOfPair (i : Issue) : Bool := i.paired && !i.second

/-- One lane retires an instruction (R407). -/
def Lane.retire (l : Lane) : Lane := { l with retired := l.retired + 1 }

/-- Every active lane retires and moves to the successor (R64, R93). -/
def Group.advance (g : Group) (i : Issue) : Group :=
  let next := succPc i.pc
  if i.firstOfPair then g.updLanes i.lanes fun l => { l.retire with pc := next }
  else (g.updLanes i.lanes fun l => l.retire.arrive next).settle

/-- A debug register of a partition (R413). -/
def State.dbgReg (s : State) (p off : Nat) : DWord := Sparse.get s.ckp.dbg (p * 0x400 + off)

def State.setDbg (s : State) (p off : Nat) (x : DWord) : State :=
  { s with ckp := { s.ckp with dbg := Sparse.set s.ckp.dbg (p * 0x400 + off) x } }

/-- Add to partition counter i of a context's partition (R416). -/
def State.count (s : State) (ctx i : Nat) (x : DWord) : State :=
  let p := s.partOf ctx
  if p < 12 then s.setDbg p (0x300 + 8 * i) (s.dbgReg p (0x300 + 8 * i) + x) else s

/-- The instruction cannot issue yet: the bundle waits at issue under a stall reason and is tried again in the next cycle (R159;
log 3). Its lanes keep the access number from which it need not wait (R203). -/
def State.waitAtIssue (s : State) (i : Issue) (reason : Nat) : State :=
  let hold (k : Nat) (l : Lane) : Lane := if hasBit i.lanes k then { l with since := some (l.since.getD s.sch.nextId) } else l
  (s.updGroup i.gid fun g => { g with lanes := g.lanes.mapIdx hold }).setIssue fun j => { j with held := some reason }

/-- A bundle of the group issues in this cycle (R148). -/
def Group.issues (g : Group) (m : Mask) (cycle : Nat) : Group :=
  { g with lastIssue := cycle, bundles := g.bundles.map fun b => if b.lanes &&& m = 0 then b else { b with last := cycle } }

def State.issues (s : State) (gid : Nat) (m : Mask) : State := s.updGroup gid fun g => g.issues m s.sch.cycle

/-- A chosen bundle does not issue after all: the slot that was counted as used counts under a stall reason instead (R158), and the
bundle stands in the order of R148 where it stood. -/
def State.loseSlot (s : State) (gid reason : Nat) : State :=
  match s.group gid with
  | none => s
  | some g =>
    let q := g.core * 4 + g.quad
    let t := s.updGroup gid fun g => { g with issued := g.issued - 1, stalls := g.stalls.modify reason (· + 1) }
    let u := (t.count (s.ctxOf g) 0 (-1)).count (s.ctxOf g) (1 + reason) 1
    if Table.get u.run.busy q = some gid then { u with run := { u.run with busy := Table.del u.run.busy q } } else u

/-- The access id below which an instruction that waits at issue must wait: fixed at its first attempt (R194, R203). -/
def State.earlier (s : State) (i : Issue) (g : Group) : Nat :=
  match i.active.head? with
  | some l => ((g.lane l).since).getD s.sch.nextId
  | none => s.sch.nextId

end Sys2Proof.Machine
end

