-- ==== Sys2Proof/Machine/Crypto.lean ====
section
/-! DEFINITION. Machine/Crypto.lean: SHA-384 and the check of an ECDSA signature on brainpoolP384r1, which ADOPT and firmware images use
(17_context.md, R305; 27_system.md, R431). The manual names both; their constants, and the order of bytes in a point and in a
signature, most significant first, are those of the published standards (PRESUMED, log 13). -/

namespace Sys2Proof.Machine

/-! ### SHA-384 -/

/-- The whole part of the k-th root of a number below 2^(k n), found bit by bit from the top. -/
def wholeRoot (k : Nat) : Nat → Nat → Nat
  | 0, _ => 0
  | n + 1, x =>
    let r := 2 * wholeRoot k n (x / 2 ^ k)
    if (r + 1) ^ k ≤ x then r + 1 else r

/-- The primes below 410, of which there are 80. -/
def eightyPrimes : List Nat :=
  (List.range 410).filter fun n => 2 ≤ n && (List.range 19).all fun d => n % (d + 2) != 0 || n == d + 2

/-- The first 64 bits of the fraction of a number's k-th root. -/
def rootFraction (k p : Nat) : BitVec 64 := BitVec.ofNat 64 (wholeRoot k 70 (p * 2 ^ (64 * k)))

/-- The 80 constants that the rounds add: from the cube roots of the first 80 primes. -/
def shaKeys : List (BitVec 64) := eightyPrimes.map (rootFraction 3)

/-- The working words at the start: from the square roots of the 9th to the 16th prime. -/
def shaInit : List (BitVec 64) := ((eightyPrimes.drop 8).take 8).map (rootFraction 2)

/-- The words of a message schedule, the latest first, after n more. -/
def shaSchedule : Nat → List (BitVec 64) → List (BitVec 64)
  | 0, w => w
  | n + 1, w =>
    let x := w.getD 14 0
    let y := w.getD 1 0
    let s0 := x.rotateRight 1 ^^^ x.rotateRight 8 ^^^ x >>> 7
    let s1 := y.rotateRight 19 ^^^ y.rotateRight 61 ^^^ y >>> 6
    shaSchedule n ((w.getD 15 0 + s0 + w.getD 6 0 + s1) :: w)

/-- One round on the eight working words. -/
def shaRound (v : List (BitVec 64)) (kw : BitVec 64) : List (BitVec 64) :=
  match v with
  | [a, b, c, d, e, f, g, h] =>
    let t1 := h + (e.rotateRight 14 ^^^ e.rotateRight 18 ^^^ e.rotateRight 41) + (e &&& f ^^^ ~~~e &&& g) + kw
    let t2 := (a.rotateRight 28 ^^^ a.rotateRight 34 ^^^ a.rotateRight 39) + (a &&& b ^^^ a &&& c ^^^ b &&& c)
    [t1 + t2, a, b, c, d + t1, e, f, g]
  | x => x

/-- A number from bytes, most significant first. -/
def beNat (b : List Byte) : Nat := b.foldl (fun n x => 256 * n + x.toNat) 0

/-- Absorb a block of 128 bytes. -/
def shaBlock (v : List (BitVec 64)) (b : List Byte) : List (BitVec 64) :=
  let w := ((List.range 16).map fun k => BitVec.ofNat 64 (beNat ((b.drop (8 * k)).take 8))).reverse
  let r := (List.zipWith (· + ·) shaKeys (shaSchedule 64 w).reverse).foldl shaRound v
  List.zipWith (· + ·) v r

def shaBlocks : Nat → List (BitVec 64) → List Byte → List (BitVec 64)
  | 0, v, _ => v
  | n + 1, v, b => shaBlocks n (shaBlock v (b.take 128)) (b.drop 128)

/-- A message with its padding: a one bit, zeros, and its length in bits. -/
def shaPadded (m : List Byte) : List Byte :=
  m ++ [0x80] ++ List.replicate ((239 - m.length % 128) % 128) 0 ++
    (List.range 16).map fun k => BitVec.ofNat 8 (8 * m.length / 256 ^ (15 - k))

/-- The 48 bytes of SHA-384. -/
def sha384 (m : List Byte) : List Byte :=
  let b := shaPadded m
  ((shaBlocks (b.length / 128) shaInit b).take 6).flatMap fun x => (leBytes 8 x.toNat).reverse

/-- SHA-384 of a key as a context record holds it (R298). -/
def keyHash (key : List Byte) : BitVec 384 := BitVec.ofNat 384 (leNat (sha384 key))

/-! ### brainpoolP384r1 -/

def curveP : Nat := 0x8CB91E82A3386D280F5D6F7E50E641DF152F7109ED5456B412B1DA197FB71123ACD3A729901D1A71874700133107EC53
def curveA : Nat := 0x7BC382C63D8C150C3C72080ACE05AFA0C2BEA28E4FB22787139165EFBA91F90F8AA5814A503AD4EB04A8C7DD22CE2826
def curveB : Nat := 0x04A8C7DD22CE28268B39B55416F0447C2FB77DE107DCD2A62E880EA53EEB62D57CB4390295DBC9943AB78696FA504C11
def curveQ : Nat := 0x8CB91E82A3386D280F5D6F7E50E641DF152F7109ED5456B31F166E6CAC0425A7CF3AB6AF6B7FC3103B883202E9046565

def curveG : Nat × Nat :=
  (0x1D1C64F068CF45FFA2A63A81B7C13F6B8847A3E77EF14FE3DB7FCAFE0CBD10E8E826E03436D646AAEF87B2E247D4AF1E,
   0x8ABE1D7520F9C2A45CB1EB8E95CFD55262B70B29FEEC5864E19C054FF99129280E4646217791811142820341263C5315)

/-- a^e modulo m, for an exponent of at most n bits. -/
def powMod (m a : Nat) : Nat → Nat → Nat
  | 0, _ => 1 % m
  | n + 1, e =>
    if e = 0 then 1 % m
    else
      let h := powMod m a n (e / 2)
      if e % 2 = 1 then h * h % m * a % m else h * h % m

/-- The inverse modulo a prime. -/
def invMod (m a : Nat) : Nat := powMod m (a % m) 384 (m - 2)

/-- The sum of two points; none is the point at infinity. -/
def addPoints (x y : Option (Nat × Nat)) : Option (Nat × Nat) :=
  match x, y with
  | none, q => q
  | p, none => p
  | some (a, b), some (c, d) =>
    let via (l : Nat) : Option (Nat × Nat) :=
      let u := (l * l + 2 * curveP - a - c) % curveP
      some (u, (l * (a + curveP - u) + curveP - b) % curveP)
    if a ≠ c then via ((d + curveP - b) * invMod curveP (c + curveP - a) % curveP)
    else if (b + d) % curveP = 0 then none
    else via ((3 * a * a + curveA) * invMod curveP (2 * b) % curveP)

/-- k times a point, for a factor of at most n bits. -/
def mulPoint (g : Option (Nat × Nat)) : Nat → Nat → Option (Nat × Nat)
  | 0, _ => none
  | n + 1, k =>
    if k = 0 then none
    else
      let h := mulPoint g n (k / 2)
      let d := addPoints h h
      if k % 2 = 1 then addPoints d g else d

/-- The point of a 97-byte key 0x04, X, Y, if it is one of the curve. -/
def keyPoint (key : List Byte) : Option (Nat × Nat) :=
  let x := beNat ((key.drop 1).take 48)
  let y := beNat (key.drop 49)
  if key.length = 97 ∧ key.head? = some 4 ∧ x < curveP ∧ y < curveP ∧ y * y % curveP = (x * x * x + curveA * x + curveB) % curveP then some (x, y)
  else none

/-- An ECDSA signature r, s of a message holds under a key (R305). -/
def signatureHolds (key msg sig : List Byte) : Bool :=
  let r := beNat (sig.take 48)
  let s := beNat (sig.drop 48)
  match keyPoint key with
  | none => false
  | some p =>
    if sig.length ≠ 96 ∨ r = 0 ∨ curveQ ≤ r ∨ s = 0 ∨ curveQ ≤ s then false
    else
      let w := invMod curveQ s
      let u1 := beNat (sha384 msg) * w % curveQ
      let u2 := r * w % curveQ
      match addPoints (mulPoint (some curveG) 384 u1) (mulPoint (some p) 384 u2) with
      | none => false
      | some (x, _) => x % curveQ == r

end Sys2Proof.Machine
end

