-- ==== Sys2Proof/Machine/Operands.lean ====
section
/-! DEFINITION. Machine/Operands.lean: the shape that lane instructions share: each active lane whose guard holds computes an
effect from the operands as they stand before any lane is written; a precise fault in any lane traps the bundle; otherwise
every effect is written and every active lane moves on (R64, R96, R99, R102, R125, R150). -/

namespace Sys2Proof.Machine

/-- What an instruction does in one lane. -/
structure Eff where
  /-- A precise fault: code and %faddr. -/
  fault : Option (Code × DWord) := none
  /-- Floating-point exceptions raised (R139). -/
  exc : Exc := 0
  /-- Register writes: register, width, value. -/
  regs : List (Opnd × Bool × DWord) := []
  /-- Writes of bits 63:32 of 64-bit registers, whose bits 31:0 stay (R104). -/
  his : List (Opnd × Word) := []
  /-- Predicate writes. -/
  preds : List (Opnd × Bool) := []
  /-- The generator after the uses of SR. -/
  sr : Option Word := none
  /-- Any other change to the lane's own state, made before it moves on. -/
  upd : Lane → Lane := id
  /-- Where the lane goes, if not to the successor. -/
  pc : Option DWord := none

/-- The precise fault of a lane: FLOAT where %fpen enables an exception that was raised, with the exceptions in %faddr
(R140: FLOAT is checked after RESOURCE_BOUND and before every other fault). -/
def Eff.trap (e : Eff) (l : Lane) : Option (Code × DWord) :=
  if (l.fpen.setWidth 5 &&& e.exc.setWidth 5 : BitVec 5) ≠ 0 then some (.float, e.exc.setWidth 64) else e.fault

/-- Write a predicate; P7 and an absent field discard it (R65). -/
def Lane.writePred (l : Lane) (x : Opnd) (b : Bool) : Lane :=
  match x with
  | .p _ i => l.setPred i.toNat b
  | _ => l

/-- The lane's own part of an effect. Exceptions join what %fpst holds as they are written: after an SWR of %fpst in the first
slot of a pair they join its value (R56, R141; DESIGN CHOICE, log 75). -/
def Eff.onLane (e : Eff) (l : Lane) : Lane :=
  let l1 := e.preds.foldl (fun l p => l.writePred p.1 p.2) l
  e.upd { l1 with fpst := l1.fpst ||| e.exc.setWidth 32, sr := e.sr.getD l1.sr }

/-- Write bits 63:32 of a lane's 64-bit register: the odd register of a pair (R104). -/
def Lane.writeHi (l : Lane) (x : Opnd) (y : Word) : Lane := match laneReg x with | some (c, i) => l.write32 c (i + 1) y | none => l

/-- Write bits 63:32 of a 64-bit register. -/
def Group.writeHi (g : Group) (lane : Nat) (x : Opnd) (y : Word) : Group :=
  match x with
  | .s i => { g with s := Sparse.set g.s i.toNat (y ++ (Sparse.get g.s i.toNat).setWidth 32) }
  | _ => g.updLane lane fun l => l.writeHi x y

/-- Write a lane's effect. -/
def Group.apply (g : Group) (lane : Nat) (e : Eff) : Group :=
  (e.his.foldl (fun g r => g.writeHi lane r.1 r.2) (e.regs.foldl (fun g r => g.write lane r.1 r.2.1 r.2.2) g)).updLane lane e.onLane

/-- The effects of the lanes of a list, written in ascending order. -/
def Group.applyAll (g : Group) (es : List (Nat × Eff)) : Group := es.foldl (fun g p => g.apply p.1 p.2) g

/-- Each active lane retires and moves: where its effect sends it, else to the successor. -/
def Group.moveAll (g : Group) (i : Issue) (es : List (Nat × Eff)) : Group :=
  let target (k : Nat) : DWord := ((es.find? fun p => p.1 == k).bind fun p => p.2.pc).getD (succPc i.pc)
  let move (k : Nat) (l : Lane) : Lane :=
    if hasBit i.lanes k then (if i.firstOfPair then { l.retire with pc := target k } else l.retire.arrive (target k)) else l
  let g1 := { g with lanes := g.lanes.mapIdx move }
  if i.firstOfPair then g1 else g1.settle

/-- The effects of the guarded lanes. -/
def Issue.effects (i : Issue) (g : Group) (h : Hd) (f : Group → Nat → Lane → Eff) : List (Nat × Eff) :=
  (i.guarded g h).map fun k => (k, f (i.source g) k ((i.source g).lane k))

/-- The precise faults among effects. -/
def Issue.traps (i : Issue) (g : Group) (es : List (Nat × Eff)) : List (Nat × Code × DWord) :=
  es.filterMap fun p => (p.2.trap ((i.source g).lane p.1)).map fun c => (p.1, c.1, c.2)

/-- The group after the effects of an instruction that raises no fault. -/
def Issue.finish (i : Issue) (g : Group) (es : List (Nat × Eff)) : Group := (g.applyAll es).moveAll i es

/-- Run an instruction of the shared shape on the bundle in issue. -/
def State.lanes (s : State) (h : Hd) (f : Group → Nat → Lane → Eff) : State :=
  match s.current with
  | none => s
  | some (i, g) =>
    let es := i.effects g h f
    let fs := i.traps g es
    if fs.isEmpty then s.setGroup i.gid (i.finish g es) else s.takeTrap i fs

/-- As `lanes`, where the effect needs the state (%ptime, the page tables, the kernel header). -/
def State.lanesS (s : State) (h : Hd) (f : State → Group → Nat → Lane → Eff) : State := s.lanes h (f s)

/-- An instruction that executes once for the bundle when its guard holds in some lane: the lowest such lane (R64, R99).
Otherwise the lanes only move on. -/
def State.once (s : State) (h : Hd) (f : State → Issue → Group → Nat → State) : State :=
  match s.current with
  | none => s
  | some (i, g) =>
    match i.guarded g h with
    | [] => s.setGroup i.gid (g.advance i)
    | k :: _ => f s i g k

/-- The lanes move on, and registers are written in the guarded ones. -/
def State.complete (s : State) (h : Hd) (e : Eff) : State := s.lanes h fun _ _ _ => e

/-- Every active lane takes a precise fault of the bundle's own (R96). -/
def State.trapAll (s : State) (i : Issue) (c : Code) (a : DWord) : State :=
  s.takeTrap i (i.active.map fun k => (k, c, a))

/-- The guarded lanes take a precise fault. -/
def State.trapGuarded (s : State) (i : Issue) (g : Group) (h : Hd) (c : Code) (a : DWord) : State :=
  s.takeTrap i ((i.guarded g h).map fun k => (k, c, a))

/-- Src(F, t) as an exact integer (R102). -/
def srcInt (g : Group) (l : Lane) (t : ITy) (x : Opnd) : Int := ITy.read t (readOp g l t.is64 x)

/-- Src(F, .n32). -/
def srcN32 (g : Group) (l : Lane) (x : Opnd) : Nat := (readOp g l false x).toNat % 2 ^ 32

/-- Dst(D, t) ← Fit(y, t, sat) (R102). -/
def dstInt (d : Opnd) (t : ITy) (sat : Bool) (y : Int) : Opnd × Bool × DWord := (d, t.is64, ITy.fit t sat y)

/-- The mould of R102 with one, two or three sources. -/
def mould1 (t : ITy) (sat : Bool) (d a : Opnd) (f : Int → Int) (g : Group) (_ : Nat) (l : Lane) : Eff :=
  { regs := [dstInt d t sat (f (srcInt g l t a))] }

def mould2 (t : ITy) (sat : Bool) (d a b : Opnd) (f : Int → Int → Int) (g : Group) (_ : Nat) (l : Lane) : Eff :=
  { regs := [dstInt d t sat (f (srcInt g l t a) (srcInt g l t b))] }

def mould3 (t : ITy) (sat : Bool) (d a b c : Opnd) (f : Int → Int → Int → Int) (g : Group) (_ : Nat) (l : Lane) : Eff :=
  { regs := [dstInt d t sat (f (srcInt g l t a) (srcInt g l t b) (srcInt g l t c))] }

/-- The mould with a shift amount read as .n32 (R103). -/
def mouldShift (t : ITy) (d a b : Opnd) (f : Int → Nat → Int) (g : Group) (_ : Nat) (l : Lane) : Eff :=
  { regs := [dstInt d t false (f (srcInt g l t a) (srcN32 g l b))] }

/-- Combine (R65). -/
def Lop.on (op : Lop) (c q : Bool) : Bool := match op with | .and => c && q | .or => c || q | .xor => c != q

/-- How an absent q reads: true under .and, false under .or and .xor (R109). -/
def Lop.unit (op : Lop) : Bool := match op with | .and => true | _ => false

/-- Compare (R65). -/
def Cc.holds (cc : Cc) (a b : Int) : Bool :=
  match cc with
  | .eq => decide (a = b)
  | .ne => decide (a ≠ b)
  | .lt => decide (a < b)
  | .le => decide (a ≤ b)
  | .gt => decide (b < a)
  | .ge => decide (b ≤ a)

/-- The effective address of a memory operand (R182). `k` is log2 of the scale. -/
def effAddr (g : Group) (l : Lane) (m : Addr) (k : Nat) : DWord :=
  let ix : DWord := ((readOp g l false m.idx).setWidth 32 : BitVec 32).signExtend 64
  readOp g l true m.base + (ix <<< k) + m.off.signExtend 64

/-- A scratchpad address: the index read as .n32, scaled, plus the offset, modulo 2^32 (R182). -/
def spAddr (g : Group) (l : Lane) (m : Addr) (k : Nat) : Nat :=
  (((srcN32 g l m.base : Int) * 2 ^ k + m.off.toInt) % 2 ^ 32).toNat

/-- Bytes of the scratchpad allotment of a group.s team (R183, R267). -/
def State.allot (s : State) (g : Group) : Nat :=
  match s.kernelOf g with | some k => k.hdr.scratch * 1024 | none => 0

end Sys2Proof.Machine
end

