-- ==== Sys2Proof/Machine/Integer.lean ====
section
/-! DEFINITION. Machine/Integer.lean: the integer, logic, move and special-register instructions 0x00 to 0x24 (05_lane.md,
R99 to R117). -/

namespace Sys2Proof.Machine

/-- What a meaning answers. -/
abbrev Out := Host.Outcome State Fault Refusal

/-! ### Bit helpers (R103, R110 to R112) -/

/-- Unsigned value of an exact integer in w bits. -/
def unsignedOf (w : Nat) (x : Int) : Nat := (x % 2 ^ w).toNat

/-- Rotate left by n mod w (R103 ROT). -/
def rotl (w : Nat) (x n : Nat) : Nat := (x * 2 ^ (n % w) + x / 2 ^ (w - n % w)) % 2 ^ w

def popCount : Nat → Nat → Nat
  | 0, _ => 0
  | n + 1, x => x % 2 + popCount n (x / 2)

/-- Trailing zeros among w bits; w if all are zero. -/
def trailingZeros : Nat → Nat → Nat
  | 0, _ => 0
  | n + 1, x => if x % 2 = 1 then 0 else 1 + trailingZeros n (x / 2)

/-- Bit i moves to bit w-1-i. -/
def bitReverse : Nat → Nat → Nat → Nat
  | 0, _, acc => acc
  | n + 1, x, acc => bitReverse n (x / 2) (2 * acc + x % 2)

/-- Bit 7 - k of tbl, with k read from the three inputs, the first most significant (R110). -/
def tableBit (tbl : Nat) (x y z : Bool) : Bool :=
  tbl.testBit (7 - ((if x then 4 else 0) + (if y then 2 else 0) + (if z then 1 else 0)))

def table3 (tbl : Nat) : Nat → Nat → Nat → Nat → Nat
  | 0, _, _, _ => 0
  | n + 1, a, b, c =>
    (if tableBit tbl (a % 2 == 1) (b % 2 == 1) (c % 2 == 1) then 1 else 0) + 2 * table3 tbl n (a / 2) (b / 2) (c / 2)

/-- The field of BFX: len bits from pos, bits beyond w read as the sign under .i and 0 under .n (R112). -/
def bitField (w : Nat) (signed : Bool) (a pos len : Nat) : Int :=
  if len = 0 then 0
  else
    let ext : Nat := if signed && a.testBit (w - 1) then (2 ^ 512 - 1 - (2 ^ w - 1)) + a else a
    let f := ext / 2 ^ pos % 2 ^ len
    if signed && f.testBit (len - 1) then (f : Int) - 2 ^ len else f

/-- BFI: bits pos to pos+len-1 of a become those of ins, those beyond w discarded (R112). -/
def bitInsert (w a ins pos len : Nat) : Nat :=
  let mask := (2 ^ len - 1) * 2 ^ pos
  ((a &&& (2 ^ w - 1 - mask % 2 ^ w)) ||| (ins % 2 ^ len * 2 ^ pos)) % 2 ^ w

/-! ### Moves -/

def execNop (s : State) : Out := .next (s.lanes ⟨0, 7, 7, false, false, false⟩ fun _ _ _ => {})

def execMov (h : Hd) (t : ITy) (d a : Opnd) (s : State) : Out := .next (s.lanes h (mould1 t false d a id))

/-- What MOVI writes: .hi leaves bits 31:0 alone (R104). -/
def moviEff (k : MoviK) (d : Opnd) (imm : BitVec 32) : Eff :=
  match k with
  | .b32 => { regs := [(d, false, imm.setWidth 64)] }
  | .i64 => { regs := [(d, true, imm.signExtend 64)] }
  | .n64 => { regs := [(d, true, imm.setWidth 64)] }
  | .hi => { his := [(d, imm)] }

def execMovi (h : Hd) (k : MoviK) (d : Opnd) (imm : BitVec 32) (s : State) : Out :=
  .next (s.lanes h fun _ _ _ => moviEff k d imm)

def execSel (h : Hd) (t : ITy) (d a b c : Opnd) (s : State) : Out :=
  .next (s.lanes h fun g _ l =>
    { regs := [dstInt d t false (if readPred l false c then srcInt g l t a else srcInt g l t b)] })

/-! ### Arithmetic -/

def execIadd (h : Hd) (t : ITy) (sat : Bool) (d a b : Opnd) (s : State) : Out :=
  .next (s.lanes h (mould2 t sat d a b (· + ·)))

def execIsub (h : Hd) (t : ITy) (sat : Bool) (d a b : Opnd) (s : State) : Out :=
  .next (s.lanes h (mould2 t sat d a b (· - ·)))

def execIaddc (h : Hd) (t : ITy) (d a b c e : Opnd) (s : State) : Out :=
  .next (s.lanes h fun g _ l =>
    let x := srcInt g l t a + srcInt g l t b + (if readPred l false c then 1 else 0)
    { regs := [dstInt d t false x], preds := [(e, decide (2 ^ ITy.width t ≤ x))] })

def execImul (h : Hd) (t : ITy) (sat : Bool) (d a b : Opnd) (s : State) : Out :=
  .next (s.lanes h (mould2 t sat d a b (· * ·)))

def execImulh (h : Hd) (t : ITy) (d a b : Opnd) (s : State) : Out :=
  .next (s.lanes h (mould2 t false d a b fun x y => (x * y) / 2 ^ ITy.width t))

/-- The 64-bit type of the same signedness (R107). -/
def wideTy : ITy → ITy
  | .i32 => .i64
  | .n32 => .n64
  | t => t

def execImad (h : Hd) (t : ITy) (wide sat : Bool) (d a b c : Opnd) (s : State) : Out :=
  .next (s.lanes h fun g _ l =>
    let t' := if wide then wideTy t else t
    { regs := [dstInt d t' sat (srcInt g l t a * srcInt g l t b + srcInt g l t' c)] })

/-- Quotient towards zero and remainder with the dividend's sign; a zero divisor gives all ones and 0 (R29). -/
def divRem (t : ITy) (x y : Int) : Int × Int :=
  if y = 0 then (if t.isSigned then -1 else ITy.max t, 0) else (Int.tdiv x y, Int.tmod x y)

/-- Where D and E name one register, or pairs that overlap, E is written last and the remainder remains: the manual does not say
which does (DESIGN CHOICE, log 75). -/
def execIdiv (h : Hd) (t : ITy) (d a b e : Opnd) (s : State) : Out :=
  .next (s.lanes h fun g _ l =>
    let y := srcInt g l t b
    let r := divRem t (srcInt g l t a) y
    { fault := if y = 0 ∧ l.fpen.getLsbD 8 then some (.intDivide, 0) else none
      regs := [dstInt d t false r.1, dstInt e t false r.2] })

def execImin (h : Hd) (t : ITy) (d a b : Opnd) (s : State) : Out :=
  .next (s.lanes h (mould2 t false d a b fun x y => if x ≤ y then x else y))

def execImax (h : Hd) (t : ITy) (d a b : Opnd) (s : State) : Out :=
  .next (s.lanes h (mould2 t false d a b fun x y => if x ≤ y then y else x))

def execIabs (h : Hd) (t : ITy) (sat : Bool) (d a : Opnd) (s : State) : Out :=
  .next (s.lanes h (mould1 t sat d a fun x => (x.natAbs : Int)))

def execIneg (h : Hd) (t : ITy) (sat : Bool) (d a : Opnd) (s : State) : Out :=
  .next (s.lanes h (mould1 t sat d a fun x => -x))

def execIcmp (h : Hd) (t : ITy) (cc : Cc) (op : Lop) (d a b c : Opnd) (s : State) : Out :=
  .next (s.lanes h fun g _ l =>
    { preds := [(d, Lop.on op (Cc.holds cc (srcInt g l t a) (srcInt g l t b)) (readPred l (Lop.unit op) c))] })

/-! ### Logic and shifts -/

/-- A bitwise operation on unsigned values. -/
def bitwise (f : Nat → Nat → Nat) (t : ITy) (x y : Int) : Int := f (unsignedOf (ITy.width t) x) (unsignedOf (ITy.width t) y)

def execAnd (h : Hd) (t : ITy) (d a b : Opnd) (s : State) : Out :=
  .next (s.lanes h (mould2 t false d a b (bitwise (· &&& ·) t)))

def execOr (h : Hd) (t : ITy) (d a b : Opnd) (s : State) : Out :=
  .next (s.lanes h (mould2 t false d a b (bitwise (· ||| ·) t)))

def execXor (h : Hd) (t : ITy) (d a b : Opnd) (s : State) : Out :=
  .next (s.lanes h (mould2 t false d a b (bitwise (· ^^^ ·) t)))

def execNot (h : Hd) (t : ITy) (d a : Opnd) (s : State) : Out :=
  .next (s.lanes h (mould1 t false d a fun x => 2 ^ ITy.width t - 1 - x))

/-- The table of BOOL3 and PBOOL: bits 7:0 of an immediate (R110). -/
def tblOf (e : Opnd) : Nat := match e with | .imm i => i.toNat % 256 | _ => 0

def execBool3 (h : Hd) (t : ITy) (d a b c e : Opnd) (s : State) : Out :=
  .next (s.lanes h (mould3 t false d a b c fun x y z =>
    let w := ITy.width t
    (table3 (tblOf e) w (unsignedOf w x) (unsignedOf w y) (unsignedOf w z) : Int)))

def execShl (h : Hd) (t : ITy) (d a b : Opnd) (s : State) : Out :=
  .next (s.lanes h (mouldShift t d a b fun x n => if ITy.width t ≤ n then 0 else x * 2 ^ n))

def execShr (h : Hd) (t : ITy) (d a b : Opnd) (s : State) : Out :=
  .next (s.lanes h (mouldShift t d a b fun x n => if ITy.width t ≤ n then 0 else x / 2 ^ n))

def execSar (h : Hd) (t : ITy) (d a b : Opnd) (s : State) : Out :=
  .next (s.lanes h (mouldShift t d a b fun x n => x / 2 ^ (if ITy.width t - 1 ≤ n then ITy.width t - 1 else n)))

def execRot (h : Hd) (t : ITy) (right : Bool) (d a b : Opnd) (s : State) : Out :=
  .next (s.lanes h (mouldShift t d a b fun x n =>
    let w := ITy.width t
    (rotl w (unsignedOf w x) (if right then w - n % w else n) : Int)))

/-- The funnel of R111. -/
def funnel (w : Nat) (left : Bool) (hi lo n : Nat) : Nat :=
  let v := hi * 2 ^ w + lo
  if left then v * 2 ^ n / 2 ^ w % 2 ^ w else v / 2 ^ n % 2 ^ w

def execFsh (h : Hd) (t : ITy) (left : Bool) (d a b c : Opnd) (s : State) : Out :=
  .next (s.lanes h fun g _ l =>
    let w := ITy.width t
    { regs := [dstInt d t false
        (funnel w left (unsignedOf w (srcInt g l t a)) (unsignedOf w (srcInt g l t b)) (srcN32 g l c % w))] })

/-- POPC, CLZ and CTZ write a 32-bit result even under .b64 (R103). -/
def countOp (t : ITy) (d a : Opnd) (f : Nat → Nat → Nat) (g : Group) (_ : Nat) (l : Lane) : Eff :=
  { regs := [dstInt d .n32 false (f (ITy.width t) (unsignedOf (ITy.width t) (srcInt g l t a)))] }

def execPopc (h : Hd) (t : ITy) (d a : Opnd) (s : State) : Out := .next (s.lanes h (countOp t d a popCount))

def execClz (h : Hd) (t : ITy) (d a : Opnd) (s : State) : Out :=
  .next (s.lanes h (countOp t d a fun w x => w - bitLen x))

def execCtz (h : Hd) (t : ITy) (d a : Opnd) (s : State) : Out := .next (s.lanes h (countOp t d a trailingZeros))

def execBrev (h : Hd) (t : ITy) (d a : Opnd) (s : State) : Out :=
  .next (s.lanes h (mould1 t false d a fun x => (bitReverse (ITy.width t) (unsignedOf (ITy.width t) x) 0 : Int)))

def execBfx (h : Hd) (t : ITy) (d a b c : Opnd) (s : State) : Out :=
  .next (s.lanes h fun g _ l =>
    let w := ITy.width t
    { regs := [dstInt d t false
        (bitField w t.isSigned (unsignedOf w (srcInt g l t a)) (srcN32 g l b % 256) (srcN32 g l c % 256))] })

def execBfi (h : Hd) (t : ITy) (d a b c e : Opnd) (s : State) : Out :=
  .next (s.lanes h fun g _ l =>
    let w := ITy.width t
    { regs := [dstInt d t false (bitInsert w (unsignedOf w (srcInt g l t a)) (unsignedOf w (srcInt g l t b))
        (srcN32 g l c % 256) (srcN32 g l e % 256))] })

def execLea (h : Hd) (t : ITy) (k : BitVec 3) (d a b : Opnd) (s : State) : Out :=
  .next (s.lanes h fun g _ l =>
    { regs := [(d, true, readOp g l true a + BitVec.ofInt 64 (srcInt g l t b * 2 ^ k.toNat))] })

/-! ### Predicates -/

def execPbool (h : Hd) (d a b c e : Opnd) (s : State) : Out :=
  .next (s.lanes h fun _ _ l =>
    { preds := [(d, tableBit (tblOf e) (readPred l false a) (readPred l false b) (readPred l false c))] })

def execPmovGet (h : Hd) (d : Opnd) (s : State) : Out :=
  .next (s.lanes h fun _ _ l => { regs := [(d, false, ((1#1 ++ l.p : BitVec 8)).setWidth 64)] })

def execPmovPut (h : Hd) (a b : Opnd) (s : State) : Out :=
  .next (s.lanes h fun g _ l =>
    let m : BitVec 7 := match b with | .imm i => i.setWidth 7 | _ => 0
    let x : BitVec 7 := (readOp g l false a).setWidth 7
    { upd := fun l => { l with p := (l.p &&& ~~~m) ||| (x &&& m) } })

/-! ### Special registers (R13, R19, R21, R73, R75, R116, R160, R180, R222, R251, R407) -/

/-- NEAR and FAR of a group (R180). -/
def State.near (s : State) (gid : Nat) : Nat :=
  (s.run.accs.filter fun p => p.2.gid == gid && p.2.st == .queued).length

def State.far (s : State) (gid : Nat) : Nat := (s.run.accs.filter fun p => p.2.gid == gid).length

/-- %place (R13). -/
def State.place (s : State) (g : Group) : DWord :=
  BitVec.ofNat 64 ((if s.lnk.fen then s.lnk.fdev else 0) * 2 ^ 14 + (s.partOf (s.ctxOf g)) % 16 * 2 ^ 10 +
    dieOf g.core % 8 * 2 ^ 7 + g.core % 24 / 4 * 2 ^ 4 + g.core % 4 * 2 ^ 2 + g.quad % 4)

def State.interval (s : State) (ctx : Nat) : DWord :=
  match Table.get s.ckp.ints ctx with | some x => x.number | none => 0

/-- The content of a special register. -/
def State.special (s : State) (g : Group) (gid lane : Nat) (l : Lane) (i : Nat) : DWord :=
  match i with
  | 0x000 => s.wid g lane
  | 0x001 => BitVec.ofNat 64 lane
  | 0x002 => s.place g
  | 0x003 => s.ptime g
  | 0x004 => s.sch.skew
  | 0x008 => l.sr.setWidth 64
  | 0x009 => l.fpst.setWidth 64
  | 0x00A => l.fpen.setWidth 64
  | 0x010 => BitVec.ofNat 64 (s.near gid * 65536 + s.far gid)
  | 0x011 => g.tags
  | 0x012 => l.regionCtr
  | 0x018 => l.fcode.setWidth 64
  | 0x019 => l.faddr
  | 0x01A => l.skid.setWidth 64
  | 0x020 => (l.xword.extractLsb' 88 8).setWidth 64
  | 0x021 => (l.xword.extractLsb' 84 4).setWidth 64
  | 0x022 => (l.xword.extractLsb' 68 3).setWidth 64
  | 0x023 => (l.xword.extractLsb' 54 12).setWidth 64
  | 0x024 => (l.xword.extractLsb' 42 12).setWidth 64
  | 0x025 => (l.xword.extractLsb' 30 12).setWidth 64
  | 0x026 => (l.xword.extractLsb' 18 12).setWidth 64
  | 0x027 => (l.xword.extractLsb' 6 12).setWidth 64
  | 0x028 => (l.xword.extractLsb' 0 6).setWidth 64
  | 0x029 => (l.xword.extractLsb' 0 32).setWidth 64
  | 0x02A => (l.xword.extractLsb' 32 32).setWidth 64
  | 0x02B => (l.xword.extractLsb' 64 32).setWidth 64
  | 0x02C => l.xpc
  | 0x02D => l.xinfo
  | 0x040 => g.issued
  | 0x058 => g.terr
  | 0x060 => g.mcmade
  | 0x061 => g.mcdone
  | 0x068 => l.retired
  | 0x069 => s.interval (s.ctxOf g)
  | n => if 0x041 ≤ n ∧ n ≤ 0x050 then g.stalls.getD (n - 0x041) 0 else 0

/-- The number of a special-register operand. -/
def spIndex (a : Opnd) : Nat := match a with | .sp i => i.toNat | _ => 0x1FF

/-- Is the context's replay log kept now (R394, R408). -/
def State.logging (s : State) (ctx : Nat) : Bool :=
  match Table.get s.ckp.regs ctx, Table.get s.ckp.ints ctx with
  | some r, some x => r.ctl.getLsbD 0 && r.ctl.getLsbD 2 && (x.st == .running || x.st == .snapshot || x.st == .quiescing)
  | _, _ => false

/-- Add a record to the log of the current interval (R408, R409). -/
def State.log (s : State) (ctx : Nat) (r : LogRec) : State :=
  if s.logging ctx then
    { s with ckp := { s.ckp with ints := Table.upd s.ckp.ints ctx fun x =>
      { x with logs := Table.set x.logs x.number.toNat ((Table.get x.logs x.number.toNat).getD [] ++ [r]), toLog := x.toLog ++ [r] } } }
  else s

/-- An effect outside the job that a replay suppresses, because it was made the first time (R410, R412). -/
def State.suppresses (s : State) (ctx : Nat) (e : Effect) : Bool :=
  match Table.get s.ckp.ints ctx with
  | some x => (x.st == .replaying || x.st == .stopped) && x.remade.contains e
  | none => false

/-- An effect outside the job comes about: it is noted while the context logs; a replay that suppresses it takes it off its list. -/
def State.makes (s : State) (ctx : Nat) (e : Effect) : State :=
  let put (x : Interval) : Interval :=
    if x.st = .replaying ∨ x.st = .stopped then { x with remade := x.remade.erase e }
    else { x with made := Table.set x.made x.number.toNat ((Table.get x.made x.number.toNat).getD [] ++ [e]) }
  if s.logging ctx || s.suppresses ctx e then { s with ckp := { s.ckp with ints := Table.upd s.ckp.ints ctx put } } else s

/-- An effect of an engine, of the dispatcher or of Clove at an address. -/
def engineEffect (va : DWord) : Effect := (-1, 0, va)

/-- An effect outside the job comes about, or is suppressed. -/
def State.outside (s : State) (ctx : Nat) (e : Effect) (f : State → State) : State :=
  (if s.suppresses ctx e then s else f s).makes ctx e

/-- One record for each lane of a list. -/
def State.logLanes (s : State) (g : Group) (ls : List Nat) (type size aux : Nat) (data : Nat → List Byte) : State :=
  ls.foldl (fun t k => t.log (s.ctxOf g) ⟨type, size, aux, s.wid g k, (g.lane k).retired, data k⟩) s

/-- The log that a replay consumes; while a stop keeps one group parked the others go on in it (R410, R411). -/
def Interval.toReplay (x : Interval) : List LogRec := if x.st = .replaying ∨ x.st = .stopped then x.replay else []

/-- The record of a lane's instruction in the log that a replay consumes. -/
def State.logged (s : State) (ctx type : Nat) (wid rcnt : DWord) : Option LogRec :=
  match Table.get s.ckp.ints ctx with
  | some x => x.toReplay.find? fun r => r.type == type && r.wid == wid && r.rcnt == rcnt
  | none => none

/-- Consume a record of a replay. -/
def State.consume (s : State) (ctx : Nat) (r : LogRec) : State :=
  { s with ckp := { s.ckp with ints := Table.upd s.ckp.ints ctx fun x => { x with replay := x.replay.erase r } } }

/-- An instruction's result: the logged one in a replay, else the live one, which is recorded (R408, R410). -/
def State.settleResult (s : State) (g : Group) (k : Nat) (b : List Byte) : State × List Byte :=
  let ctx := s.ctxOf g
  match s.logged ctx 7 (s.wid g k) (g.lane k).retired with
  | some r => (s.consume ctx r, r.data)
  | none => (s.log ctx ⟨7, b.length, 0, s.wid g k, (g.lane k).retired, b⟩, b)

/-- The next record of an order in the log that a replay consumes: 0 a barrier, 1 a tile, 2 a sequence, 3 placement, by number. -/
def State.nextOrder (s : State) (ctx kind num : Nat) : Option LogRec :=
  match Table.get s.ckp.ints ctx with
  | some x => x.toReplay.find? fun r => r.type == 4 && r.size == kind && r.aux == num
  | none => none

/-- In a replay an order goes as it was logged (R410). -/
def State.orderAllows (s : State) (ctx kind num : Nat) (wid rcnt : DWord) : Bool :=
  match s.nextOrder ctx kind num with | some r => r.wid == wid && r.rcnt == rcnt | none => true

/-- A place in an order is recorded, or its record consumed. -/
def State.noteOrder (s : State) (ctx kind num : Nat) (wid rcnt : DWord) (data : List Byte) : State :=
  match s.nextOrder ctx kind num with
  | some r => s.consume ctx r
  | none => s.log ctx ⟨4, kind, num, wid, rcnt, data⟩

/-- A value that an engine reads: recorded while `keep` holds, taken from the log in a replay (R408, R410). Engine records have
RCNT all ones (log 18). -/
def State.engineValue (s : State) (ctx : Nat) (wid : DWord) (aux : Nat) (keep : Bool) (b : List Byte) : State × List Byte :=
  match Table.get s.ckp.ints ctx with
  | some x =>
    (match x.toReplay.find? fun r => r.type == 1 && r.wid == wid && r.aux == aux && r.rcnt == -1 with
    | some r => (s.consume ctx r, r.data)
    | none => (if keep then s.log ctx ⟨1, b.length, aux, wid, -1, b⟩ else s, b))
  | none => (s, b)

/-- %ptime as an instruction of a lane reads it: from the log in a replay, else live (R22, R408, R410). -/
def State.timeFor (s : State) (g : Group) (k : Nat) : DWord :=
  match s.logged (s.ctxOf g) 3 (s.wid g k) (g.lane k).retired with
  | some r => BitVec.ofNat 64 (leNat r.data)
  | none => s.ptime g

/-- A lane's read of %ptime is recorded, or its record consumed. -/
def State.noteTime (s : State) (g : Group) (k : Nat) : State :=
  let ctx := s.ctxOf g
  match s.logged ctx 3 (s.wid g k) (g.lane k).retired with
  | some r => s.consume ctx r
  | none => s.log ctx ⟨3, 0, 0, s.wid g k, (g.lane k).retired, leBytes 8 (s.ptime g).toNat⟩

/-- Reads of %ptime are recorded, and no later read gives less, even where this one came from the log (R20, R22, R116, R408). A class 3 destination takes the lowest active lane's value (R122). -/
def execSrd (h : Hd) (t : ITy) (d a : Opnd) (s : State) : Out :=
  match s.current with
  | none => .next s
  | some (i, g) =>
    let time (k : Nat) : DWord := s.timeFor (i.source g) k
    let s1 := if spIndex a = 3 then
        ((i.guarded g h).foldl (fun x k => x.noteTime (i.source g) k) s).updGroup i.gid fun u =>
          { u with timeFloor := (i.guarded g h).foldl (fun m k => if m.toNat < (time k).toNat then time k else m) u.timeFloor }
      else s
    .next (s1.lanesS h fun s g k l =>
      let k' := if d.isS then (i.active.head?).getD k else k
      let l' := if d.isS then (i.source g).lane k' else l
      let x := if spIndex a = 3 then time (if d.isS then ((i.guarded g h).head?).getD k else k)
        else s.special g i.gid k' l' (spIndex a)
      { regs := [(d, t.is64, if t.is64 then x else (x.setWidth 32 : BitVec 32).setWidth 64)] })

/-- A zero seed is written as 1 (R34); reserved bits of %fpst and %fpen ignore writes and read zero (R4, R139). -/
def writeSpecial (i : Nat) (x : DWord) (l : Lane) : Lane :=
  match i with
  | 0x008 => { l with sr := if (x.setWidth 32 : BitVec 32) = 0 then 1 else x.setWidth 32 }
  | 0x009 => { l with fpst := (x.setWidth 6 : BitVec 6).setWidth 32 }
  | 0x00A => { l with fpen := x.setWidth 32 &&& 0x11F#32 }
  | 0x02C => { l with xpc := x }
  | _ => l

def execSwr (h : Hd) (t : ITy) (d a : Opnd) (s : State) : Out :=
  .next (s.lanes h fun g _ l => { upd := writeSpecial (spIndex d) (readOp g l t.is64 a) })

end Sys2Proof.Machine
end

