-- ==== Sys2Proof/Machine/Debug.lean ====
section
/-! DEFINITION. Machine/Debug.lean: the trace buffer, comparators and watchpoints, debug parks, and the retirement count
(26_checkpoint_debug.md R407, R413 to R416), which the issue of instructions uses. -/

namespace Sys2Proof.Machine

/-- Is the context replaying or stopped (R406, R410). -/
def State.replaying (s : State) (ctx : Nat) : Bool :=
  match Table.get s.ckp.ints ctx with
  | some x => x.st == .replaying || x.st == .stopped
  | none => false

/-- Is the context being quiesced at a boundary (R397). -/
def State.quiescing (s : State) (ctx : Nat) : Bool := match Table.get s.ckp.ints ctx with | some x => x.st == .quiescing | none => false

/-- Do its partition's BRKEN and the interval state let debug hits arise (R414). -/
def State.breaks (s : State) (ctx : Nat) : Bool :=
  decide (s.partOf ctx < 12) && (s.dbgReg (s.partOf ctx) 0).getLsbD 0 && !s.replaying ctx

/-- The bytes of a trace record (R415). -/
def traceBytes (type sub ctx code : Nat) (time wid rcnt mask value addr : DWord) : List Byte :=
  leBytes 1 type ++ leBytes 1 sub ++ leBytes 2 ctx ++ leBytes 4 code ++ leBytes 8 time.toNat ++ leBytes 8 wid.toNat ++
  leBytes 8 rcnt.toNat ++ leBytes 8 mask.toNat ++ leBytes 8 value.toNat ++ leBytes 8 addr.toNat ++ leBytes 8 0

/-- Write a trace record while TREN is set: record i at TRBASE + 64 (i mod capacity); past the capacity without WRAP it is
counted in TRLOST (R413, R415). -/
def State.trace (s : State) (ctx : Nat) (r : List Byte) : State :=
  let p := s.partOf ctx
  if p < 12 ∧ (s.dbgReg p 0).getLsbD 1 then
    let cap := (s.dbgReg p 0x10).toNat / 64
    let i := (s.dbgReg p 0x18).toNat
    if cap = 0 ∨ (cap ≤ i ∧ ¬ (s.dbgReg p 0).getLsbD 2) then s.setDbg p 0x20 (s.dbgReg p 0x20 + 1)
    else (s.store ((s.dbgReg p 0x8).toNat + 64 * (i % cap)) r).setDbg p 0x18 (s.dbgReg p 0x18 + 1)
  else s

/-- A debug record for lanes of a group, and the event to the guardians (R414, R424). -/
def State.debugHit (s : State) (gid : Nat) (m : Mask) (sub code : Nat) (addr : DWord) : State :=
  match s.group gid with
  | none => s
  | some g =>
    let ctx := s.ctxOf g
    let rcnt := match (maskLanes m).head? with | some k => (g.lane k).retired | none => 0
    let idx := s.dbgReg (s.partOf ctx) 0x18
    (s.trace ctx (traceBytes 2 sub ctx code (s.ptime g) (s.wid g 0) rcnt m 0 addr)).raise ctx 8 0 0 (s.wid g 0) addr idx

/-- A debug hit parks the lanes of the bundle, and with them the group, with %skid 0; it never suspends a context. What has hit a comparator
or a watchpoint stands at the parked PC, and passes there once; a BRK has retired (R414, R418). -/
def State.debugPark (s : State) (gid : Nat) (m : Mask) (sub code : Nat) (addr : DWord) : State :=
  let t := (s.debugHit gid m sub code addr).updGroup gid fun g =>
    { (g.updLanes m fun l => { l with skid := 0 }).park m with debugParked := true }
  match t.group gid with
  | some g =>
    let pass := if sub = 1 ∨ sub = 2 then ((maskLanes m).map fun k => (gid, (g.lane k).pc)).eraseDups else []
    { t with ckp := { t.ckp with passed := t.ckp.passed ++ pass } }
  | none => t

/-- A comparator or watchpoint control applies to a context: EN, and ANY or its CTX (R413). -/
def ctlMatches (c : DWord) (any : Nat) (ctx : Nat) : Bool :=
  c.getLsbD 0 && (c.getLsbD any || field c 27 16 == ctx)

/-- The comparator that hits at a PC (R414). -/
def State.pcHit (s : State) (ctx : Nat) (pc : DWord) : Option Nat :=
  if s.breaks ctx then
    (List.range 8).find? fun i =>
      ctlMatches (s.dbgReg (s.partOf ctx) (0x108 + 0x10 * i)) 1 ctx && s.dbgReg (s.partOf ctx) (0x100 + 0x10 * i) == pc
  else none

/-- The lowest of some accesses' overlaps with the watched ranges: each access has an address and a size (R414). -/
def State.watchHit (s : State) (ctx : Nat) (loads stores : Bool) (accs : List (DWord × Nat)) : Option DWord :=
  if s.breaks ctx then
    let p := s.partOf ctx
    let hits := accs.flatMap fun a => (List.range 8).filterMap fun i =>
      let c := s.dbgReg p (0x210 + 0x20 * i)
      let base := (s.dbgReg p (0x200 + 0x20 * i)).toNat
      let len := (s.dbgReg p (0x208 + 0x20 * i)).toNat
      if ctlMatches c 4 ctx && ((loads && c.getLsbD 1) || (stores && c.getLsbD 2)) && overlap a.1.toNat a.2 base len
      then some (if a.1.toNat < base then base else a.1.toNat) else none
    match hits with
    | [] => none
    | x :: r => some (BitVec.ofNat 64 (r.foldl Nat.min x))
  else none

/-- Does the group's next issue at a PC pass the debugger once (R414). -/
def State.passes (s : State) (gid : Nat) (pc : DWord) : Bool := s.ckp.passed.contains (gid, pc)

/-- Lane retirements of a context: partition counter 18, and the work of its interval (R396, R407, R416). -/
def State.retirements (s : State) (ctx n : Nat) : State :=
  let t := s.count ctx 18 (BitVec.ofNat 64 n)
  { t with ckp := { t.ckp with ints := Table.upd t.ckp.ints ctx fun x => { x with work := x.work + n } } }

/-- Does the replay in force stop a lane of the group once it has retired n more instructions (R411). -/
def State.stopAfter (s : State) (g : Group) (m : Mask) (n : DWord) : Bool :=
  match Table.get s.ckp.ints (s.ctxOf g) with
  | some x =>
    match x.stop with
    | some (wid, c) => x.st == .replaying && (List.range g.width).any fun k => s.wid g k == wid && (g.lane k).retired + n == c && m != 0
    | none => false
  | none => false

/-- A lane has come in a replay to where it stood when the replayed interval ended, or the replay was begun: nothing that it did there is
left in the log, and it waits for the others, so that it makes no effect unmade or twice (R410 to R412; DEDUCED, log 94). -/
def Interval.atOldPlace (x : Interval) (wid retired : DWord) : Bool :=
  (((Table.get x.reached x.number.toNat).getD []).any fun r => r.1 == wid && decide (r.2.toNat ≤ retired.toNat)) &&
  !x.replay.any fun r => r.wid == wid && r.rcnt == retired

/-- A lane of a replay stands at its old place once it has retired n more instructions (R412). -/
def State.backAfter (s : State) (g : Group) (n : DWord) (k : Nat) : Bool :=
  match Table.get s.ckp.ints (s.ctxOf g) with
  | some x => (x.st == .replaying || x.st == .stopped) && x.atOldPlace (s.wid g k) ((g.lane k).retired + n)
  | none => false

/-- The replay in force stops the bundle once its lanes have retired n more instructions: at the stop it goes to, or because a lane is
at its old place (R411, R412). -/
def State.stopReached (s : State) (g : Group) (m : Mask) (n : DWord) : Bool :=
  s.stopAfter g m n || (maskLanes m).any (s.backAfter g n)

/-- BRK parks the active lanes whose guard holds at the successor; without BRKEN, or in a replay, it only retires (R418). -/
def execBrk (h : Hd) (imm : BitVec 32) (s : State) : Out :=
  match s.current with
  | none => .next s
  | some (i, g) =>
    let t := s.lanes h fun _ _ _ => {}
    let m := laneMask (i.guarded g h)
    if s.breaks (s.ctxOf g) ∧ m ≠ 0 then .next (t.debugPark i.gid m 0 imm.toNat 0) else .next t

/-- MARK writes a trace record while TREN is set, and a log record while LOG is set (R409, R415, R419). -/
def execMark (h : Hd) (imm : BitVec 32) (a : Opnd) (s : State) : Out :=
  match s.current with
  | none => .next s
  | some (i, g) =>
    match i.guarded g h with
    | [] => .next (s.lanes h fun _ _ _ => {})
    | k :: r =>
      let ctx := s.ctxOf g
      let src := i.source g
      let v : DWord := ((readOp src (src.lane k) false a).setWidth 32 : Word).setWidth 64
      let s1 := if s.replaying ctx then s
        else s.trace ctx (traceBytes 1 0 ctx imm.toNat (s.ptime g) (s.wid g 0) (src.lane k).retired (laneMask (k :: r)) v 0)
      let s2 := match s.logged ctx 6 (s.wid g 0) (src.lane k).retired with
        | some x => s1.consume ctx x
        | none => s1.log ctx ⟨6, 0, imm.toNat, s.wid g 0, (src.lane k).retired, leBytes 8 v.toNat⟩
      .next (s2.lanes h fun _ _ _ => {})

end Sys2Proof.Machine
end

