-- ==== Sys2Proof/Machine/Quadrant.lean ====
section
/-! DEFINITION. Machine/Quadrant.lean: which bundle a quadrant chooses in a cycle, the profile counters, the regroup window,
and the arrival of long-latency results (R12, R56, R69, R70, R144 to R148, R158, R159). -/

namespace Sys2Proof.Machine

/-! ### Pairs (R56) -/

/-- Long-latency opcodes (R69). -/
def longLatency (opc : Nat) : Bool :=
  (0x80 ≤ opc && opc ≤ 0x89) || opc == 0x77 || opc == 0xA0 || opc == 0xA1 || (0x41 ≤ opc && opc ≤ 0x4A) ||
  opc == 0x56 || opc == 0x57 || (0xA8 ≤ opc && opc ≤ 0xAF) || (0xB0 ≤ opc && opc ≤ 0xB8) || opc == 0xC8 || opc == 0xC9 ||
  (0xD8 ≤ opc && opc ≤ 0xDB) || (0xE0 ≤ opc && opc ≤ 0xE5)

def wordOpc (w : IWord) : Nat := (w.extractLsb' 88 8).toNat

/-- The segment of SHFL exceeds the width of the group: illegal at issue (R151). -/
def shflTooWide (w : IWord) (width : Nat) : Bool :=
  wordOpc w == 0x50 && decide (field (w.setWidth 64) 3 1 ≠ 0) && decide (width < 2 ^ field (w.setWidth 64) 3 1)

/-- A word is an instruction in its line: the line word's low bits are zero and the decoder accepts it (R54, R71, R151). -/
def legalWord (line : BitVec 512) (w : IWord) (width : Nat) : Bool :=
  (LineWord.ofWord (lineHead line)).zero == 0 && (match decode w with | .ok _ => true | .error _ => false) &&
    !shflTooWide w width

/-- The classes that never pair (R56). -/
def pairable (w : IWord) : Bool :=
  let opc := wordOpc w
  !(longLatency opc || (0x60 ≤ opc && opc ≤ 0x69) || (0x70 ≤ opc && opc ≤ 0x77) || (0xC0 ≤ opc && opc ≤ 0xEA))

/-- Slots k and k+1 of a line issue together. -/
def pairsAt (line : BitVec 512) (k width : Nat) : Bool :=
  decide (k ≤ 3) && (LineWord.ofWord (lineHead line)).pair.getLsbD k &&
  legalWord line (lineSlot line k) width && pairable (lineSlot line k) &&
  legalWord line (lineSlot line (k + 1)) width && pairable (lineSlot line (k + 1))

/-- The operand fields that a word's format holds (R66, R77). -/
def wordFields (w : IWord) : List (BitVec 12) :=
  let r := Raw.ofWord w
  let opc := r.opc.toNat
  if opc = 0x02 ∨ opc = 0x66 ∨ opc = 0xE9 ∨ opc = 0xEA then [r.d, r.a]
  else if opc = 0x60 ∨ opc = 0x62 then [r.d]
  else if opc = 0x73 ∨ opc = 0x75 ∨ opc = 0x77 ∨ (0x80 ≤ opc ∧ opc ≤ 0x89) ∨ opc = 0xA0 ∨ opc = 0xA1 then [r.d, r.a, r.b]
  else [r.d, r.a, r.b, r.c, r.e]

/-- The s registers that a word reads or writes: those it names, and the six consecutive ones that B of SPAWN begins (R278). -/
def wordS (w : IWord) : List Nat :=
  let named := (wordFields w).filterMap fun f => if f.extractLsb' 9 3 = 3 then some (f.extractLsb' 0 9).toNat else none
  if wordOpc w = 0xC0 then named ++ (List.range 6).map fun k => ((Raw.ofWord w).b.extractLsb' 0 9).toNat + k else named

/-! ### Readiness (R69, R70, R144, R145, R159) -/

/-- A scratchpad access waits while another of its instruction is taken at the same bank before it (R190; which bytes share a bank
is the hardware's, log 81). -/
def State.bankBusy (s : State) (id : Nat) (a : Access) : Bool :=
  s.run.accs.any fun p => decide (p.1 < id) && p.2.inst == a.inst && p.2.sp && p.2.st == .queued &&
    Config.scratchBank p.2.va.toNat == Config.scratchBank a.va.toNat

/-- A TLB entry that serves an access of a core: its own first level or its die's second level. A write needs DIRTY (R211). -/
def State.tlbHit (s : State) (core ctx : Nat) (va : DWord) (write : Bool) : Option Trans :=
  (s.mem.tlb.find? fun e => e.ctx == ctx && (e.core == some core || (e.core == none && e.die == dieOf core)) &&
    e.tr.page va == e.page && (!write || e.tr.leaf.getLsbD 5)).map (·.tr)

/-- Does a walk in progress serve an address: it lies in the page that is being walked (R211). -/
def State.walked (s : State) (w : Walk) (ctx : Nat) (va : DWord) : Bool :=
  w.ctx == ctx && (w.va.toNat / 65536 == va.toNat / 65536 ||
    match s.walk ctx w.va with | .found t => t.page va == t.page w.va | _ => false)

/-- The die's walker takes no walk for a page: it holds one already, or 32 others (R211). -/
def State.walkerBusy (s : State) (die ctx : Nat) (va : DWord) : Bool :=
  (s.mem.walks.any fun w => w.2.die == die && s.walked w.2 ctx va) || decide (32 ≤ (s.mem.walks.filter fun w => w.2.die == die).length)

/-- A fetch, or an engine, misses in the TLBs that it uses: it joins a walk of the page, or waits where the walker is full. A walk of its own it
begins and ends in one step (R211). -/
def State.missWaits (s : State) (core : Option Nat) (die ctx : Nat) (va : DWord) : Bool :=
  s.walkerBusy die ctx va && s.mem.tlb.all fun e =>
    !(e.ctx == ctx && (e.core.isSome && e.core == core || e.core.isNone && e.die == die) && e.tr.page va == e.page)

/-- The stub and the window page that hold an address of a context. -/
def State.stubAt (s : State) (ctx : Nat) (va : DWord) : Option (Nat × Stub) :=
  s.sum.stubs.find? fun p =>
    p.2.ctx == ctx && decide (p.2.va.toNat / 65536 * 65536 ≤ va.toNat) &&
    decide (va.toNat < (p.2.va.toNat + p.2.len.toNat + 65535) / 65536 * 65536)

/-- The 4 KiB tile of a stub that holds an address, counted from its first window page. -/
def Stub.tile (x : Stub) (va : DWord) : Nat := va.toNat / 4096 - x.va.toNat / 65536 * 16

/-- A granule that waits for its copy into a snapshot (R399). -/
def State.marked (s : State) (key : Nat) : Bool := s.ckp.ints.any fun p => p.2.marked.contains (key / 65536)

/-- The stall reason under which a lane waits for a result: a scratchpad bank, a TLB walk, a stub pull, the snapshot copy, a remote
reply, or the scoreboard (R159, R190, R211, R360, R399). -/
def State.resultReason (s : State) (id : Nat) : Nat :=
  match Table.get s.run.accs id with
  | some a =>
    (match a.tr with
    | none => if a.sp then (if s.bankBusy id a then 3 else 0)
        else (match a.kind with | .store | .red _ _ | .atom _ _ => 2 | _ => 1)
    | some t =>
      if t.cls = 6 then (match s.stubAt a.ctx a.va with | some (_, x) => if x.pulled.contains (x.tile a.va) then 0 else 15 | none => 0)
      else if t.cls = 1 ∨ t.cls = 2 then 10
      else match a.kind, a.st with
        | .atom _ _, .queued => if s.marked (t.key a.va) then 15 else 0
        | _, _ => 0)
  | none =>
    match Table.get s.run.pend id with
    | some p => if p.remote then 10 else 0
    | none => 0

/-- The s registers that await a result of the group, each with the result's number. -/
def State.pendingS (s : State) (gid : Nat) : List (Nat × Nat) :=
  (s.run.accs.filterMap fun p => match p.2.dst with | .s i => if p.2.gid = gid then some (p.1, i.toNat) else none | _ => none) ++
  (s.run.pend.flatMap fun p => if p.2.gid = gid then
      p.2.regs.filterMap fun r => match r.2.1 with | .s i => some (p.1, i.toNat) | _ => none else [])

/-- The results whose windows keep a lane from issuing n instructions. -/
def Lane.closed (l : Lane) (n : Nat) : List Nat := (l.wins.filter fun w => decide (w.2 < n)).map (·.1)

/-- A word that executes once for a bundle: it writes an s register, or it is arithmetic on uniform sources (R99, R148). -/
def onceWord (w : IWord) : Bool :=
  let r := Raw.ofWord w
  let cls (f : BitVec 12) : BitVec 3 := f.extractLsb' 9 3
  cls r.d == 3 || (decide (0x01 ≤ wordOpc w) && decide (wordOpc w ≤ 0x4A) &&
    [r.a, r.b, r.c].all fun f => cls f == 3 || cls f == 6 || cls f == 7)

/-- The results that keep the bundle's n-th next instruction from issuing. One that executes once for the bundle lies inside the
window of a pending s register as soon as one active lane does (R70). -/
def State.awaits (s : State) (gid : Nat) (g : Group) (ls : List Nat) (n : Nat) (w : IWord) : List Nat :=
  let ids := ls.flatMap fun j => (g.lane j).closed n
  if onceWord w then
    ids.filter fun id => !((s.pendingS gid).any (fun p => p.1 == id) &&
      ls.any fun j => (g.lane j).wins.any fun x => x.1 == id && decide (n ≤ x.2))
  else ids

/-- The one reason that a wait for several results is charged to: a remote reply, then a scratchpad bank, then the first result's
(R159 does not order them; DESIGN CHOICE, log 80). -/
def State.awaitReason (s : State) (ids : List Nat) : Nat :=
  let rs := ids.map s.resultReason
  if rs.contains 10 then 10 else if rs.contains 3 then 3 else rs.headD 0

/-- A queue's index page is locked by a QPOST that still waits at issue (R297). -/
def State.locked (s : State) (x : Queue) : Bool :=
  match x.lock with
  | none => false
  | some (team, gidx, m) => s.run.groups.any fun p => p.2.team == team && p.2.gidx == gidx && p.2.st == .resident &&
      (maskLanes m).all fun k => (p.2.lane k).st == .running && (p.2.lane k).since.isSome

/-- The lock is that of a bundle. -/
def Queue.lockedBy (x : Queue) (g : Group) (m : Mask) : Bool :=
  match x.lock with | some (team, gidx, n) => team == g.team && gidx == g.gidx && n &&& ~~~m == 0 | none => false

/-- A bundle with a lock completes its QPOST before anything else halts it (R297). -/
def State.holdsLock (s : State) (g : Group) (m : Mask) : Bool := s.ker.queues.any fun p => p.2.lockedBy g m && s.locked p.2

/-- Nothing of the bundle issues: its context is suspended or quiesces, its team is being saved, or another bundle of its group
migrates (R306, R349, R397). -/
def State.halted (s : State) (g : Group) (m : Mask) : Bool :=
  let ctx := s.ctxOf g
  ((match Table.get s.ctx.contexts ctx with | some c => c.st == .suspended | none => false) ||
   (match Table.get s.ckp.ints ctx with | some x => x.st == .quiescing | none => false) ||
   (match s.teamOf g with | some t => t.stopping | none => false) ||
   (g.only != 0 && m &&& g.only == 0)) && !s.holdsLock g m

/-- The stall reason of a tag wait: 15 while a transfer it waits for awaits service (R230). -/
def State.tagReason (s : State) (gid : Nat) (mask : DWord) : Nat :=
  if s.eng.transfers.any fun p => p.2.gid == gid && mask.getLsbD p.2.tag && p.2.fault.isSome then 15 else 6

/-- The stall reason under which a lane waits. -/
def State.waitReason (s : State) (gid : Nat) (w : Wait) : Nat :=
  match w.kind with
  | .tags _ mask _ => s.tagReason gid mask
  | _ => w.reason

/-- Why a bundle is not ready: the stall reason of R159; none if it is ready. -/
def State.stallOf (s : State) (gid : Nat) (g : Group) (b : Bundle) : Option Nat :=
  let ls := maskLanes b.lanes
  match ls.findSome? fun k => match (g.lane k).st with | .stalled w => some (s.waitReason gid w) | _ => none with
  | some r => some r
  | none =>
    match ls with
    | [] => some 12
    | k0 :: _ =>
      let pc := (g.lane k0).pc
      if s.halted g b.lanes || b.broken || !(ls.all fun k => (g.lane k).st == .running && (g.lane k).pc == pc) then some 12
      else match b.blocked with
        | some r => some r
        | none =>
          let line := match s.fetchLine (s.ctxOf g) pc with | .ok x => some x | .error _ => none
          let k := field pc 2 0
          if s.missWaits (some g.core) (dieOf g.core) (s.ctxOf g) pc then some 2 else
          let pair := match line with | some x => pairsAt x k g.width | none => false
          let awaited := s.awaits gid g ls 1 (match line with | some x => lineSlot x k | none => 0) ++
            (match line with | some x => if pair then s.awaits gid g ls 2 (lineSlot x (k + 1)) else [] | none => [])
          if !awaited.isEmpty then some (s.awaitReason awaited)
          else
            let named := match line with
              | some x => wordS (lineSlot x k) ++ (if pair then wordS (lineSlot x (k + 1)) else [])
              | none => []
            if (s.pendingS gid).any fun p => named.contains p.2 && !(ls.any fun j => (g.lane j).wins.any fun w => w.1 == p.1)
            then some 0
            else if s.stopReached g b.lanes 0 then some 12 else none

/-- The least element under an order that a list's head starts. -/
def pick {α : Type} (le : α → α → Bool) : List α → Option α
  | [] => none
  | x :: r => match pick le r with | none => some x | some y => if le x y then some x else some y

/-- The lowest lane of a mask. -/
def lowest (m : Mask) : Nat := (maskLanes m).headD 64

/-- The bundle that a group offers: the ready one that has gone longest without issuing, then the one with the lowest lane
(R148). -/
def State.offer (s : State) (gid : Nat) (g : Group) : Option Bundle :=
  pick (fun a b => decide (a.last < b.last) || (a.last == b.last && decide (lowest a.lanes ≤ lowest b.lanes)))
    (g.bundles.filter fun b => s.stallOf gid g b == none)

/-- The reason under which a group without a ready bundle counts a cycle (R158). -/
def State.idleReason (s : State) (gid : Nat) (g : Group) : Nat :=
  match (List.range g.width).find? fun k => (g.lane k).st != .exited with
  | none => 12
  | some k =>
    match g.bundles.find? fun b => hasBit b.lanes k with
    | some b => (s.stallOf gid g b).getD 13
    | none => match (g.lane k).st with
      | .sleeping _ => 5
      | .stalled w => s.waitReason gid w
      | _ => 12

def popMask (m : Mask) : Nat := (maskLanes m).length

/-- Late lanes (R146): the next instruction of lane k waits for a remote result, whatever else it awaits, that some lane of its bundle
has and it has not, and the bundle has waited at least 8 cycles. -/
def State.late (s : State) (g : Group) (k : Nat) : Bool :=
  match g.bundles.find? fun b => hasBit b.lanes k with
  | some b =>
    decide (b.last + 8 ≤ s.sch.cycle) && ((g.lane k).closed 1).any fun id =>
      match Table.get s.run.accs id with
      | some a =>
        let has (j : Nat) : Bool := hasBit a.parts j && !((g.lane j).wins.any fun w => match Table.get s.run.accs w.1 with
          | some x => x.inst == a.inst
          | none => false)
        s.resultReason id == 10 && (maskLanes b.lanes).any has
      | none => false
  | none => false

/-- Lane k stands aside from the RUNNING lanes of its PC: it is late (R146), or in a replay it is at its old place, where it waits while
the others go on (DEDUCED, log 94). -/
def State.aside (s : State) (g : Group) (k : Nat) : Bool := s.late g k || s.backAfter g 0 k

/-- A boundary of the regroup window: the bundles of a resident group are re-formed (R144, R146). -/
def execRegroupWindow (gid : Nat) (s : State) : Out :=
  match s.group gid with
  | some g => .next (if g.st = .resident then s.setGroup gid (g.rebundle (s.aside g)) else s)
  | none => .next s

/-- A long-latency result is written in its lanes and their windows on it end (R69, R70, R141). -/
def execResultWriteback (id : Nat) (s : State) : Out :=
  match Table.get s.run.pend id with
  | some p =>
    let s1 := { s with run := { s.run with pend := Table.del s.run.pend id } }
    .next (s1.updGroup p.gid fun g => g.writePending id p (-1))
  | none => .next s

end Sys2Proof.Machine
end

