-- ==== Sys2Proof/Machine/Fetch.lean ====
section
/-! DEFINITION. Machine/Fetch.lean: parks at the fetch of a line, the second fetch after a parity error, and the check of
register indices against the kernel header (R54, R63, R214). -/

namespace Sys2Proof.Machine

/-- A fetch that faults, or a line whose second copy fails parity, parks the bundle at the PC with %faddr = PC and %skid 0; the
guardian hears of a malformed entry too (R54, R208, R214). -/
def State.parkFetch (s : State) (gid : Nat) (m : Mask) (c : Code) (pc : DWord) : State :=
  let t := match s.group gid with | some g => s.noteMalformed (s.ctxOf g) pc | none => s
  (t.updGroup gid fun g => g.updLanes m fun l => { l with skid := 0 }).parkFault gid m ((maskLanes m).map fun k => (k, c, pc)) 0

/-- A word names a v or s register at or beyond the count its kernel declares (R63, R275). v255 is no register (R60). -/
def beyond (vregs sregs : Nat) (w : IWord) : Bool :=
  (wordFields w).any fun f =>
    let c := (f.extractLsb' 9 3).toNat
    let i := (f.extractLsb' 0 9).toNat
    (c == 0 && i != 255 && decide (vregs ≤ i)) || (c == 3 && decide (sregs ≤ i))

/-- The declared counts of a group's kernel. -/
def State.declared (s : State) (g : Group) : Nat × Nat :=
  match s.kernelOf g with | some k => (k.hdr.vregs, k.hdr.sregs) | none => (255, 64)

/-- A copy of the line that the group's first bundle fetches arrives. Its parity holds: nothing more. It fails: the copy is
discarded and the line is fetched once more; if that copy fails too, MACHINE_CHECK (R54). -/
def execFetchLineArrival (gid : Nat) (line : BitVec 512) (s : State) : Out :=
  match s.group gid with
  | none => .next s
  | some g =>
    match g.bundles with
    | [] => .next s
    | b :: _ =>
      let pc := (g.lane (lowest b.lanes)).pc
      if lineParity line ∨ g.st ≠ .resident then .next s
      else match s.fetchLine (s.ctxOf g) pc with
        | .error c => .next (s.parkFetch gid b.lanes c pc)
        | .ok x => .next (if lineParity x then s else s.parkFetch gid b.lanes .machineCheck pc)

end Sys2Proof.Machine
end

