-- ==== Sys2Proof/Machine/Float.lean ====
section
/-! DEFINITION. Machine/Float.lean: floating point, conversion and special functions, 0x30 to 0x4A (06_arithmetic.md, R124 to
R141). -/

namespace Sys2Proof.Machine

/-- The element format of a type (R30, R125). -/
def fmtOf : FTy → Fmt
  | .f32 => .f32
  | .f16x2 => .f16
  | .bf16x2 => .bf16

/-- An immediate stands for the exact value of its integer in the format, in both elements of a packed type (R61). -/
def immFloat (f : Fmt) (i : BitVec 9) : Nat :=
  (f.encode .rne 0 (.fin (decide (i.toInt < 0)) i.toInt.natAbs 0)).1

/-- Element e of a source as raw bits of the format (R30, R61, R124). -/
def elemBits (g : Group) (l : Lane) (f : Fmt) (e : Nat) (x : Opnd) : Nat :=
  match x with
  | .imm i => immFloat f i
  | _ =>
    let w := (readOp g l false x).toNat % 2 ^ 32
    if f.eb + f.fb = 31 then w else w / 2 ^ (16 * e) % 2 ^ 16

/-- FIn (R125): the element after the flush of FI, with DI where it flushed. -/
def elemIn (h : Hd) (g : Group) (l : Lane) (f : Fmt) (e : Nat) (x : Opnd) : Nat × Exc :=
  f.flushIn h.fi (elemBits g l f e x)

/-- The draw of one SR use, and the generator after it (R34). -/
def draw (rm : Rm) (sr : Word) : Nat × Word :=
  if rm = .sr then ((srNext sr).toNat, srNext sr) else (0, sr)

/-- What an instruction leaves of the generator: only SR writes it (R34: no use in another mode). -/
def afterDraw (rm : Rm) (sr : Word) : Option Word := if rm = .sr then some sr else none

/-- One element of the mould of R125: inputs, the exact function, rounding, FO. Answers bits, exceptions, generator. -/
def fpElem (h : Hd) (f : Fmt) (rm : Rm) (sr : Word) (ins : List (Nat × Exc)) (fn : List Num → Num × Bool) :
    Nat × Exc × Word :=
  let v := fn (ins.map fun x => f.decode x.1)
  let d := draw rm sr
  let r := f.flushOut h.fo (f.encode rm d.1 v.1)
  let di := ins.foldl (fun (a : Exc) x => a ||| x.2) 0
  (r.1, r.2 ||| (if v.2 then Exc.nv else 0) ||| di, d.2)

/-- The mould of R125 on one element or on a pair. -/
def fpMould (h : Hd) (t : FTy) (rm : Rm) (d : Opnd) (srcs : List Opnd) (fn : List Num → Num × Bool)
    (g : Group) (_ : Nat) (l : Lane) : Eff :=
  let f := fmtOf t
  let r0 := fpElem h f rm l.sr (srcs.map (elemIn h g l f 0)) fn
  match t with
  | .f32 => { regs := [(d, false, BitVec.ofNat 64 r0.1)], exc := r0.2.1, sr := afterDraw rm r0.2.2 }
  | _ =>
    let r1 := fpElem h f rm r0.2.2 (srcs.map (elemIn h g l f 1)) fn
    { regs := [(d, false, BitVec.ofNat 64 (r0.1 + 2 ^ 16 * r1.1))], exc := r0.2.1 ||| r1.2.1, sr := afterDraw rm r1.2.2 }

/-- The functions of R127. -/
def fnAdd (rm : Rm) : List Num → Num × Bool
  | [a, b] => Num.sum rm [a, b]
  | _ => (.nan false, false)

def fnSub (rm : Rm) : List Num → Num × Bool
  | [a, b] => Num.sum rm [a, b.negate]
  | _ => (.nan false, false)

def fnMul : List Num → Num × Bool
  | [a, b] => Num.mul a b
  | _ => (.nan false, false)

def fnFma (rm : Rm) : List Num → Num × Bool
  | [a, b, c] => Num.fma rm a b c
  | _ => (.nan false, false)

/-- A result that is an operand's NaN raises NV where it signals (R126). -/
def fnId : List Num → Num × Bool
  | [a] => (if a.isNan then .nan false else a, a.isSig)
  | _ => (.nan false, false)

def execFadd (h : Hd) (rm : Rm) (d a b : Opnd) (s : State) : Out :=
  .next (s.lanes h (fpMould h .f32 rm d [a, b] (fnAdd rm)))

def execFsub (h : Hd) (rm : Rm) (d a b : Opnd) (s : State) : Out :=
  .next (s.lanes h (fpMould h .f32 rm d [a, b] (fnSub rm)))

def execFmul (h : Hd) (rm : Rm) (d a b : Opnd) (s : State) : Out :=
  .next (s.lanes h (fpMould h .f32 rm d [a, b] fnMul))

def execFfma (h : Hd) (rm : Rm) (d a b c : Opnd) (s : State) : Out :=
  .next (s.lanes h (fpMould h .f32 rm d [a, b, c] (fnFma rm)))

/-- a × 2^n; FI does not touch n (R127). -/
def execFscale (h : Hd) (rm : Rm) (d a b : Opnd) (s : State) : Out :=
  .next (s.lanes h fun g k l =>
    fpMould h .f32 rm d [a] (fun xs => ((fnId xs).1.scale (srcInt g l .i32 b), (fnId xs).2)) g k l)

def execPkadd (h : Hd) (t : FTy) (rm : Rm) (d a b : Opnd) (s : State) : Out :=
  .next (s.lanes h (fpMould h t rm d [a, b] (fnAdd rm)))

def execPkmul (h : Hd) (t : FTy) (rm : Rm) (d a b : Opnd) (s : State) : Out :=
  .next (s.lanes h (fpMould h t rm d [a, b] fnMul))

def execPkfma (h : Hd) (t : FTy) (rm : Rm) (d a b c : Opnd) (s : State) : Out :=
  .next (s.lanes h (fpMould h t rm d [a, b, c] (fnFma rm)))

/-- Infinities of both signs (R126, R128). -/
def oppositeInf (a b : Num) : Bool := (Num.isInf false a && Num.isInf true b) || (Num.isInf true a && Num.isInf false b)

/-- a0 × b0 + a1 × b1 + c, rounded once. Products +∞ and -∞ are invalid beside any c (R128). -/
def execFdot2 (h : Hd) (t : FTy) (rm : Rm) (d a b c : Opnd) (s : State) : Out :=
  .next (s.lanes h fun g _ l =>
    let f := fmtOf t
    let a0 := elemIn h g l f 0 a; let a1 := elemIn h g l f 1 a
    let b0 := elemIn h g l f 0 b; let b1 := elemIn h g l f 1 b
    let c0 := elemIn h g l .f32 0 c
    let p0 := Num.mul (f.decode a0.1) (f.decode b0.1)
    let p1 := Num.mul (f.decode a1.1) (f.decode b1.1)
    let v := Num.sum rm [p0.1, p1.1, Fmt.f32.decode c0.1]
    let u := draw rm l.sr
    let r := Fmt.f32.flushOut h.fo (Fmt.f32.encode rm u.1 v.1)
    { regs := [(d, false, BitVec.ofNat 64 r.1)], sr := afterDraw rm u.2
      exc := r.2 ||| a0.2 ||| a1.2 ||| b0.2 ||| b1.2 ||| c0.2 ||| (if p0.2 || p1.2 || v.2 || oppositeInf p0.1 p1.1 then Exc.nv else 0) })

/-- FMIN and FMAX, element by element (R129). -/
def minMaxLane (h : Hd) (t : FTy) (max : Bool) (d a b : Opnd) (g : Group) (_ : Nat) (l : Lane) : Eff :=
  let f := fmtOf t
  let one (e : Nat) : Nat × Exc :=
    let x := elemIn h g l f e a; let y := elemIn h g l f e b
    let r := f.minMax max x.1 y.1
    (r.1, r.2 ||| x.2 ||| y.2)
  match t with
  | .f32 => { regs := [(d, false, BitVec.ofNat 64 (one 0).1)], exc := (one 0).2 }
  | _ => { regs := [(d, false, BitVec.ofNat 64 ((one 0).1 + 2 ^ 16 * (one 1).1))], exc := (one 0).2 ||| (one 1).2 }

def execFmin (h : Hd) (t : FTy) (d a b : Opnd) (s : State) : Out := .next (s.lanes h (minMaxLane h t false d a b))

def execFmax (h : Hd) (t : FTy) (d a b : Opnd) (s : State) : Out := .next (s.lanes h (minMaxLane h t true d a b))

/-- The raw 32 bits of a source, an immediate as its value in the format (R61). -/
def rawBits (g : Group) (l : Lane) (t : FTy) (x : Opnd) : Nat :=
  match t with
  | .f32 => elemBits g l .f32 0 x
  | _ => elemBits g l (fmtOf t) 0 x + 2 ^ 16 * elemBits g l (fmtOf t) 1 x

/-- The sign bits of a type (R130). -/
def signMask : FTy → Nat
  | .f32 => 0x80000000
  | _ => 0x80008000

def execFabs (h : Hd) (t : FTy) (d a : Opnd) (s : State) : Out :=
  .next (s.lanes h fun g _ l =>
    { regs := [(d, false, BitVec.ofNat 64 (rawBits g l t a &&& (0xFFFFFFFF - signMask t)))] })

def execFneg (h : Hd) (t : FTy) (d a : Opnd) (s : State) : Out :=
  .next (s.lanes h fun g _ l => { regs := [(d, false, BitVec.ofNat 64 (rawBits g l t a ^^^ signMask t))] })

def execFcmp (h : Hd) (cc : Fcc) (op : Lop) (d a b c : Opnd) (s : State) : Out :=
  .next (s.lanes h fun g _ l =>
    let x := elemIn h g l .f32 0 a; let y := elemIn h g l .f32 0 b
    let u := Fmt.f32.decode x.1; let v := Fmt.f32.decode y.1
    { preds := [(d, Lop.on op (Fcc.holds cc u v) (readPred l (Lop.unit op) c))]
      exc := x.2 ||| y.2 ||| (if u.isSig || v.isSig then Exc.nv else 0) })

def execFclass (h : Hd) (d a : Opnd) (s : State) : Out :=
  .next (s.lanes h fun g _ l =>
    { regs := [(d, false, BitVec.ofNat 64 (2 ^ fclassBit (elemBits g l .f32 0 a)))] })

/-- Round to an integral value, keeping the sign (R133). -/
def frndOne (rm : Rm) (r : Nat) (x : Bool) (bits : Nat) : Nat × Exc :=
  match Fmt.f32.decode bits with
  | .nan sg => (Fmt.f32.nanBits, if sg then Exc.nv else 0)
  | .inf n => (Fmt.f32.infBits n, 0)
  | .fin n m e =>
    let q := roundUnit rm r n m e 0
    ((Fmt.f32.encode .rne 0 (.fin n q.1 0)).1, if x && q.2 then Exc.nx else 0)

def execFrnd (h : Hd) (rm : Rm) (x : Bool) (d a : Opnd) (s : State) : Out :=
  .next (s.lanes h fun g _ l =>
    let i := elemIn h g l .f32 0 a
    let u := draw rm l.sr
    let r := frndOne rm u.1 x i.1
    { regs := [(d, false, BitVec.ofNat 64 r.1)], exc := r.2 ||| i.2, sr := afterDraw rm u.2 })

/-! ### CVT (R134, R135) -/

def CTy.fmt : CTy → Fmt
  | .f16 | .f16x2 => .f16
  | .bf16 | .bf16x2 => .bf16
  | _ => .f32

def CTy.ity : CTy → ITy
  | .i8 => .i8
  | .n8 => .n8
  | .i16 => .i16
  | .n16 => .n16
  | .n32 => .n32
  | .i64 => .i64
  | .n64 => .n64
  | _ => .i32

/-- A float rounded to another format; .sat clamps a finite value that would overflow (R135). -/
def cvtRound (f : Fmt) (rm : Rm) (r : Nat) (sat fo : Bool) (v : Num) : Nat × Exc :=
  let x := f.encode rm r v
  let y := match v with
    | .fin n _ _ => if sat && x.2 &&& Exc.of != 0 then (f.maxBits n, Exc.nx) else x
    | _ => x
  f.flushOut fo y

/-- A float to an integer type: clamped with NV, or NX where rounding changed it; a NaN gives 0 with NV (R135). -/
def cvtToInt (t : ITy) (rm : Rm) (r : Nat) (v : Num) : Int × Exc :=
  match v with
  | .nan _ => (0, Exc.nv)
  | .inf n => (if n then ITy.min t else ITy.max t, Exc.nv)
  | .fin n m e =>
    let q := roundUnit rm r n m e 0
    let x : Int := if n then -(q.1 : Int) else q.1
    if ITy.sat t x ≠ x then (ITy.sat t x, Exc.nv) else (x, if q.2 then Exc.nx else 0)

/-- One element of CVT: result bits or integer, and exceptions. -/
def cvtOne (h : Hd) (dt st : CTy) (rm : Rm) (r : Nat) (sat hi : Bool) (g : Group) (l : Lane) (x : Opnd) : DWord × Exc :=
  if st.isFloat then
    let f := CTy.fmt st
    let b := f.flushIn h.fi (elemBits g l f (if hi then 1 else 0) x)
    let v := f.decode b.1
    if dt.isFloat then
      let y := cvtRound (CTy.fmt dt) rm r sat h.fo v
      (BitVec.ofNat 64 y.1, y.2 ||| b.2)
    else
      let y := cvtToInt (CTy.ity dt) rm r v
      (BitVec.ofInt 64 y.1, y.2 ||| b.2)
  else
    let x := srcInt g l (CTy.ity st) x
    if dt.isFloat then
      let y := cvtRound (CTy.fmt dt) rm r sat h.fo (.fin (decide (x < 0)) x.natAbs 0)
      (BitVec.ofNat 64 y.1, y.2)
    else (ITy.fit (CTy.ity dt) sat x, 0)

def execCvt (h : Hd) (dt st : CTy) (rm : Rm) (sat hi : Bool) (d a b : Opnd) (s : State) : Out :=
  .next (s.lanes h fun g _ l =>
    let u := draw rm l.sr
    let x := cvtOne h dt st rm u.1 sat hi g l a
    if dt.isPacked then
      let u2 := draw rm u.2
      let y := cvtOne h dt st rm u2.1 sat hi g l b
      { regs := [(d, false, BitVec.ofNat 64 (x.1.toNat + 2 ^ 16 * y.1.toNat))], exc := x.2 ||| y.2, sr := afterDraw rm u2.2 }
    else { regs := [(d, dt.is64, x.1)], exc := x.2, sr := afterDraw rm u.2 })

/-! ### Long-latency results (R69, R70, R141): written later by RESULT_WRITEBACK -/

/-- An operand that a result can be written to (R62, R69). -/
def isDest : Opnd → Bool
  | .absent | .imm _ => false
  | _ => true

/-- The effect writes a register or a predicate (R69). -/
def Eff.writes (e : Eff) : Bool := (e.regs.any fun r => isDest r.1) || e.preds.any fun r => isDest r.1

/-- An instruction whose register results arrive later: the effects are computed at issue; registers, predicates and %fpst bits wait
in the pending table, and each lane that awaits a register or a predicate opens a window of LA instructions; where it writes none,
LA has no effect (R69, R141). -/
def State.later (s : State) (h : Hd) (f : Group → Nat → Lane → Eff) : State :=
  match s.current with
  | none => s
  | some (i, g) =>
    let es := i.effects g h f
    let fs := i.traps g es
    if fs.isEmpty then
      let (id, s1) := s.fresh
      let now := es.map fun p => (p.1, { p.2 with
        regs := [], preds := [], exc := 0
        upd := fun l => if p.2.writes then { p.2.upd l with wins := (id, h.la.toNat) :: l.wins } else p.2.upd l })
      let s2 := s1.setGroup i.gid (i.finish g now)
      { s2 with run := { s2.run with pend := Table.set s2.run.pend id ⟨i.gid,
        es.flatMap fun p => p.2.regs.map fun r => (p.1, r), es.flatMap fun p => p.2.preds.map fun r => (p.1, r),
        es.map fun p => (p.1, p.2.exc), false⟩ } }
    else s.takeTrap i fs

def execCvtlEnc (h : Hd) (d a b : Opnd) (s : State) : Out :=
  .next (s.later h fun g _ l =>
    let v := Fmt.f32.decode (elemIn h g l .f32 0 a).1
    let c := Sc.decode ((readOp g l false b).toNat % 2 ^ 24)
    let r := match c with | .nan => 32 | .zero => 0 | .val _ _ => encL v c
    { regs := [(d, false, BitVec.ofNat 64 r)] })

/-- CVTL.dec: each branch makes one use under SR (R34, R136). -/
def cvtlDecOne (rm : Rm) (r : Nat) (el c : Nat) : Nat :=
  let sc := Sc.decode c
  if el % 64 = 32 ∨ sc = .nan then Fmt.f32.nanBits
  else if el % 32 = 0 ∨ sc = .zero then 0
  else (Fmt.f32.encode rm r (lnsValue (el % 64) sc)).1

def execCvtlDec (h : Hd) (rm : Rm) (d a b : Opnd) (s : State) : Out :=
  .next (s.later h fun g _ l =>
    let u := draw rm l.sr
    { regs := [(d, false, BitVec.ofNat 64 (cvtlDecOne rm u.1 (srcN32 g l a) (srcN32 g l b % 2 ^ 24)))], sr := afterDraw rm u.2 })

def cvtlScaleOne (bits : Nat) : Nat :=
  match Fmt.f32.decode (bits % 2 ^ 31) with
  | .nan _ => 0x7F8000
  | .fin _ 0 _ => 0
  | v =>
    let q := quantScale v
    q.1.code + (if q.2 = .underflow then 2 ^ 24 else 0) + (if q.2 = .overflow then 2 ^ 25 else 0)

def execCvtlScale (h : Hd) (d a : Opnd) (s : State) : Out :=
  .next (s.later h fun g _ l =>
    { regs := [(d, false, BitVec.ofNat 64 (cvtlScaleOne (elemIn h g l .f32 0 a).1))] })

/-- A special function in one lane: FI, the function, FO (R137). -/
def specialLane (op : Nat) (h : Hd) (d a : Opnd) (g : Group) (_ : Nat) (l : Lane) : Eff :=
  let i := elemIn h g l .f32 0 a
  let r := Fmt.f32.flushOut h.fo (specialFn op i.1)
  { regs := [(d, false, BitVec.ofNat 64 r.1)], exc := r.2 ||| i.2 }

def execRcp (h : Hd) (d a : Opnd) (s : State) : Out := .next (s.later h (specialLane 0x42 h d a))
def execRsq (h : Hd) (d a : Opnd) (s : State) : Out := .next (s.later h (specialLane 0x43 h d a))

def execSqrt (h : Hd) (rm : Rm) (d a : Opnd) (s : State) : Out :=
  .next (s.later h fun g _ l =>
    let i := elemIn h g l .f32 0 a
    let u := draw rm l.sr
    let r := Fmt.f32.flushOut h.fo (sqrtFn rm u.1 i.1)
    { regs := [(d, false, BitVec.ofNat 64 r.1)], exc := r.2 ||| i.2, sr := afterDraw rm u.2 })

def execEx2 (h : Hd) (d a : Opnd) (s : State) : Out := .next (s.later h (specialLane 0x45 h d a))
def execLg2 (h : Hd) (d a : Opnd) (s : State) : Out := .next (s.later h (specialLane 0x46 h d a))
def execRred (h : Hd) (d a : Opnd) (s : State) : Out := .next (s.later h (specialLane 0x47 h d a))
def execSint (h : Hd) (d a : Opnd) (s : State) : Out := .next (s.later h (specialLane 0x48 h d a))
def execCost (h : Hd) (d a : Opnd) (s : State) : Out := .next (s.later h (specialLane 0x49 h d a))
def execTanh (h : Hd) (d a : Opnd) (s : State) : Out := .next (s.later h (specialLane 0x4A h d a))

end Sys2Proof.Machine
end

