-- ==== Sys2Proof/Machine/Group.lean ====
section
/-! DEFINITION. Machine/Group.lean: the cross-lane instructions 0x50 to 0x5A (07_group.md, R149 to R157). -/

namespace Sys2Proof.Machine

/-- Run an instruction whose effect in a lane depends on the participants: the lanes whose guard holds (R150). -/
def State.cross (s : State) (h : Hd) (f : List Nat → Group → Nat → Lane → Eff) : State :=
  match s.current with
  | none => s
  | some (i, g) => s.lanes h (f (i.guarded g h))

/-- The same, with a result that arrives later (R69). -/
def State.crossLater (s : State) (h : Hd) (f : List Nat → Group → Nat → Lane → Eff) : State :=
  match s.current with
  | none => s
  | some (i, g) => s.later h (f (i.guarded g h))

/-- The raw type of a width. -/
def rawTy (w64 : Bool) : ITy := if w64 then .b64 else .b32

/-- V(F, j): the operand in lane j (R150). -/
def vOf (g : Group) (w64 : Bool) (x : Opnd) (j : Nat) : Int := srcInt g (g.lane j) (rawTy w64) x

/-- The lane that SHFL reads, and whether it is valid (R151). -/
def shflSource (m : ShMode) (S L b : Nat) : Bool × Nat :=
  let base := L - L % S
  match m with
  | .from => (true, base + b % S)
  | .lower => (decide (b < S) && decide (base + b ≤ L), L - b)
  | .upper => (decide (b < S) && decide (L + b < base + S), L + b)
  | .pair => (decide (b < S), L ^^^ b)

/-- The segment of SHFL in lanes; code 0 is the whole group (R151). -/
def shflSeg (seg : BitVec 3) (width : Nat) : Nat := if seg = 0 then width else 2 ^ seg.toNat

def shflLane (m : ShMode) (seg : BitVec 3) (w64 : Bool) (d a b c e : Opnd) (part : List Nat) (g : Group) (k : Nat)
    (l : Lane) : Eff :=
  let j := shflSource m (shflSeg seg g.width) k (srcN32 g l b)
  let ok := j.1 && part.contains j.2
  let fill := if c.isAbsent then vOf g w64 a k else vOf g w64 c k
  { regs := [dstInt d (rawTy w64) false (if ok then vOf g w64 a j.2 else fill)], preds := [(e, ok)] }

/-- A segment wider than the group is an illegal encoding, at issue (R151). -/
def execShfl (h : Hd) (m : ShMode) (seg : BitVec 3) (w64 : Bool) (d a b c e : Opnd) (s : State) : Out :=
  match s.current with
  | none => .next s
  | some (i, g) =>
    if g.width < shflSeg seg g.width then .next (s.trapAll i .illegalEncoding 0)
    else .next (s.cross h (shflLane m seg w64 d a b c e))

def execBcast (h : Hd) (first w64 : Bool) (d a b c : Opnd) (s : State) : Out :=
  .next (s.cross h fun part g k l =>
    let j := if first then part.headD 0 else srcN32 g l b
    { regs := [dstInt d (rawTy w64) false (if part.contains j then vOf g w64 a j else vOf g w64 c k)] })

/-- The mask of the participants in which a predicate holds. -/
def partMask (part : List Nat) (g : Group) (a : Opnd) : Mask := laneMask (part.filter fun j => readPred (g.lane j) false a)

def execBallot (h : Hd) (d a : Opnd) (s : State) : Out :=
  .next (s.cross h fun part g _ _ => { regs := [(d, true, partMask part g a)] })

def execVote (h : Hd) (k : VoteK) (d a : Opnd) (s : State) : Out :=
  .next (s.cross h fun part g _ _ =>
    let t := part.map fun j => readPred (g.lane j) false a
    let r := match k with
      | .every => t.all id
      | .some => t.any id
      | .agree => t.all id || t.all not
    { preds := [(d, r)] })

def execMatchv (h : Hd) (same w64 : Bool) (d a e : Opnd) (s : State) : Out :=
  .next (s.cross h fun part g k _ =>
    let mine := vOf g w64 a k
    if same then
      let r := part.all fun j => vOf g w64 a j == mine
      { regs := [(d, true, if r then laneMask part else 0)], preds := [(e, r)] }
    else { regs := [(d, true, laneMask (part.filter fun j => vOf g w64 a j == mine))] })

def execElect (h : Hd) (d e : Opnd) (s : State) : Out :=
  .next (s.cross h fun part _ k _ =>
    { preds := [(d, k == part.headD 0)], regs := [dstInt e .n32 false (part.headD 0 : Nat)] })

def execActive (h : Hd) (grp : Bool) (d : Opnd) (s : State) : Out :=
  .next (s.cross h fun part g _ _ => { regs := [(d, true, if grp then g.liveMask else laneMask part)] })

/-! ### GRED and GSCAN (R154, R155) -/

def GTy.ity : GTy → ITy
  | .i32 => .i32
  | .n32 => .n32
  | .i64 => .i64
  | .n64 => .n64
  | .b32 => .b32
  | .b64 => .b64
  | .f32 => .b32

/-- The rounding mode of a MOD code 0 to 4 (R33). -/
def rmOfCode (md : BitVec 3) : Rm :=
  match md.toNat with
  | 0 => .rne
  | 1 => .rtz
  | 2 => .rdn
  | 3 => .rup
  | _ => .rna

/-- One integer operation; .add is exact. -/
def gInt (op : GOp) (t : ITy) (x y : Int) : Int :=
  match op with
  | .add => x + y
  | .min => if x ≤ y then x else y
  | .max => if x ≤ y then y else x
  | .and => bitwise (· &&& ·) t x y
  | .or => bitwise (· ||| ·) t x y
  | .xor => bitwise (· ^^^ ·) t x y

/-- The value of an empty list (R155). -/
def gEmpty (op : GOp) (t : ITy) : Int :=
  match op with
  | .add | .or | .xor => 0
  | .and => -1
  | .min => ITy.max t
  | .max => ITy.min t

def gFold (op : GOp) (t : ITy) : List Int → Int
  | [] => gEmpty op t
  | x :: r => r.foldl (gInt op t) x

/-- One .f32 operation, with its exceptions: Round(x + y) or FMIN, FMAX (R126, R129, R154). -/
def gOp32 (op : GOp) (rm : Rm) (x y : Nat) : Nat × Exc :=
  match op with
  | .min => Fmt.f32.minMax false x y
  | .max => Fmt.f32.minMax true x y
  | _ =>
    let v := Num.sum rm [Fmt.f32.decode x, Fmt.f32.decode y]
    let r := Fmt.f32.encode rm 0 v.1
    (r.1, r.2 ||| (if v.2 then Exc.nv else 0))

/-- One level of the tree over lane numbers (R154 GTree). -/
def gLevel (op : GOp) (rm : Rm) : List (Option Nat) → List (Option Nat) × Exc
  | some x :: some y :: r =>
    let v := gOp32 op rm x y
    let t := gLevel op rm r
    (some v.1 :: t.1, v.2 ||| t.2)
  | some x :: none :: r => let t := gLevel op rm r; (some x :: t.1, t.2)
  | none :: y :: r => let t := gLevel op rm r; (y :: t.1, t.2)
  | [x] => ([x], 0)
  | [] => ([], 0)

def gTree (op : GOp) (rm : Rm) : Nat → List (Option Nat) → Option Nat × Exc
  | 0, x => (x.headD none, 0)
  | n + 1, x =>
    let t := gLevel op rm x
    let u := gTree op rm n t.1
    (u.1, t.2 ||| u.2)

/-- GRED of .f32: FI on each input, the tree, FO on the result; the exceptions are everyone's. -/
def gredF32 (h : Hd) (op : GOp) (rm : Rm) (a : Opnd) (part : List Nat) (g : Group) : Nat × Exc :=
  let ins := part.map fun j => (j, elemIn h g (g.lane j) .f32 0 a)
  let cells := (List.range 64).map fun j => (ins.find? fun p => p.1 == j).map fun p => p.2.1
  let t := gTree op rm 6 cells
  let r := Fmt.f32.flushOut h.fo (t.1.getD 0, t.2)
  (r.1, ins.foldl (fun (x : Exc) p => x ||| p.2.2) r.2)

def execGred (h : Hd) (op : GOp) (t : GTy) (md : BitVec 3) (d a : Opnd) (s : State) : Out :=
  .next (s.crossLater h fun part g _ _ =>
    match t with
    | .f32 =>
      let r := gredF32 h op (rmOfCode md) a part g
      { regs := [(d, false, BitVec.ofNat 64 r.1)], exc := r.2 }
    | t =>
      let ty := GTy.ity t
      { regs := [dstInt d ty (md == 1) (gFold op ty (part.map fun j => srcInt g (g.lane j) ty a))] })

/-- The fold from the left of GSCAN over .f32 (R155). -/
def gscanF32 (op : GOp) (rm : Rm) : List Nat → Nat × Exc
  | [] => (match op with | .min => Fmt.f32.infBits false | .max => Fmt.f32.infBits true | _ => 0, 0)
  | x :: r => r.foldl (fun a y => let v := gOp32 op rm a.1 y; (v.1, a.2 ||| v.2)) (x, 0)

def execGscan (h : Hd) (op : GOp) (t : GTy) (excl : Bool) (md : BitVec 3) (d a c : Opnd) (s : State) : Out :=
  .next (s.crossLater h fun part g k l =>
    let js := part.filter fun j => if excl then decide (j < k) else decide (j ≤ k)
    match t with
    | .f32 =>
      let ins := (if c.isAbsent then [] else [elemIn h g l .f32 0 c]) ++ js.map fun j => elemIn h g (g.lane j) .f32 0 a
      let r := gscanF32 op (rmOfCode md) (ins.map (·.1))
      let u := Fmt.f32.flushOut h.fo r
      { regs := [(d, false, BitVec.ofNat 64 u.1)], exc := ins.foldl (fun (x : Exc) p => x ||| p.2) u.2 }
    | t =>
      let ty := GTy.ity t
      let ins := (if c.isAbsent then [] else [srcInt g l ty c]) ++ js.map fun j => srcInt g (g.lane j) ty a
      { regs := [dstInt d ty (md == 1) (gFold op ty ins)] })

/-! ### MEET and JOIN (R156, R157) -/

/-- The address of a slot of the line that stands a signed number of lines from a PC's line (R66, R156). -/
def lineTarget (pc : DWord) (lines : Int) (slot : Nat) : DWord :=
  pc - BitVec.ofNat 64 (field pc 5 0) + BitVec.ofInt 64 (64 * lines) + BitVec.ofNat 64 slot

def execMeet (h : Hd) (k : MeetK) (a b : Opnd) (s : State) : Out :=
  match s.current with
  | none => .next s
  | some (i, _) =>
    .next (s.lanes h fun g _ l =>
      let addr : DWord := match k with
        | .label => lineTarget i.pc (readOp g l true a).toInt (readOp g l true b).toNat
        | .reg => readOp g l true a
        | .clr => 0
      { fault := if pcOk addr then none else some (.branchTarget, addr), upd := fun l => { l with meet := addr } })

def execJoin (h : Hd) (s : State) : Out :=
  .next (s.lanes h fun _ _ _ => { upd := fun l => { l with st := .held true } })

end Sys2Proof.Machine
end

