-- ==== Sys2Proof/Machine/Memory.lean ====
section
/-! DEFINITION. Machine/Memory.lean: the life of an access: routes to peers, translation, what an access must wait for, the
L1 lines and the store-combining buffer, acquires and releases (R177 to R194, R202, R211, R326, R334, R337, R341, R362). -/

namespace Sys2Proof.Machine

/-- A free choice of the hardware (log 3): the number drawn, and the state with the counter advanced. -/
def State.draw (s : State) : Nat × State :=
  (Config.freeChoice s.sch.free, { s with sch := { s.sch with free := s.sch.free + 1 } })

/-! ### Routes (R334, R337) -/

inductive Route where
  | direct (ports : List Nat)
  | detour (via : Nat)
  | held
  | none
  deriving DecidableEq, Repr

/-- Ports in a state whose peer is f. -/
def Links.portsTo (l : Links) (f : Nat) (st : PortState) : List Nat :=
  l.ports.filterMap fun p => if p.2.st = st ∧ p.2.peer = some f then some p.1 else Option.none

/-- The lowest device that stands between this device and f (R337). -/
def Links.between (l : Links) (f : Nat) : Option Nat :=
  (List.range 16).find? fun v => v != f && !(l.portsTo v .locked).isEmpty && ((Table.get l.remote v).getD []).contains f

/-- The route to peer f; a device outside any fabric domain has none. -/
def Links.route (l : Links) (f : Nat) : Route :=
  if !l.fen then .none
  else if !(l.portsTo f .locked).isEmpty then .direct (l.portsTo f .locked)
  else if !(l.portsTo f .degraded).isEmpty || !(l.portsTo f .relocking).isEmpty then
    (match l.between f with | some v => .detour v | Option.none => .held)
  else if !(l.portsTo f .dark).isEmpty then .held
  else .none

/-- Traffic to f moves now. -/
def Links.open (l : Links) (f : Nat) : Bool :=
  match l.route f with | .direct _ | .detour _ => true | _ => false

/-- The port that carries traffic for an address of a device: the ports to it, or to the device its detour goes through, take
turns by the 4 KiB page (R334, R337). -/
def Links.portFor (l : Links) (f : Nat) (va : DWord) : Option Nat :=
  let of (ps : List Nat) : Option Nat := ps[va.toNat / 4096 % ps.length]?
  match l.route f with
  | .direct ps => of ps
  | .detour v => of (l.portsTo v .locked)
  | _ => Option.none

/-- A port holds an allowance of a class: requests, responses, set-aside, control (R338). -/
def Links.holds (l : Links) (port cls : Nat) : Bool :=
  match Table.get l.ports port with | some x => decide (0 < x.alw.getD cls 0) | Option.none => false

/-- A frame spends an allowance of its class (R338). -/
def Links.pay (l : Links) (port cls : Nat) : Links :=
  { l with ports := Table.upd l.ports port fun x => { x with alw := x.alw.modify cls (· - 1) } }

/-- The stack of the peer that an address of a fabric page lies in: the destination die of its flow (R10, R339). -/
def Trans.peerDie (t : Trans) (va : DWord) : Nat := (t.frame + va.toNat % 2 ^ t.bits) / Config.stackBytes

/-- The class of a request: its flow's, which may stand in a set-aside queue of the port (R338, R339). -/
def Links.requestClass (l : Links) (port : Nat) (t : Trans) (va : DWord) : Nat :=
  if l.flows.any fun f => f.port == port && f.src == l.fdev && f.dst == t.num && f.die == t.peerDie va then 2 else 0

/-- Traffic for an address of a fabric page moves now: its port holds an allowance for it (R338). -/
def Links.sends (l : Links) (t : Trans) (va : DWord) : Bool :=
  match l.portFor t.num va with | some p => l.holds p (l.requestClass p t va) | Option.none => false

/-- A frame for an address of a fabric page spends its allowance (R338). -/
def Links.spend (l : Links) (t : Trans) (va : DWord) : Links :=
  match l.portFor t.num va with | some p => l.pay p (l.requestClass p t va) | Option.none => l

/-! ### Steppe links (R15, R333) -/

/-- The Steppe link of a virtual die retrains: what crosses it waits. -/
def Links.retrains (l : Links) (die : Nat) : Bool :=
  match Table.get l.dieLinks die with | some x => x.st == .retraining | none => false

/-- What an access from a die (8 for Steppe itself) to an address crosses is not retraining: the die's own Steppe link, and for device
memory that of the stack. A line of device memory may stand in a cache on the near side, which the model does not hold: then it
crosses nothing, at the hardware's choice (R15; log 3). -/
def State.linksUp (s : State) (die : Nat) (t : Trans) (va : DWord) : Bool :=
  let far := t.cls == 1 || t.cls == 2
  !(s.lnk.retrains die || (!far && s.lnk.retrains (s.lnk.virtual (t.key va / Config.stackBytes)))) ||
  (!far && Config.nearLine s.sch.free (t.key va))

/-! ### What an access is -/

def Scope.beyondCore (sc : Scope) : Bool := match sc with | .team | .core => false | _ => true

/-- The access loads: it has a value to be fixed. -/
def AccKind.loads (k : AccKind) : Bool := match k with | .load _ | .arm _ _ | .line _ _ => true | _ => false

def AccKind.atomic (k : AccKind) : Bool := match k with | .atom _ _ | .red _ _ => true | _ => false

def AccKind.writes (k : AccKind) : Bool := match k with | .store | .atom _ _ | .red _ _ => true | _ => false

/-- A uniform access: its destination is an s register; a uniform store, which writes none, carries an immediate (R187, R197). -/
def Access.uniform (a : Access) : Bool := match a.dst with | .s _ | .imm _ => true | _ => false

def Access.acquires (a : Access) : Bool := a.ord == .acq || a.ord == .acqrel
def Access.releases (a : Access) : Bool := a.ord == .rel || a.ord == .acqrel

/-- The memory key of an access that has been translated. -/
def Access.key (a : Access) : Nat := match a.tr with | some t => t.key a.va | none => 0

/-- Two accesses touch a common byte, or may: an access without a translation may touch every byte at its offset in a 64 KiB page
(R178). -/
def Access.meets (a b : Access) : Bool :=
  if a.sp || b.sp then a.sp && b.sp && a.team == b.team && overlap a.va.toNat a.size b.va.toNat b.size
  else if a.tr.isSome && b.tr.isSome then overlap a.key a.size b.key b.size
  else overlap (a.va.toNat % 65536) a.size (b.va.toNat % 65536) b.size

/-- Two accesses belong to one lane of a group. -/
def Access.sameLane (a b : Access) : Bool := a.gid == b.gid && a.lanes &&& b.lanes != 0

/-! ### Releases (R194, R203, R326) -/

/-- A store that another group has observed stands in the buffer no more (R326). -/
def State.landed (s : State) (id : Nat) : Bool := match Table.get s.run.accs id with | some a => a.st != .combined | none => true

/-- The stores of other groups that a group has observed by number `before` are performed (R326). -/
def State.observedDone (s : State) (g : Group) (before : Nat) : Bool :=
  g.observed.all fun x => decide (before ≤ x.2) || s.landed x.1

/-- Every access that the group issued before number `before` has reached the point of a scope: NEAR at team or core
scope, FAR at die scope or wider, where also every store that the group had read from the buffer is performed. -/
def State.reached (s : State) (gid : Nat) (sc : Scope) (before : Nat) : Bool :=
  if Scope.beyondCore sc then
    (s.run.accs.all fun p => !(p.2.gid == gid && decide (p.1 < before))) &&
    (match s.group gid with | some g => s.observedDone g before | none => true)
  else s.run.accs.all fun p => !(p.2.gid == gid && decide (p.1 < before) && p.2.st == .queued)

/-- Room for n more accesses in FAR (R180). -/
def State.room (s : State) (gid n : Nat) : Bool := decide (s.far gid + n ≤ Config.farLimit)

/-! ### Scopes, acquires and what a core must see (R188, R322 to R325, R330; log 76) -/

/-- The core and the die of an agent within the package's compute dies (R322). -/
def Agent.core? : Agent → Option Nat
  | .lane c _ _ => some c
  | .engine c => some c
  | _ => none

def Agent.die? : Agent → Option Nat
  | .lane c _ _ => some (dieOf c)
  | .engine c => some (dieOf c)
  | .streamer k => some (k / 6)
  | _ => none

def Agent.here : Agent → Bool
  | .host _ | .peer _ => false
  | _ => true

/-- A scope measured from an agent covers another (R322). -/
def Scope.covers (sc : Scope) (x y : Agent) : Bool :=
  match sc with
  | .team => (match x, y with | .lane _ t _, .lane _ u _ => t == u | _, _ => false)
  | .core => x.core?.isSome && x.core? == y.core?
  | .die => x.die?.isSome && x.die? == y.die?
  | .dev => x.here && y.here
  | .dom => (match x, y with | .host _, _ | _, .host _ => false | _, _ => true)
  | .sys => true

/-- Raise an entry of a table of numbers to at least n. -/
def Table.raise (t : Table Nat) (k n : Nat) : Table Nat := if ((Table.get t k).getD 0) < n then Table.set t k n else t

/-- An acquire at die scope or wider invalidates the core's L1 lines that no .ro filled; what the core's loads have seen of a line, they
see from now on (R188, R328). -/
def State.invalidate (s : State) (core : Nat) (sc : Scope) : State :=
  if Scope.beyondCore sc then
    { s with mem := { s.mem with
      l1 := s.mem.l1.filter fun x => x.core != core || x.ro
      lineFloors := (s.mem.lineSeen.filter fun p => p.1 % 256 == core).foldl (fun t p => Table.raise t p.1 p.2) s.mem.lineFloors
      lineSeen := s.mem.lineSeen.filter fun p => p.1 % 256 != core } }
  else s

/-- The core must see every write up to number n. -/
def State.raiseFloor (s : State) (core n : Nat) : State :=
  { s with mem := { s.mem with floors := Table.raise s.mem.floors core n } }

/-- An acquire that synchronises with all that has come before it: the core must from now on see every write performed so far. -/
def State.acquire (s : State) (core : Nat) (sc : Scope) : State :=
  if Scope.beyondCore sc then (s.invalidate core sc).raiseFloor core s.mem.ver else s

/-- Of releases that an acquire's reads have observed, those that synchronise with it: their scope covers the acquirer, and its scope covers
them (R323). -/
def syncing (x : Agent) (sc : Scope) (rels : List Rel) : List Rel :=
  rels.filter fun r => Scope.covers r.sc r.agent x && Scope.covers sc x r.agent

/-- The acquire of reads that have observed releases: it invalidates, and the core sees what had been performed at each release that
synchronises (R188, R323, R325). -/
def State.acquireRels (s : State) (x : Agent) (core : Nat) (sc : Scope) (rels : List Rel) : State :=
  if Scope.beyondCore sc then (syncing x sc rels).foldl (fun t r => t.raiseFloor core r.ver) (s.invalidate core sc) else s

/-- Versions of a line that a core may still read: those older than no write that it must see (R325, R330). -/
def State.oldLines (s : State) (core line : Nat) : List OldLine :=
  let floor := Nat.max ((Table.get s.mem.floors core).getD 0) ((Table.get s.mem.lineFloors (line * 256 + core)).getD 0)
  s.mem.old.filter fun o => o.line == line && decide (floor < o.ver)

/-! ### L1 (R184 to R189) -/

/-- Mark STALE the core's lines that hold bytes of a lane's write: the main and the uniform side; a uniform store leaves the
uniform side, whose copy it updates when it becomes visible (R186, R187). -/
def L1Line.onWrite (x : L1Line) (core key n : Nat) (uniform : Bool) : L1Line :=
  if x.core = core ∧ overlap key n (64 * x.line) 64 ∧ !(uniform && x.uniform) then { x with stale := true } else x

/-- Put a uniform store's bytes into the uniform side's copy (R187). -/
def L1Line.onUniform (x : L1Line) (core key : Nat) (b : List Byte) : L1Line :=
  if x.core = core ∧ x.uniform ∧ overlap key b.length (64 * x.line) 64 then
    { x with data := x.data.take (key - 64 * x.line) ++ b ++ x.data.drop (key - 64 * x.line + b.length) }
  else x

/-- Stores of a core that stand in the store-combining buffer, in the order they entered it (R177). -/
def State.buffer (s : State) (core : Nat) : List (Nat × Access) :=
  s.run.accs.filter fun p => p.2.core == core && p.2.kind == .store && !p.2.sp && p.2.st == .combined

/-- Lay bytes over bytes that start at a key. -/
def overlay (key : Nat) (b : List Byte) (k : Nat) (x : List Byte) : List Byte :=
  b.mapIdx fun i y => if k ≤ key + i ∧ key + i < k + x.length then x.getD (key + i - k) 0 else y

/-- Bytes with the core's buffer laid over them (R184, R320). -/
def State.overBuffer (s : State) (core key : Nat) (b : List Byte) : List Byte :=
  (s.buffer core).foldl (fun b p => overlay key b p.2.key p.2.bytes) b

/-- What a .fresh load of a core reads: the buffer's bytes over the home's (R184, R320). -/
def State.freshBytes (s : State) (core key n : Nat) : List Byte := s.overBuffer core key (s.load key n)

/-- Combined stores of other groups that a load of these bytes reads (R326). -/
def State.sources (s : State) (gid core key n : Nat) : List Nat :=
  ((s.buffer core).filter fun p => p.2.gid != gid && overlap key n p.2.key p.2.bytes.length).map (·.1)

/-- The releases whose sequence an access's own store stands in (R323): its own, and that of a releasing FENCE before it. -/
def Access.ownRels (a : Access) (ver : Nat) : List Rel :=
  (if a.releases then [(⟨.lane a.core a.team a.gid, a.sc, ver, a.inst⟩ : Rel)] else []) ++
  (a.fenced.map fun sc => (⟨.lane a.core a.team a.gid, sc, ver, a.inst⟩ : Rel)).toList

/-- The releases in whose sequence the bytes at a key stand. -/
def relsOf (marks : List Writer) (key n : Nat) : List Rel :=
  (marks.filter fun w => overlap key n w.key w.size).flatMap (·.rels)

/-- The releases that a core's load of bytes observes: of the stores that it reads from the buffer, and of the home's bytes. -/
def State.relsAt (s : State) (core key n : Nat) : List Rel :=
  ((s.buffer core).filter fun p => overlap key n p.2.key p.2.bytes.length).flatMap (fun p => p.2.ownRels s.mem.ver) ++
  relsOf s.mem.marks key n

/-- Stores in the buffer that come before observed releases of other groups: those groups' own, and those that they had observed (R324,
R326). -/
def State.carried (s : State) (gid core : Nat) (rels : List Rel) : List Nat :=
  rels.flatMap fun r => match r.agent with
    | .lane c _ h => if c = core ∧ h ≠ gid then
        ((s.buffer core).filter fun p => p.2.gid == h && decide (p.1 < r.num)).map (·.1) ++
        (match s.group h with | some g => (g.observed.filter fun x => decide (x.2 < r.num)).map (·.1) | none => [])
      else []
    | _ => []

/-- The acquire of a read at the coherence point by a group (R323). -/
def State.acquireAt (s : State) (g : Group) (gid : Nat) (sc : Scope) (key n : Nat) : State :=
  s.acquireRels (.lane g.core g.team gid) g.core sc (relsOf s.mem.marks key n)

def State.mapOlds (s : State) (team : Nat) (f : List OldWord → List OldWord) : State :=
  { s with run := { s.run with teams := Table.upd s.run.teams team fun t => { t with olds := f t.olds } } }

/-- A release of a group at core scope or wider orders the scratchpad writes that it knows of, below number n, before what engines read from
now on (R190, R226, R332). -/
def State.settleOlds (s : State) (team gid : Nat) (sc : Scope) (n : Nat) : State :=
  if sc = .team then s else s.mapOlds team fun os => os.filter fun o => !(o.gids.contains gid && decide (o.num < n))

/-- A group has observed stores by its access number n (R326). -/
def Group.noteStores (g : Group) (n : Nat) (ids : List Nat) : Group :=
  { g with observed := g.observed ++ ((ids.filter fun x => !g.observed.any fun y => y.1 == x).eraseDups).map fun x => (x, n) }

/-- The L1 line of a core's side. -/
def State.l1Line (s : State) (core line : Nat) (uniform : Bool) : Option L1Line :=
  s.mem.l1.find? fun x => x.core == core && x.uniform == uniform && x.line == line

/-- Where an access goes: by its translation, or, before it has one, by a TLB entry or the tables. -/
def State.places (s : State) (a : Access) : List Nat :=
  match a.tr with
  | some t => [t.key a.va]
  | none => ((s.tlbHit a.core a.ctx a.va false).map fun t => t.key a.va).toList ++
    (match s.walk a.ctx a.va with | .found t => [t.key a.va] | _ => [])

/-- A write of the core's lanes that is not performed yet touches a line. -/
def State.lineInFlight (s : State) (core line : Nat) : Bool :=
  s.run.accs.any fun p => p.2.core == core && p.2.kind.writes && !p.2.sp && (p.2.st == .queued || p.2.st == .combined) &&
    (s.places p.2).any fun k => overlap k p.2.size (64 * line) 64

/-- How long L1 keeps a line: what .stream filled goes first, what .ro filled last (R184). -/
def L1Line.rank (x : L1Line) : Nat := if x.ro then 2 else if x.first then 0 else 1

/-- Remove from the lines of a core, latest first, the one that is evicted: the oldest of the least rank. -/
def evictLine (core : Nat) (ls : List L1Line) : List L1Line :=
  let mine := ls.filter fun x => x.core == core
  let low := mine.foldl (fun m x => Nat.min m x.rank) 2
  match mine.reverse.find? fun x => x.rank == low with
  | some v => ls.filter fun x => !(x.core == core && x.uniform == v.uniform && x.line == v.line)
  | none => ls

/-- Fill a line of L1, which holds 4,096 lines of a core (R11, R14). A line that a write of the core in flight touches is STALE
from the start (R186). -/
def State.fillL1 (s : State) (core kernel line : Nat) (uniform ro first : Bool) (data : List Byte) : State :=
  let x : L1Line := ⟨core, uniform, line, data, s.lineInFlight core line, ro, first, kernel⟩
  let rest := s.mem.l1.filter fun y => !(y.core == core && y.uniform == uniform && y.line == line)
  let room := if (rest.filter fun y => y.core == core).length < Config.l1Lines then rest else evictLine core rest
  { s with mem := { s.mem with l1 := x :: room } }

/-- Mark the core's L1 lines STALE for a lane's write, as it issues and when it has its translation (R186, R187). -/
def State.markStale (s : State) (a : Access) : State :=
  let mark (x : L1Line) : L1Line := (s.places a).foldl (fun y k => y.onWrite a.core k a.size (a.uniform && a.kind == .store)) x
  { s with mem := { s.mem with l1 := s.mem.l1.map mark } }

/-- A class whose lines only .ro may cache (R189). -/
def Trans.remote (t : Trans) : Bool := t.cls == 1 || t.cls == 2

/-- What a load that misses L1 finds below it: the home's line, or, at the hardware's choice, an old one that the core may still
read; only default and .stream loads may (R330). -/
def State.below (s : State) (core line : Nat) (hint : Hint) : State × List Byte :=
  let old := if hint = .dflt ∨ hint = .stream then s.oldLines core line else []
  if old.isEmpty then (s, s.load (64 * line) 64)
  else
    let (n, s1) := s.draw
    match old[n % (old.length + 1)]? with
    | some o => (s1, o.data)
    | none => (s1, s.load (64 * line) 64)

/-- Read the bytes of a load at its key under its hint: the state after fills, the bytes, and the stores read from the
buffer. MONARM, LDMON and TLD read at the coherence point (R172, R256). A line that L1 holds serves the load or has been evicted: the
hardware's choice (R184 to R189). A .nt load too may be served by a line that L1 holds; it only fills none (R184 does not say
whether it may hit; DESIGN CHOICE, log 58). -/
def State.readFor (s : State) (a : Access) (t : Trans) : State × List Byte × List Nat :=
  let key := t.key a.va
  let line := key / 64
  let uniform := a.uniform
  let hint := if a.acquires then Hint.fresh else a.hint
  let seen := s.sources a.gid a.core key a.size
  let cut (d : List Byte) : List Byte := (d.drop (key % 64)).take a.size
  match a.kind with
  | .arm _ _ | .line _ _ => (s, s.load key a.size, [])
  | _ =>
    if hint = .fresh ∨ (t.remote ∧ hint ≠ .ro) then (s, s.freshBytes a.core key a.size, seen)
    else
      let (n, s1) := match s.l1Line a.core line uniform with | some _ => s.draw | none => (1, s)
      match s.l1Line a.core line uniform, n % 2 == 0 with
      | some x, true =>
        if x.stale then (s1, s.freshBytes a.core key a.size, seen) else (s1, cut x.data, if uniform then seen else [])
      | _, _ =>
        match (if hint = .ro ∧ t.remote then s1.mem.roCopies.find? fun c => c.line == line else none) with
        | some c => (s1, cut c.data, [])
        | none =>
          let (s2, data) := s1.below a.core line hint
          let s3 := if hint = .nt then s2 else s2.fillL1 a.core a.kernel line uniform (hint == .ro) (hint == .stream) data
          let s4 := if hint = .ro ∧ t.remote then
              { s3 with mem := { s3.mem with roCopies := ⟨line, data, a.kernel⟩ :: s3.mem.roCopies } }
            else s3
          (s4, s.overBuffer a.core key (cut data), seen)

/-! ### Translation of accesses (R183, R209, R211, R341) -/

/-- Is a tile in the sent range. -/
def Stub.inRange (x : Stub) (tile : Nat) : Bool :=
  let a := (x.va.toNat / 65536 * 16 + tile) * 4096
  decide (x.va.toNat ≤ a) && decide (a < x.va.toNat + x.len.toNat)

/-- A load of a stub page can be read now; or it faults STUB_LOST; or it waits for a pull (R209, R360, R363). -/
def State.touch (s : State) (ctx : Nat) (va : DWord) : Except Code Bool :=
  match s.stubAt ctx va with
  | none => .ok true
  | some (_, x) =>
    if x.pulled.contains (x.tile va) then .ok true
    else if x.inval.isSome then .error .pageNotPresent
    else if x.st = .lost ∧ x.inRange (x.tile va) then .error .stubLost
    else .ok false

/-- Begin the pull of the tile behind an address, unless it is pulled or being pulled; a tile outside the range is filled
with zeros at once (R360). -/
def State.startPull (s : State) (ctx : Nat) (va : DWord) : State :=
  match s.stubAt ctx va with
  | none => s
  | some (n, x) =>
    let k := x.tile va
    if x.pulled.contains k ∨ x.pulling.contains k then s
    else if x.inRange k then
      (if x.st = .lost then s
       else { s with sum := { s.sum with stubs := Table.set s.sum.stubs n { x with pulling := x.pulling ++ [k] } } })
    else
      let t := s.store (x.frames.getD (k / 16) 0 + 4096 * (k % 16)) (List.replicate 4096 0)
      { t with sum := { t.sum with stubs := Table.set t.sum.stubs n { x with pulled := x.pulled ++ [k] } } }

/-- The use an access makes of its page (R209). -/
def Access.use (a : Access) : Use := if a.kind.atomic then .atomic else if a.kind.writes then .store else .load

/-- Does a write reach the host: PCIe for the operations that have an AtomicOp, CXL for the others (R202). -/
def State.hostAtomicOk (s : State) (op : AOp) (t : Trans) : Bool :=
  (op == .add || op == .exch || op == .cas) || (t.cxla && (Table.get s.sys.hosts t.num == some true))

/-- The fault that an access meets once it has its translation: the class check, a partly written view block, an atomic that
no path to the host carries. -/
def State.accessFault (s : State) (a : Access) (t : Trans) : Option Code :=
  match s.classFault a.ctx a.use t a.va a.size with
  | some c => some c
  | none =>
    if t.cls = 3 ∧ a.kind = .store ∧ !a.whole then some .formatView
    else if t.cls = 6 then (match s.touch a.ctx a.va with | .error c => some c | .ok _ => none)
    else match a.kind with
      | .atom op _ | .red op _ => if t.cls = 1 ∧ !s.hostAtomicOk op t then some .atomicUnsupported else none
      | _ => none

/-! ### Held pages (R210, R356, R357, R361, R362) -/

/-- The 64 KiB pieces of a virtual range: the first address of each that lies in it. -/
def pieces (base len : Nat) : List DWord :=
  if len = 0 then []
  else (List.range ((base + len - 1) / 65536 - base / 65536 + 1)).map fun k =>
    BitVec.ofNat 64 (Nat.max base ((base / 65536 + k) * 65536))

/-- Holds on the page of a leaf that holds an address. -/
def State.holdCount (s : State) (ctx : Nat) (t : Trans) (va : DWord) : Nat :=
  (s.sum.holds.filter fun h => h.2.octx == ctx &&
    overlap (h.2.base.toNat / 65536 * 65536) (h.2.base.toNat % 65536 + h.2.len.toNat) (2 ^ t.bits * t.page va) (2 ^ t.bits)).length

/-- A page stays held: an entry names it, or a restore keeps it (R405). -/
def State.pageHeld (s : State) (ctx : Nat) (t : Trans) (va : DWord) : Bool :=
  decide (0 < s.holdCount ctx t va) ||
  s.sum.restored.any fun r => r.1 == ctx && overlap r.2 65536 (2 ^ t.bits * t.page va) (2 ^ t.bits)

def swZero : SwRegs := ⟨0, 0, 0, 0, 0, 0, 0⟩

def State.swRegs (s : State) (ctx : Nat) : SwRegs := (Table.get s.sum.regs ctx).getD swZero

/-- A page that is held now, as its tables stand (R210, R362). -/
def State.heldNow (s : State) (ctx : Nat) (va : DWord) : Bool :=
  match s.walk ctx va with | .found t => t.cls == 5 | _ => false

/-- HOLDLIM in ns; 0 means 100 ms (R357). -/
def State.holdLimNs (s : State) (ctx : Nat) : Nat :=
  let n := field (s.swRegs ctx).ctl 43 28
  (if n = 0 then 100 else n) * 1000000

/-- A page is held by more than entries whose lease has run out: those clear first (R364). -/
def State.heldOn (s : State) (ctx : Nat) (va : DWord) : Bool :=
  let t := { s with sum := { s.sum with holds := s.sum.holds.filter fun p => decide (p.2.age < 1000000000) } }
  match s.walk ctx va with | .found x => x.cls == 5 && t.pageHeld ctx x va | _ => false

/-- Where the page begins that a leaf maps; 64 KiB where none does. -/
def State.pageOf (s : State) (ctx : Nat) (va : DWord) : Nat :=
  match s.walk ctx va with | .found t => t.page va * 2 ^ t.bits | _ => va.toNat / 65536 * 65536

/-- Is a stall that of a writer at a page of a context. -/
def Stall.at' (x : Stall) (ctx page id : Nat) : Bool := x.ctx == ctx && x.page == page && x.id == id

/-- A write that only a hold keeps back takes its place among those that stall at the page (R210). -/
def State.stall (s : State) (ctx : Nat) (va : DWord) (id : Nat) : State :=
  if s.mem.stalls.any (·.at' ctx (s.pageOf ctx va) id) then s
  else { s with mem := { s.mem with stalls := s.mem.stalls ++ [⟨ctx, s.pageOf ctx va, id, 0⟩] } }

/-- A write leaves the pages at which it stalled. -/
def State.unstall (s : State) (id : Nat) : State := { s with mem := { s.mem with stalls := s.mem.stalls.filter fun x => x.id != id } }

/-- A write of an operation has been performed at a page, or has failed there. -/
def State.unstallAt (s : State) (ctx : Nat) (va : DWord) (id : Nat) : State :=
  { s with mem := { s.mem with stalls := s.mem.stalls.filter fun x => !x.at' ctx (s.pageOf ctx va) id } }

/-- The number under which a write from outside waits at its home. -/
def Due.waiter : Due → Option Nat
  | .cxlStore _ _ _ id => some id
  | .visit _ id => some id
  | _ => none

/-- Who may stall has not ended: an access, an engine's operation, a kernel or team with an add to make, an exit record, a group with a
QPOST, an iteration with a notification, a host's or a peer's write. -/
def State.unfinished (s : State) (id : Nat) : Bool :=
  (Table.get s.run.accs id).isSome || (Table.get s.eng.transfers id).isSome || (Table.get s.eng.streams id).isSome ||
  (Table.get s.ker.kernels id).isSome || (Table.get s.run.teams id).isSome || (Table.get s.run.groups id).isSome ||
  (Table.get s.clv.iters id).isSome || (s.ker.records.any fun r => r.id == id) ||
  s.sch.held.any fun d => d.waiter == some id

/-- No write that stalled at the page earlier is left (R210). -/
def State.stallTurn (s : State) (ctx : Nat) (va : DWord) (id : Nat) : Bool :=
  let page := s.pageOf ctx va
  match (s.mem.stalls.filter fun x => x.ctx == ctx && x.page == page && s.unfinished x.id).head? with
  | some x => x.id == id || !s.mem.stalls.any (·.at' ctx page id)
  | none => true

/-- A write that must wait takes its place where the page is held (R210). -/
def State.stallHeld (s : State) (ctx : Nat) (va : DWord) (id : Nat) : State := if s.heldNow ctx va then s.stall ctx va id else s

/-- A write that is no lane's access and no engine's has waited HOLDLIM at a held page (R362). -/
def State.overdue (s : State) (ctx : Nat) (va : DWord) (id : Nat) : Bool :=
  s.heldOn ctx va && s.mem.stalls.any fun x => x.at' ctx (s.pageOf ctx va) id && decide (s.holdLimNs ctx ≤ x.waited)

/-- Give an access its translation: it marks L1 lines STALE, starts a pull, meets its faults, or ends against a peer that
cannot be reached (R186, R198, R341, R360). -/
def State.assign (s : State) (id : Nat) (a : Access) (t : Trans) : State :=
  let b := { a with tr := some t }
  let b1 : Access := match s.accessFault a t with
    | some c => { b with fault := some c }
    | none =>
      if t.cls = 2 ∧ s.lnk.route t.num = .none then
        (if a.kind = .store then { b with st := .refused } else { b with fault := some .remoteTimeout })
      else b
  let s1 := if a.kind.writes ∧ b1.fault = none then s.markStale b else s
  let s2 := if t.cls = 6 ∧ a.kind.loads ∧ b1.fault = none then s1.startPull a.ctx a.va else s1
  { s2 with run := { s2.run with accs := Table.set s2.run.accs id b1 } }

/-- Begin a walk, unless one for the page is under way or the die's walker holds 32 (R211). -/
def State.startWalk (s : State) (core ctx : Nat) (va : DWord) (write : Bool) : State :=
  let die := dieOf core
  if s.walkerBusy die ctx va then s
  else
    let (id, t) := s.fresh
    { t with mem := { t.mem with walks := t.mem.walks ++ [(id, ⟨die, core, ctx, va, write, none⟩)] } }

/-- Look an access up: a TLB entry serves it, unless it has been evicted (the hardware's choice); else a walk begins. -/
def State.lookup (s : State) (id : Nat) : State :=
  match Table.get s.run.accs id with
  | none => s
  | some a =>
    if a.sp || a.tr.isSome || a.fault.isSome then s
    else match s.tlbHit a.core a.ctx a.va a.kind.writes with
      | none => s.startWalk a.core a.ctx a.va a.kind.writes
      | some t =>
        let (n, s1) := s.draw
        if n % 2 = 0 then s1.assign id a t else s1.startWalk a.core a.ctx a.va a.kind.writes

/-! ### What keeps an access in its state (R177, R178, R181, R194, R321, R340, R362, R399) -/

/-- No access of the same lane, or of the same instruction, that touches the same bytes stands before it; `through` says that
it acts at the home, so that no store of its core to those bytes may stand in the buffer either (R178, R181, R325, R329). -/
def State.first (s : State) (id : Nat) (a : Access) (through : Bool) : Bool :=
  s.run.accs.all fun p => !(a.meets p.2 &&
    ((decide (p.1 < id) && (a.sameLane p.2 || (a.inst == p.2.inst && a.kind.writes)) && p.2.st == .queued) ||
     (through && p.2.core == a.core && p.2.st == .combined)))

/-- No earlier acquiring access of the lane is still in QUEUED (R194). -/
def State.afterAcquires (s : State) (id : Nat) (a : Access) : Bool :=
  s.run.accs.all fun p => !(decide (p.1 < id) && a.sameLane p.2 && p.2.acquires && p.2.st == .queued)

/-- Its own release has been reached, and the stores that a retired group had observed are performed (R143, R194, R326). -/
def State.afterRelease (s : State) (a : Access) : Bool :=
  !a.releases || (s.reached a.gid a.sc a.inst && (!Scope.beyondCore a.sc || a.awaits.all s.landed))

/-- The home of an access can be reached: the peer's route is open, the host is attached, and no Steppe link on the way retrains
(R333, R340). -/
def State.homeNear (s : State) (a : Access) (t : Trans) : Bool :=
  s.linksUp (dieOf a.core) t a.va &&
  (if t.cls = 2 then s.lnk.sends t a.va else if t.cls = 1 then (Table.get s.sys.hosts t.num).isSome else true)

/-- The home can be reached, and takes a write but for a hold: the snapshot has copied the granule (R179, R399). -/
def State.homeReady (s : State) (a : Access) (t : Trans) : Bool :=
  s.homeNear a t && (t.cls == 1 || t.cls == 2 || !s.marked (t.key a.va))

/-- The hold, if its page was held, has cleared, and earlier writes that stalled there have gone first (R210, R362). -/
def State.holdOpen (s : State) (id : Nat) (a : Access) (t : Trans) : Bool :=
  t.cls != 5 || (!s.heldNow a.ctx a.va && s.stallTurn a.ctx a.va id)

/-- The home takes a write. -/
def State.homeOpen (s : State) (id : Nat) (a : Access) (t : Trans) : Bool := s.holdOpen id a t && s.homeReady a t

/-- The access reads at the coherence point and not in the core's buffer: MONARM, LDMON, TLD (R172, R256, R319). -/
def AccKind.atHome (k : AccKind) : Bool := match k with | .arm _ _ | .line _ _ => true | _ => false

/-- A load's value can be fixed. -/
def State.bindable (s : State) (id : Nat) (a : Access) : Bool :=
  a.st == .queued && a.kind.loads && a.fault.isNone && s.first id a a.kind.atHome && s.afterAcquires id a && s.afterRelease a &&
  (a.sp || match a.tr with
    | none => false
    | some t =>
      s.homeNear a t && (t.cls != 6 || match s.touch a.ctx a.va with | .ok b => b | .error _ => false))

/-- The loads of one instruction that read the same bytes bind together (R181). -/
def State.mates (s : State) (id : Nat) (a : Access) : List (Nat × Access) :=
  s.run.accs.filter fun p => p.1 == id || (p.2.inst == a.inst && p.2.gid == a.gid && p.2.kind.loads && p.2.st == .queued &&
    p.2.fault.isNone && a.meets p.2)

/-- A store can enter the buffer, but for a hold. -/
def State.combineReady (s : State) (id : Nat) (a : Access) : Bool :=
  a.st == .queued && a.kind == .store && !a.sp && a.fault.isNone && s.first id a false && s.afterAcquires id a &&
  s.afterRelease a && (match a.tr with | none => false | some t => t.cls != 5 || s.homeReady a t)

/-- A store can enter the buffer. -/
def State.combinable (s : State) (id : Nat) (a : Access) : Bool :=
  s.combineReady id a && (match a.tr with | none => false | some t => s.holdOpen id a t)

/-- The stores of one instruction that make up a view block, which are performed together (R198); else the access alone. -/
def State.blockMates (s : State) (id : Nat) (a : Access) : List (Nat × Access) :=
  let inView : Bool := match a.tr with | some t => t.cls == 3 && a.kind == .store && !a.sp | none => false
  if inView then s.run.accs.filter fun p => p.1 == id || (p.2.inst == a.inst && p.2.gid == a.gid && p.2.kind == .store &&
    p.2.va.toNat / 32 == a.va.toNat / 32)
  else [(id, a)]

/-- No other access stands before id in its core's buffer for the same bytes, its block's own aside. -/
def State.firstInBuffer (s : State) (id : Nat) (a : Access) : Bool :=
  let ms := s.blockMates id a
  ((s.buffer a.core).takeWhile fun p => p.1 != id).all fun p => !(a.meets p.2) || ms.any (·.1 == p.1)

/-- A write can be performed, but for a hold: a combined store, or an atomic, RED or scratchpad write from QUEUED. -/
def State.performReady (s : State) (id : Nat) (a : Access) : Bool :=
  a.fault.isNone && a.kind.writes &&
  (if a.kind = .store ∧ !a.sp then
    a.st == .combined && s.firstInBuffer id a && (match a.tr with | none => false | some t => s.homeReady a t)
   else
    a.st == .queued && s.first id a true && s.afterAcquires id a && s.afterRelease a &&
    (a.sp || match a.tr with | none => false | some t => s.homeReady a t))

/-- A write can be performed. -/
def State.performable (s : State) (id : Nat) (a : Access) : Bool :=
  s.performReady id a && (a.sp || match a.tr with | none => false | some t => s.holdOpen id a t)

/-- A write that only a hold keeps back stalls at its page (R210, R362). -/
def State.stallAccess (s : State) (id : Nat) (a : Access) (ready : Bool) : State :=
  if ready && !a.sp then (match a.tr with | some t => if s.holdOpen id a t then s else s.stall a.ctx a.va id | none => s) else s

/-- An access of a fabric page spends its frame's allowance as it goes (R338). -/
def State.spendFor (s : State) (a : Access) : State :=
  match a.tr with
  | some t => if !a.sp && t.cls == 2 then { s with lnk := s.lnk.spend t a.va } else s
  | none => s

/-- A request that goes to a peer goes by the port that carries it now (R342). -/
def Access.sent (a : Access) (l : Links) : Access :=
  match a.tr with
  | some t => if !a.sp && t.cls == 2 then { a with via := l.portFor t.num a.va } else a
  | none => a

/-! ### Opening accesses -/

/-- The number a lane has retired once this instruction has. -/
def Lane.skidBase (l : Lane) : Nat := l.retired.toNat + 1

/-- Record new accesses, numbered in order, and look each up (R177). -/
def State.addAccesses (s : State) (as : List Access) : State :=
  let n0 := s.sch.nextId
  let s1 := { s with
    run := { s.run with accs := s.run.accs ++ as.mapIdx fun k a => (n0 + k, a) }
    sch := { s.sch with nextId := n0 + as.length } }
  let s2 := (as.filter fun a => a.kind.writes && !a.sp).foldl State.markStale s1
  (List.range as.length).foldl (fun t k => t.lookup (n0 + k)) s2

/-- A lane opens a window of n instructions on a result (R69, R70). -/
def Lane.await (l : Lane) (id n : Nat) : Lane := { l with wins := (id, n) :: l.wins }

/-- An access of lane k of the bundle in issue, as it starts: QUEUED, untranslated. -/
def newAccess (s : State) (i : Issue) (g : Group) (k : Nat) (kind : AccKind) (va : DWord) (size : Nat) : Access where
  gid := i.gid
  lane := k
  lanes := laneMask [k]
  bundle := i.lanes
  parts := laneMask [k]
  wid0 := s.wid g 0
  core := g.core
  ctx := s.ctxOf g
  kernel := match s.teamOf g with | some t => t.kernel | none => 0
  team := g.team
  inst := s.sch.nextId
  kind := kind
  sp := false
  va := va
  size := size
  data := 0
  bytes := []
  whole := false
  via := none
  cmp := 0
  dst := .absent
  hint := .dflt
  ord := .plain
  sc := .team
  fenced := ((i.source g).lane k).fenced
  awaits := []
  st := .queued
  tr := none
  skid := (g.lane k).skidBase
  waited := 0
  fault := none

/-! ### What an engine, or a core that watches a counter, meets at an address (R209, R230, R238, R340, R360, R362, R399) -/

inductive Meet where
  | ok (t : Trans)
  | wait
  | fault (c : Code)
  deriving DecidableEq, Repr

/-- A read of n bytes at the coherence point at an address of a context, from a die (8: Steppe). -/
def State.engineRead (s : State) (ctx : Nat) (va : DWord) (n : Nat := 1) (die : Nat := 8) : Meet :=
  match s.translate ctx .load va n with
  | .error c => .fault c
  | .ok t =>
    if s.missWaits none die ctx va then .wait
    else if t.cls = 6 then (match s.touch ctx va with | .error c => .fault c | .ok b => if b then .ok t else .wait)
    else if t.cls = 2 then
      (if s.lnk.route t.num = .none then .fault .remoteTimeout else if s.lnk.sends t va && s.linksUp die t va then .ok t else .wait)
    else if !s.linksUp die t va then .wait
    else if t.cls = 1 then (if (Table.get s.sys.hosts t.num).isSome then .ok t else .wait)
    else .ok t

/-- A write of n bytes at the coherence point at an address of a context: a held page and a granule that waits for its copy make
it wait; part of a view block faults (R198, R209). A write that waits by number `id` goes in the order it stalled (R210). -/
def State.engineWrite (s : State) (ctx : Nat) (va : DWord) (n : Nat := 1) (id : Option Nat := none) (die : Nat := 8) : Meet :=
  match s.translate ctx .store va n with
  | .error c => .fault c
  | .ok t =>
    if s.missWaits none die ctx va then .wait
    else if t.cls = 5 then .wait
    else if t.cls = 3 ∧ (va.toNat % 32 ≠ 0 ∨ n % 32 ≠ 0) then .fault .formatView
    else if t.cls = 2 then
      (if s.lnk.route t.num = .none then .fault .peerUnreachable else if s.lnk.sends t va && s.linksUp die t va then .ok t else .wait)
    else if !s.linksUp die t va then .wait
    else if t.cls = 1 then (if (Table.get s.sys.hosts t.num).isSome then .ok t else .wait)
    else if s.marked (t.key va) then .wait
    else if !(id.map (s.stallTurn ctx va)).getD true then .wait
    else .ok t

/-- Keep at most n elements that a test accepts, from the front. -/
def keepFirst {α : Type} (p : α → Bool) : Nat → List α → List α
  | _, [] => []
  | n, x :: r => if p x then (match n with | 0 => keepFirst p 0 r | k + 1 => x :: keepFirst p k r) else x :: keepFirst p n r

/-- Put a translation into the second-level TLB of a die (8 for the engines of Steppe), or the first-level TLB of a core, which
hold 16,384 and 384 entries; the oldest goes (R8, R11, R211). -/
def State.fillTlb (s : State) (core : Option Nat) (die ctx : Nat) (va : DWord) (t : Trans) : State :=
  let e : TlbEntry := ⟨core, die, ctx, t.page va, t⟩
  let rest := s.mem.tlb.filter fun x => !(x.core == core && x.die == die && x.ctx == ctx && x.page == e.page && x.tr.bits == t.bits)
  let kept := keepFirst (fun x => x.core == core && x.die == die) (if core.isSome then Config.tlb1 else Config.tlb2) (e :: rest)
  { s with mem := { s.mem with tlb := kept } }

/-- A fetch or an engine goes through a translation: ACC, and DIRTY at a write, are set in its entry, and a TLB keeps it; a frame that goes
to a peer spends its allowance (R207, R211, R338). -/
def State.through (s : State) (die ctx : Nat) (va : DWord) (t : Trans) (write : Bool) : State :=
  let (s1, t1) := s.setAccessed t write
  let s2 := s1.fillTlb none die ctx va t1
  if t.cls = 2 then { s2 with lnk := s2.lnk.spend t va } else s2

/-- Read or write n bytes that lie in one page, by an engine of a context. -/
def State.readAt (s : State) (ctx : Nat) (t : Trans) (va : DWord) (n : Nat) : State × List Byte :=
  (s.through 8 ctx va t false, s.load (t.key va) n)

def State.writeAt (s : State) (ctx : Nat) (t : Trans) (va : DWord) (b : List Byte) : State := (s.through 8 ctx va t true).store (t.key va) b

/-- The read must wait: a pull, a closed route or an absent host. -/
def State.loadWaits (s : State) (ctx : Nat) (va : DWord) : Bool := s.engineRead ctx va == .wait

/-- The write must wait: a hold, a granule to copy, a closed route or an absent host. -/
def State.storeWaits (s : State) (ctx : Nat) (va : DWord) : Bool := s.engineWrite ctx va == .wait

/-- The same of a write that goes in its turn among those that stalled at the page (R210). -/
def State.writeWaits (s : State) (ctx : Nat) (va : DWord) (id : Nat) : Bool := s.engineWrite ctx va 1 (some id) == .wait

/-- Read n bytes of a context's memory, which lie in one page, at the coherence point (engines, dispatcher, Sumac, Clove). Who
can wait asks `loadWaits` first. -/
def State.vload (s : State) (ctx : Nat) (va : DWord) (n : Nat) : Except Code (List Byte) :=
  match s.translate ctx .load va n with
  | .error c => .error c
  | .ok t => match s.engineRead ctx va n with
    | .fault c => .error c
    | _ => .ok (s.load (t.key va) n)

/-- Write bytes of a context's memory, which lie in one page, at the coherence point. Who can wait asks `storeWaits` first. -/
def State.vstore (s : State) (ctx : Nat) (va : DWord) (b : List Byte) : Except Code State :=
  match s.translate ctx .store va b.length with
  | .error c => .error c
  | .ok t => match s.engineWrite ctx va b.length with
    | .fault c => .error c
    | _ => .ok (s.writeAt ctx t va b)

/-- Write bytes that may cross into another page: each page's part on its own. -/
def State.vstoreAcross (s : State) (ctx : Nat) (va : DWord) (b : List Byte) : Except Code State :=
  let n := 65536 - va.toNat % 65536
  if b.length ≤ n then s.vstore ctx va b
  else match s.vstore ctx va (b.take n) with
    | .error c => .error c
    | .ok t => t.vstore ctx (va + BitVec.ofNat 64 n) (b.drop n)

/-- The completer of a host behind PCIe answers an AtomicOp with Unsupported Request, as it may, and the page's mapping permits no
CXL path (R202; log 78). Where it does, the operation is performed once through CXL. -/
def State.hostDeclines (s : State) (t : Trans) : State × Bool :=
  if t.cls = 1 ∧ !(t.cxla && Table.get s.sys.hosts t.num == some true) then
    let (n, s1) := s.draw
    (s1, n % 2 == 1)
  else (s, false)

/-- Add to a 64-bit counter of a context as a RED (R236, R276, R291): the state, and the fault that refuses it. A RED to a peer that has no
route ends as its reply timer does (R341); a host may decline (R202). -/
def State.vadd (s : State) (ctx : Nat) (va : DWord) (x : DWord) : State × Option Code :=
  match s.translate ctx .atomic va with
  | .error c => (s, some c)
  | .ok t => match s.engineWrite ctx va 32, s.hostDeclines t with
    | .fault c, _ => (s, some (if c = .peerUnreachable then .remoteTimeout else c))
    | _, (s1, true) => (s1, some .atomicUnsupported)
    | _, (s1, false) => (s1.writeAt ctx t va (leBytes 8 ((leNat (s1.load (t.key va) 8) + x.toNat) % 2 ^ 64)), none)

/-- A read went through a translation, which sets ACC (R211). -/
def State.touched (s : State) (ctx : Nat) (va : DWord) : State :=
  match s.translate ctx .load va with | .ok t => s.through 8 ctx va t false | .error _ => s

end Sys2Proof.Machine
end

