-- ==== Sys2Proof/Machine/Access.lean ====
section
/-! DEFINITION. Machine/Access.lean: the memory instructions 0x80 to 0x89, with MONARM, LDMON and READY, which issue accesses
too (09_access.md; 08_barrier.md R172; 15_kernel.md R280). -/

namespace Sys2Proof.Machine

/-! ### What issuing needs (R180, R183, R204, R414) -/

/-- A bundle that must wait for its group's earlier accesses at a scope, then meets a pending PEER_UNREACHABLE, or goes on. -/
inductive Gate where
  | wait
  | unreachable (addr : DWord)
  | go
  deriving DecidableEq, Repr

/-- The wait of a FENCE, or of a release at domain or system scope (R203, R204). -/
def State.gate (s : State) (i : Issue) (g : Group) (sc : Scope) (tells : Bool) : Gate :=
  if !s.reached i.gid sc (s.earlier i g) then .wait
  else match g.unreachable, tells with
    | some a, true => .unreachable a
    | _, _ => .go

/-- PEER_UNREACHABLE, precisely; the fault clears the pending state (R204). -/
def State.tellUnreachable (s : State) (i : Issue) (g : Group) (h : Hd) (a : DWord) : State :=
  (s.trapGuarded i g h .peerUnreachable a).updGroup i.gid fun x => { x with unreachable := none }

/-- Domain and system scope (R194, R204). -/
def Scope.outer (sc : Scope) : Bool := sc == .dom || sc == .sys

/-- The precise faults of accesses: ALIGNMENT, then SCRATCH_BOUNDS, each with the address in %faddr (R183). -/
def State.accessTraps (s : State) (g : Group) (as : List Access) : List (Nat × Code × DWord) :=
  let bad := as.filter fun a => a.va.toNat % a.size != 0
  let out := as.filter fun a => a.sp && decide (s.allot g < a.va.toNat + a.size)
  let cast (c : Code) (a : Access) : List (Nat × Code × DWord) := (maskLanes a.lanes).map fun k => (k, c, a.va)
  if !bad.isEmpty then bad.flatMap (cast .alignment) else out.flatMap (cast .scratchBounds)

/-- Issue a memory instruction's accesses: the precise checks, a watchpoint, the wait of a wide release, room in FAR; then the
accesses start, the lanes that await a value open their windows, and every active lane moves on. `window` is the LA of an
instruction whose accesses return a value. -/
def State.issueAccesses (s : State) (i : Issue) (g : Group) (h : Hd) (loads : Bool) (window : Option Nat)
    (as : List Access) : State :=
  let fs := s.accessTraps g as
  let kinds := (as.any fun a => a.kind.loads || a.kind.atomic, as.any fun a => a.kind.writes)
  let watch := if s.passes i.gid i.pc then none
    else s.watchHit (s.ctxOf g) kinds.1 kinds.2 ((as.filter fun a => !a.sp).map fun a => (a.va, a.size))
  let wide := as.any fun a => a.releases && Scope.outer a.sc
  if !fs.isEmpty then s.takeTrap i fs
  else match watch with
  | some a => (s.debugPark i.gid i.lanes 2 0 a).setIssue fun j => { j with trapped := true }
  | none =>
    match (if wide then s.gate i g (if as.any fun a => a.sc == Scope.sys then Scope.sys else Scope.dom) true else .go) with
    | .wait => s.waitAtIssue i 2
    | .unreachable a => s.tellUnreachable i g h a
    | .go =>
      if !s.room i.gid as.length then s.waitAtIssue i (if loads then 1 else 2)
      else
        let n0 := s.sch.nextId
        let s1 := s.addAccesses as
        let opens (k : Nat) : List Nat := ((as.mapIdx fun n a => (n0 + n, a)).filter fun p => hasBit p.2.lanes k).map (·.1)
        match window with
        | none => s1.lanes h fun _ _ _ => {}
        | some la => s1.lanes h fun _ k _ => { upd := fun l => (opens k).foldl (fun l id => l.await id la) l }

/-- One access per guarded lane, or one for the bundle in the uniform forms (R177, R197, R201). -/
def Issue.perLane (i : Issue) (g : Group) (h : Hd) (uniform : Bool) (f : Nat → Lane → Access) : List Access :=
  let ks := i.guarded g h
  let src := i.source g
  if uniform then (ks.take 1).map fun k => { f k (src.lane k) with lanes := laneMask ks, parts := laneMask ks }
  else ks.map fun k => { f k (src.lane k) with parts := laneMask ks }

/-! ### Loads and stores (R195 to R199) -/

/-- Access size in bytes. -/
def MTy.size : MTy → Nat
  | .n8 | .i8 => 1
  | .n16 | .i16 => 2
  | .b32 => 4
  | .b64 => 8

def MTy.log2 : MTy → Nat
  | .n8 | .i8 => 0
  | .n16 | .i16 => 1
  | .b32 => 2
  | .b64 => 3

/-- A loaded value in its register: zero- or sign-extended (R100, R196). -/
def MTy.extend (t : MTy) (b : List Byte) : DWord :=
  let x := leNat b
  match t with
  | .i8 => (BitVec.ofNat 8 x).signExtend 64
  | .i16 => (BitVec.ofNat 16 x).signExtend 64
  | _ => BitVec.ofNat 64 x

def execLd (h : Hd) (t : MTy) (scaled : Bool) (hint : Hint) (ord : Order) (sc : Scope) (d : Opnd) (m : Addr) (s : State) :
    Out :=
  .next (s.once h fun s i g _ =>
    s.issueAccesses i g h true (some h.la.toNat) (i.perLane g h d.isS fun k l =>
      { newAccess s i g k (.load t) (effAddr (i.source g) l m (if scaled then MTy.log2 t else 0)) (MTy.size t) with
        dst := d, hint := hint, ord := ord, sc := sc }))

/-- Lane L reads element L of a run at a uniform address; ALIGNMENT looks at the base (R183, R199). -/
def execLdw (h : Hd) (t : MTy) (scaled : Bool) (hint : Hint) (ord : Order) (sc : Scope) (d : Opnd) (m : Addr) (s : State) :
    Out :=
  .next (s.once h fun s i g k0 =>
    let a0 := effAddr (i.source g) ((i.source g).lane k0) m (if scaled then MTy.log2 t else 0)
    if a0.toNat % MTy.size t ≠ 0 then s.trapGuarded i g h .alignment a0
    else s.issueAccesses i g h true (some h.la.toNat) (i.perLane g h false fun k _ =>
      { newAccess s i g k (.load t) (a0 + BitVec.ofNat 64 (k * MTy.size t)) (MTy.size t) with
        dst := d, hint := hint, ord := ord, sc := sc }))

/-- The bytes of a store operand (R196). -/
def storeBytes (g : Group) (l : Lane) (n : Nat) (d : Opnd) : List Byte := leBytes n ((readOp g l (n == 8) d).toNat % 2 ^ (8 * n))

/-- The bytes that an instruction's stores put into a 32-byte block, the highest lane last (R181, R198). -/
def blockBytes (as : List Access) (blk : Nat) : List (Option Byte) :=
  as.foldl (fun b a =>
    if a.va.toNat / 32 = blk then b.mapIdx fun i y => if a.va.toNat % 32 ≤ i ∧ i < a.va.toNat % 32 + a.size then
      some (a.bytes.getD (i - a.va.toNat % 32) 0) else y else b) (List.replicate 32 none)

/-- Mark stores whose block the instruction writes whole (R198). -/
def withBlocks (as : List Access) : List Access := as.map fun a => { a with whole := (blockBytes as (a.va.toNat / 32)).all Option.isSome }

def execSt (h : Hd) (t : MTy) (scaled : Bool) (hint : Hint) (ord : Order) (sc : Scope) (d : Opnd) (m : Addr) (s : State) :
    Out :=
  .next (s.once h fun s i g _ =>
    let as := i.perLane g h (d.uniform && m.uniform) fun k l =>
      { newAccess s i g k .store (effAddr (i.source g) l m (if scaled then MTy.log2 t else 0)) (MTy.size t) with
        dst := if d.uniform && m.uniform then .imm 0 else .absent
        bytes := storeBytes (i.source g) l (MTy.size t) d, hint := hint, ord := ord, sc := sc }
    s.issueAccesses i g h false none (withBlocks as))

def execLds (h : Hd) (t : MTy) (scaled : Bool) (ord : Order) (sc : Scope) (d : Opnd) (m : Addr) (s : State) : Out :=
  .next (s.once h fun s i g _ =>
    s.issueAccesses i g h true (some h.la.toNat) (i.perLane g h d.isS fun k l =>
      { newAccess s i g k (.load t) (BitVec.ofNat 64 (spAddr (i.source g) l m (if scaled then MTy.log2 t else 0))) (MTy.size t) with
        sp := true, dst := d, ord := ord, sc := sc }))

def execSts (h : Hd) (t : MTy) (scaled : Bool) (ord : Order) (sc : Scope) (d : Opnd) (m : Addr) (s : State) : Out :=
  .next (s.once h fun s i g _ =>
    s.issueAccesses i g h false none (i.perLane g h (d.uniform && m.base.uniform) fun k l =>
      { newAccess s i g k .store (BitVec.ofNat 64 (spAddr (i.source g) l m (if scaled then MTy.log2 t else 0))) (MTy.size t) with
        sp := true, bytes := storeBytes (i.source g) l (MTy.size t) d, ord := ord, sc := sc }))

/-! ### Atomics (R200, R201) -/

def ATy.size : ATy → Nat
  | .n64 | .i64 | .b64 => 8
  | _ => 4

def ATy.ity : ATy → ITy
  | .n32 => .n32
  | .i32 => .i32
  | .n64 => .n64
  | .i64 => .i64
  | .f32 => .b32
  | .b32 => .b32
  | .b64 => .b64

/-- An atomic operand: an immediate of .f32 stands for its integer's value (R61). -/
def atomOperand (g : Group) (l : Lane) (t : ATy) (x : Opnd) : DWord :=
  if t = .f32 then BitVec.ofNat 64 (elemBits g l .f32 0 x)
  else ITy.fit (ATy.ity t) false (srcInt g l (ATy.ity t) x)

/-- New(m, x): what an operation leaves in memory (R200). -/
def newValue (op : AOp) (t : ATy) (m x cmp : Nat) : Nat :=
  let ty := ATy.ity t
  let w := 2 ^ (8 * ATy.size t)
  let a := ITy.read ty (BitVec.ofNat 64 m)
  let b := ITy.read ty (BitVec.ofNat 64 x)
  match op with
  | .add => (m + x) % w
  | .min => if a ≤ b then m else x % w
  | .max => if a ≤ b then x % w else m
  | .and => m &&& (x % w)
  | .or => m ||| (x % w)
  | .xor => m ^^^ (x % w)
  | .exch => x % w
  | .cas => if m = cmp % w then x % w else m
  | .fadd => (gOp32 .add .rne m (x % w)).1
  | .fmin => (gOp32 .min .rne m (x % w)).1
  | .fmax => (gOp32 .max .rne m (x % w)).1
  | .inc => if x % w ≤ m then 0 else m + 1

/-- The address operand of an atomic: .cas has no index, its B is cmp (R201). -/
def atomAddr (op : AOp) (m : Addr) : Addr := if op = .cas then { m with idx := .absent } else m

/-- The accesses of ATOM, ATOMS or RED. -/
def atomAccesses (s : State) (i : Issue) (g : Group) (h : Hd) (red sp : Bool) (op : AOp) (t : ATy) (ord : Order) (sc : Scope)
    (d : Opnd) (m : Addr) : List Access :=
  let src := i.source g
  let at' := atomAddr op m
  i.perLane g h (d.isS && at'.uniform) fun k l =>
    { newAccess s i g k (if red then .red op t else .atom op t)
        (if sp then BitVec.ofNat 64 (spAddr src l at' 0) else effAddr src l at' 0) (ATy.size t) with
      sp := sp, data := atomOperand src l t d, cmp := if op = .cas then atomOperand src l t m.idx else 0
      dst := if red then .absent else d, ord := ord, sc := sc }

def execAtom (h : Hd) (op : AOp) (t : ATy) (ord : Order) (sc : Scope) (d : Opnd) (m : Addr) (s : State) : Out :=
  .next (s.once h fun s i g _ =>
    s.issueAccesses i g h false (some h.la.toNat) (atomAccesses s i g h false false op t ord sc d m))

def execAtoms (h : Hd) (op : AOp) (t : ATy) (ord : Order) (sc : Scope) (d : Opnd) (m : Addr) (s : State) : Out :=
  .next (s.once h fun s i g _ =>
    s.issueAccesses i g h false (some h.la.toNat) (atomAccesses s i g h false true op t ord sc d m))

def execRed (h : Hd) (op : AOp) (t : ATy) (ord : Order) (sc : Scope) (d : Opnd) (m : Addr) (s : State) : Out :=
  .next (s.once h fun s i g _ =>
    s.issueAccesses i g h false none (atomAccesses s i g h true false op t ord sc d m))

/-! ### FENCE and PREF (R203 to R205) -/

/-- The wider of a scope that there may be and another (R322). -/
def Scope.widest (x : Option Scope) (y : Scope) : Scope :=
  let rank (z : Scope) : Nat := match z with | .team => 0 | .core => 1 | .die => 2 | .dev => 3 | .dom => 4 | .sys => 5
  match x with | some x => if rank x ≤ rank y then y else x | none => y

/-- The releases whose sequences the guarded lanes' loads have read. -/
def Issue.heard (i : Issue) (g : Group) (h : Hd) : List Rel := (i.guarded g h).flatMap fun k => (g.lane k).heard

/-- FENCE holds its bundle until the group's earlier accesses reach the point of the scope; at domain and system scope it then
faults for a dropped store; an acquire follows; a releasing FENCE makes the lane's later stores stand in a release sequence (R203,
R204, R323). -/
def execFence (h : Hd) (ord : Order) (sc : Scope) (s : State) : Out :=
  .next (s.once h fun s i g _ =>
    match s.gate i g sc (Scope.outer sc) with
    | .wait => s.waitAtIssue i 2
    | .unreachable a => s.tellUnreachable i g h a
    | .go =>
      let s1 := if ord == .rel then s else s.acquireRels (.lane g.core g.team i.gid) g.core sc (i.heard g h)
      (if ord == .acq then s1 else s1.settleOlds g.team i.gid sc s.sch.nextId).lanes h fun _ _ _ =>
      { upd := fun l => if ord == .acq then l else { l with fenced := some (Scope.widest l.fenced sc) } })

/-- The line that a PREF names may be filled: it would not fault, its home can be reached now, and its class is none of held,
stub and lost; a remote line only with .ro (R205). -/
def State.prefetch (s : State) (g : Group) (kernel : Nat) (lv : PLevel) (hint : Hint) (va : DWord) : State :=
  match s.engineRead (s.ctxOf g) va with
  | .fault _ | .wait => s
  | .ok t =>
    if t.cls = 5 ∨ t.cls = 6 ∨ (t.remote ∧ hint ≠ .ro) then s
    else
      let line := t.key va / 64
      let s0 := s.through (dieOf g.core) (s.ctxOf g) va t false
      let data := s0.load (64 * line) 64
      let s1 := if hint = .ro ∧ t.remote ∧ !(s0.mem.roCopies.any fun c => c.line == line) then
          { s0 with mem := { s0.mem with roCopies := ⟨line, data, kernel⟩ :: s0.mem.roCopies } }
        else s0
      if lv = .l1 ∧ hint ≠ .nt ∧ (s1.l1Line g.core line false).isNone then
        s1.fillL1 g.core kernel line false (hint == .ro) (hint == .stream) data
      else s1

def execPref (h : Hd) (lv : PLevel) (scaled : Bool) (hint : Hint) (m : Addr) (s : State) : Out :=
  match s.current with
  | none => .next s
  | some (i, g) =>
    let kernel := match s.teamOf g with | some t => t.kernel | none => 0
    let s1 := (i.guarded g h).foldl (fun t k =>
      t.prefetch g kernel lv hint (effAddr (i.source g) ((i.source g).lane k) m (if scaled then 3 else 0))) s
    .next (s1.lanes h fun _ _ _ => {})

/-! ### MONARM, LDMON and READY (R172, R280) -/

/-- MONARM reads and arms; the lane's next instruction waits until it has, as for a scoreboard result. The expected value
stands in `cmp`. -/
def execMonarm (h : Hd) (w64 : Bool) (ord : Order) (sc : Scope) (d : Opnd) (m : Addr) (s : State) : Out :=
  .next (s.once h fun s i g _ =>
    s.issueAccesses i g h true (some 0) (i.perLane g h false fun k l =>
      { newAccess s i g k (.arm w64 false) (effAddr (i.source g) l m 0) (if w64 then 8 else 4) with
        cmp := if w64 then readOp (i.source g) l true d else BitVec.ofNat 64 (srcN32 (i.source g) l d)
        hint := .fresh, ord := ord, sc := sc }))

def execLdmon (h : Hd) (w64 : Bool) (ord : Order) (sc : Scope) (d : Opnd) (m : Addr) (s : State) : Out :=
  .next (s.once h fun s i g _ =>
    s.issueAccesses i g h true (some h.la.toNat) (i.perLane g h false fun k l =>
      { newAccess s i g k (.arm w64 true) (effAddr (i.source g) l m 0) (if w64 then 8 else 4) with
        dst := d, hint := .fresh, ord := ord, sc := sc }))

/-- READY is ST.b64.rel of the value to Mem64(base + 8 × idx), once for the bundle; a misaligned base faults ALIGNMENT, at the
effective address as that store would (R183, R280). -/
def execReady (h : Hd) (sc : Scope) (a b c : Opnd) (s : State) : Out :=
  .next (s.once h fun s i g k =>
    let src := i.source g
    let base := readOp src (src.lane k) true a
    let va := base + BitVec.ofNat 64 (8 * srcN32 src (src.lane k) b)
    let v := if c.isAbsent then 1 else readOp src (src.lane k) true c
    if base.toNat % 8 ≠ 0 then s.trapGuarded i g h .alignment va
    else s.issueAccesses i g h false none (withBlocks (i.perLane g h true fun k _ =>
      { newAccess s i g k .store va 8 with dst := .imm 0, bytes := leBytes 8 v.toNat, ord := .rel, sc := sc })))

end Sys2Proof.Machine
end

