-- ==== Sys2Proof/Machine/Barrier.lean ====
section
/-! DEFINITION. Machine/Barrier.lean: waiting lanes, imprecise parks, team barriers, monitors and counter waits
(08_barrier.md, R162 to R176; R98). -/

namespace Sys2Proof.Machine

/-! ### Lanes that wait (R93) -/

/-- What an instruction that may wait does in one lane: it has its effect now, or the lane waits. -/
inductive Turn where
  | now (e : Eff)
  | wait (w : Wait)

/-- Run a waiting instruction whose lanes wait one by one: lanes whose guard is false move on, the others take their turn
(R93, R167). -/
def State.turns (s : State) (i : Issue) (g : Group) (ts : List (Nat × Turn)) : State :=
  let es := ts.filterMap fun p => match p.2 with | .now e => some (p.1, e) | .wait _ => none
  let ws := ts.filterMap fun p => match p.2 with | .wait w => some (p.1, w) | .now _ => none
  let moving := i.lanes &&& ~~~laneMask (ws.map (·.1))
  let done := ({ i with lanes := moving }).finish g es
  let put (k : Nat) (l : Lane) : Lane := match ws.find? fun p => p.1 == k with | some p => { l with st := .stalled p.2 } | none => l
  s.setGroup i.gid { done with lanes := done.lanes.mapIdx put }

/-- A group that stands on its core: nothing ends a wait of a saved group or one in transit (R123, R176). -/
def State.standing (s : State) (gid : Nat) : Option Group :=
  match s.group gid with
  | some g => if g.st = .resident ∨ g.st = .parked then some g else none
  | none => none

/-- The lane of a group that waits, with what it waits for. -/
def State.waiting (s : State) (gid lane : Nat) : Option (Group × Lane × Wait) :=
  match s.standing gid with
  | none => none
  | some g => match (g.lane lane).st with
    | .stalled w => some (g, g.lane lane, w)
    | _ => none

/-- A wait ends: the lane's effect is written, it retires, and its PC moves to the successor (R93, R407). -/
def State.resumeLane (s : State) (gid lane : Nat) (e : Eff) : State :=
  match s.group gid with
  | none => s
  | some g =>
    let g1 := (g.updLane lane fun l => { l with st := .running }).apply lane e
    let g2 := (g1.updLane lane fun l => (l.retire).arrive (succPc l.pc)).settle
    (s.setGroup gid g2).retirements (s.ctxOf g) 1

/-- The lanes of a waiting lane's bundle that wait at the same instruction. -/
def Group.waitersWith (g : Group) (lane : Nat) : Mask :=
  let pc := (g.lane lane).pc
  let all := match g.bundles.find? fun b => hasBit b.lanes lane with | some b => b.lanes | none => laneMask [lane]
  laneMask ((maskLanes all).filter fun k => (g.lane k).pc == pc && (match (g.lane k).st with | .stalled _ => true | _ => false))

/-- A precise fault ends a wait: it traps the lanes of the bundle that still wait at the instruction (R96). -/
def State.trapWaiting (s : State) (gid lane : Nat) (w : Wait) (fs : List (Nat × Code × DWord)) : State :=
  match s.group gid with
  | none => s
  | some g =>
    let pc := (g.lane lane).pc
    let held := s.sch.issue
    let i : Issue := ⟨gid, g.waitersWith lane, pc, pc, w.word, false, false, none, false, none⟩
    let t := s.takeTrap i fs
    { t with sch := { t.sch with issue := held } }

/-- An imprecise fault parks the bundle (R98, R214): each of its lanes resumes at its region entry, whose TGT bit is checked then,
with its region counter as it was before that REGION; %skid is the number of the bundle's younger instructions that had
retired. A lane that has parked already is set back too, and takes the new fault if it is its own. The fault is always
reported, of lanes that have exited as an event only. -/
def State.parkImprecise (s : State) (gid : Nat) (m : Mask) (fs : List (Nat × Code × DWord)) (younger : Nat) : State :=
  match s.group gid with
  | none => s
  | some g =>
    let live := m &&& g.liveMask
    let fresh := laneMask ((maskLanes live).filter fun k => (g.lane k).st != .parked)
    let again := fs.filter fun f => hasBit live f.1 && (g.lane f.1).st == .parked
    let g1 := g.updLanes live fun l =>
      { l with pc := l.regionPc, regionCtr := l.regionBase, skid := BitVec.ofNat 32 younger, reenter := true,
               wins := l.wins.map fun w => (w.1, 0) }
    let g2 := again.foldl (fun g f => g.updLane f.1 fun l => { l with fcode := BitVec.ofNat 32 f.2.1.num, faddr := f.2.2 }) g1
    if live = 0 then
      match fs.head? with
      | some f => (s.raise (s.ctxOf g) 1 f.2.1.num 0 (s.wid g 0) f.2.2 0).needService (s.ctxOf g)
      | none => s
    else (s.setGroup gid g2).parkFault gid fresh fs 0

/-! ### Outcomes and the replay log (R408, R410) -/

/-- The record of a lane's wait in the log that a replay consumes. -/
def State.loggedWait (s : State) (g : Group) (k : Nat) : Option LogRec :=
  s.logged (s.ctxOf g) 2 (s.wid g k) (g.lane k).retired

/-- The log has the wait end otherwise than `ok`. -/
def State.logDenies (s : State) (g : Group) (k : Nat) (ok : Bool) : Bool :=
  match s.loggedWait g k with | some r => (r.aux == 1) != ok | none => false

/-- The log has the wait end as `ok`. -/
def State.logGrants (s : State) (g : Group) (k : Nat) (ok : Bool) : Bool :=
  match s.loggedWait g k with | some r => (r.aux == 1) == ok | none => false

/-- A wait's outcome is recorded, or its record consumed. -/
def State.noteWait (s : State) (g : Group) (k : Nat) (ok : Bool) : State :=
  let ctx := s.ctxOf g
  match s.loggedWait g k with
  | some r => s.consume ctx r
  | none => s.log ctx ⟨2, 0, if ok then 1 else 0, s.wid g k, (g.lane k).retired, []⟩

/-! ### Barriers (R162 to R165) -/

def Barrier.mask (b : Barrier) (gidx : Nat) : Mask := (Table.get b.arrived gidx).getD 0

/-- A group has arrived: every lane that has not exited is in its mask (R162). -/
def Barrier.has (b : Barrier) (g : Group) : Bool := b.mask g.gidx != 0 && g.liveMask &&& ~~~(b.mask g.gidx) == 0

/-- Is the phase complete, for the groups that have not retired (R163). A retired group that arrived stays counted (R167); one none of whose
lanes arrived does not count towards a number N, though R162 read word for word, with no lane left that has not exited, would count it
(DESIGN CHOICE, log 87). -/
def Barrier.complete (b : Barrier) (live : List Group) : Bool :=
  match b.expect with
  | none => !live.isEmpty && live.all b.has
  | some n =>
    let gone := (b.arrived.filter fun p => p.2 != 0 && !(live.any fun g => g.gidx == p.1)).length
    decide (n ≤ (live.filter b.has).length + gone)

/-- Advance a completed phase, in one step (R163). -/
def Barrier.step (b : Barrier) (live : List Group) : Barrier :=
  if b.complete live then ⟨b.phase + 1, [], none⟩ else b

/-- The groups of a team that have not retired. -/
def State.liveGroups (s : State) (team : Nat) : List Group :=
  match Table.get s.run.teams team with
  | some t => t.groups.filterMap fun gid => s.group gid
  | none => []

/-- A team's barriers change: a phase that has completed brings the groups' scratchpad writes before the next release of each (R165, R324;
log 76). -/
def Team.passing (t : Team) (bs : List Barrier) : Team :=
  { t with
    barriers := bs
    olds := if bs.map (·.phase) == t.barriers.map (·.phase) then t.olds else t.olds.map fun o => if o.gids.isEmpty then o else { o with gids := t.groups } }

/-- The phases of a team's barriers. -/
def State.barrierPhases (s : State) (team : Nat) : List Word :=
  match Table.get s.run.teams team with | some t => t.barriers.map (·.phase) | none => []

/-- A phase of a team has completed since `s0`: what the groups have in the buffer, or have observed there, each of them has observed (R165,
R324, R326; log 76). -/
def State.passStores (s s0 : State) (team : Nat) : State :=
  if s.barrierPhases team == s0.barrierPhases team then s
  else
    let mine := s.run.groups.filter fun p => p.2.team == team
    let ids := ((s.run.accs.filter fun p => p.2.team == team && p.2.kind == .store && !p.2.sp && p.2.st == .combined).map (·.1) ++
      mine.flatMap fun p => p.2.observed.map (·.1)).eraseDups
    mine.foldl (fun t p => t.updGroup p.1 fun g =>
      g.noteStores (s.sch.nextId - 1) (ids.filter fun i => match Table.get s.run.accs i with | some a => a.gid != p.1 | none => false)) s

/-- Evaluate every barrier of a team again: a lane has exited, or a group has retired (R163). -/
def State.recheck (s : State) (team : Nat) : State :=
  let pass (t : Team) : Team := t.passing (t.barriers.map fun b => b.step (s.liveGroups team))
  ({ s with run := { s.run with teams := Table.upd s.run.teams team pass } } : State).passStores s team

/-- The barrier of a group's team. -/
def State.barrier (s : State) (g : Group) (b : Nat) : Barrier :=
  match s.teamOf g with | some t => t.barriers.getD b ⟨0, [], none⟩ | none => ⟨0, [], none⟩

def State.setBarrier (s : State) (g : Group) (b : Nat) (x : Barrier) : State :=
  { s with run := { s.run with teams := Table.upd s.run.teams g.team fun t => t.passing (t.barriers.set b x) } }

/-- A lane arrives (R164): the phase's first arrival may carry a count; completion is evaluated. -/
def State.arriveAt (s : State) (gid lane b : Nat) (count : Option Nat) (sc : Scope) : State :=
  match s.group gid with
  | none => s
  | some g =>
    let x := s.barrier g b
    let x1 : Barrier := { x with
      expect := if x.arrived.all (fun p => p.2 == 0) then count else x.expect
      arrived := Table.set x.arrived g.gidx (x.mask g.gidx ||| laneMask [lane]) }
    let s1 := (s.settleOlds g.team gid sc s.sch.nextId).setBarrier g b (x1.step (s.liveGroups g.team))
    (s1.passStores s g.team).noteOrder (s.ctxOf g) 0 b (s.wid g lane) (g.lane lane).retired (leBytes 8 lane)

/-- Done(L): the phase of a token has completed (R167). -/
def tokenDone (phase tok : Word) : Bool := decide (1 ≤ (phase - tok).toNat) && decide ((phase - tok).toNat ≤ 2 ^ 31)

/-- The barrier number and count that an instruction names, or the RESOURCE_BOUND it faults (R166). -/
def State.barrierArgs (s : State) (i : Issue) (g : Group) (k : Nat) (a b : Opnd) : Except Code (Nat × Option Nat) :=
  let src := i.source g
  let n := srcN32 src (src.lane k) a
  let (bars, groups) := match s.kernelOf g with | some x => (x.hdr.barriers, x.hdr.xs.getD 0 1) | none => (16, 64)
  let c := srcN32 src (src.lane k) b
  if bars ≤ n then .error .resourceBound
  else if b.isAbsent then .ok (n, none)
  else if c = 0 ∨ 64 < c ∨ groups < c then .error .resourceBound
  else .ok (n, some c)

/-- A limit operand in ns (R166). -/
def limitOf (g : Group) (l : Lane) (c : Opnd) : Option Nat := if c.isAbsent then none else some (srcN32 g l c)

/-- What a lane of BARW does once its token is known: it goes on with true, or waits, with a limit of 0 until its nanosecond ends, because
a completion in it wins (R167); a replay takes the outcome from the log (R410). -/
def State.barrierTurn (s : State) (g : Group) (k : Nat) (phase tok : Word) (sc : Scope) (lim : Option Nat) (b : Nat) (e : Opnd)
    (word : IWord) : Turn :=
  if tokenDone phase tok && !s.logDenies g k true then .now { preds := [(e, true)] }
  else if s.logGrants g k false then .now { preds := [(e, false)] }
  else .wait ⟨.barrier b tok sc, 4, lim, e, word, false, false⟩

/-- What an arrival comes to: the phase in which the lane arrived, or why it stalls: its release is not reached, or it has arrived in
this phase already. -/
inductive Arrival where
  | at (phase : Word)
  | release
  | again
  deriving DecidableEq, Repr

/-- A stalled arrival is recorded once the group's earlier accesses have reached the scope and the lane's earlier phase is
complete; BARS then goes on to its wait (R164, R165, R167). -/
def State.recordArrival (s : State) (gid lane : Nat) : State :=
  match s.waiting gid lane with
  | some (g, l, w) =>
    match w.kind with
    | .arrive b count sc before _ thenWait d =>
      if !s.reached gid sc before || !s.orderAllows (s.ctxOf g) 0 b (s.wid g lane) l.retired then s
      else
        let bar := s.barrier g b
        if hasBit (bar.mask g.gidx) lane then
          (s.updGroup gid fun g => g.updLane lane fun l =>
            { l with st := .stalled { w with kind := .arrive b count sc before true thenWait d, reason := 4 } })
        else
          let s1 := s.arriveAt gid lane b count sc
          if thenWait then
            (match s1.barrierTurn g lane (s1.barrier g b).phase bar.phase sc w.left b w.result w.word with
            | .now e =>
              let done := e.preds.any fun q => q.2
              (((if done then s1.acquire g.core sc else s1).noteWait g lane done).resumeLane gid lane e)
            | .wait w' => (s1.updGroup gid fun g => g.updLane lane fun l => { l with st := .stalled w' }))
          else (s1.resumeLane gid lane { regs := [(d, false, bar.phase.setWidth 64)] })
    | _ => s
  | none => s

/-- The stalled arrivals of the group that this cycle records before lane k of the bundle: those of lower lanes (R163). -/
def State.recordBelow (s : State) (gid k : Nat) : State :=
  let mine (x : Nat × Mask) : Bool := x.1 == gid && (maskLanes x.2).all fun j =>
    decide (j < k) && (match s.waiting gid j with | some (_, _, w) => (match w.kind with | .arrive .. => true | _ => false) | none => false)
  let t := { s with sch := { s.sch with latch := s.sch.latch.filter fun x => !mine x } }
  (s.sch.latch.filter mine).foldl (fun u x => (maskLanes x.2).foldl (fun u j => u.recordArrival gid j) u) t

/-- BARA and BARS arrive lane by lane in ascending order, with the stalled arrivals of the group's other lanes in their places: at once
when the group's earlier accesses have reached the scope and the lane has not arrived in this phase, else the lane stalls (R163 to
R165). -/
def State.arriveLanes (s : State) (i : Issue) (g : Group) (sc : Scope) (b : Nat) (count : Option Nat) :
    List Nat → List (Nat × Arrival) → State × List (Nat × Arrival)
  | [], ts => (s, ts)
  | k :: r, ts =>
    let s := s.recordBelow i.gid k
    let bar := s.barrier g b
    if !(s.reached i.gid sc s.sch.nextId && s.orderAllows (s.ctxOf g) 0 b (s.wid g k) (g.lane k).retired) then
      State.arriveLanes s i g sc b count r (ts ++ [(k, .release)])
    else if hasBit (bar.mask g.gidx) k then State.arriveLanes s i g sc b count r (ts ++ [(k, .again)])
    else State.arriveLanes (s.arriveAt i.gid k b count sc) i g sc b count r (ts ++ [(k, .at bar.phase)])

/-- The lanes' turns once every arrival of the bundle has been made (R167): a lane that has arrived goes on with `f` of its phase; the
others stall. -/
def State.afterArrivals (s : State) (i : Issue) (g : Group) (sc : Scope) (b : Nat) (count : Option Nat) (thenWait : Bool)
    (d e c : Opnd) (f : Nat → Word → Turn) (ts : List (Nat × Arrival)) : List (Nat × Turn) :=
  ts.map fun p =>
    let lim := limitOf (i.source g) ((i.source g).lane p.1) c
    (p.1, match p.2 with
      | .at phase => f p.1 phase
      | .release => .wait ⟨.arrive b count sc s.sch.nextId false thenWait d, 2, lim, e, i.word, false, false⟩
      | .again => .wait ⟨.arrive b count sc s.sch.nextId true thenWait d, 4, lim, e, i.word, false, false⟩)

/-- The turns that end a barrier's phase acquire at its scope (R165). -/
def State.acquireFor (s : State) (core : Nat) (sc : Scope) (ts : List (Nat × Turn)) : State :=
  if ts.any fun p => (match p.2 with | .now x => x.preds.any fun q => q.2 | .wait _ => false) then s.acquire core sc else s

/-- The outcomes of the lanes that do not wait are recorded: completed, or expired (R408). -/
def State.noteTurns (s : State) (g : Group) (ts : List (Nat × Turn)) : State :=
  ts.foldl (fun t p => match p.2 with
    | .now e => t.noteWait g p.1 (e.preds.all fun q => q.2)
    | .wait _ => t) s

def execBara (h : Hd) (sc : Scope) (d a b : Opnd) (s : State) : Out :=
  .next (s.once h fun s i g k =>
    match s.barrierArgs i g k a b with
    | .error c => s.trapGuarded i g h c 0
    | .ok (n, count) =>
      let r := s.arriveLanes i g sc n count (i.guarded g h) []
      r.1.turns i ((r.1.group i.gid).getD g) (s.afterArrivals i g sc n count false d .absent .absent
        (fun _ phase => .now { regs := [(d, false, phase.setWidth 64)] }) r.2))

def execBarw (h : Hd) (sc : Scope) (a b c e : Opnd) (s : State) : Out :=
  .next (s.once h fun s i g k =>
    match s.barrierArgs i g k a .absent with
    | .error x => s.trapGuarded i g h x 0
    | .ok (n, _) =>
      let src := i.source g
      let phase := (s.barrier g n).phase
      let ts := (i.guarded g h).map fun k => (k,
        s.barrierTurn src k phase (BitVec.ofNat 32 (srcN32 src (src.lane k) b)) sc (limitOf src (src.lane k) c) n e i.word)
      ((s.acquireFor g.core sc ts).noteTurns src ts).turns i g ts)

def execBars (h : Hd) (sc : Scope) (a b c e : Opnd) (s : State) : Out :=
  .next (s.once h fun s i g k =>
    match s.barrierArgs i g k a b with
    | .error x => s.trapGuarded i g h x 0
    | .ok (n, count) =>
      let r := s.arriveLanes i g sc n count (i.guarded g h) []
      let src := i.source g
      let ts := s.afterArrivals i g sc n count true .absent e c (fun k phase =>
        r.1.barrierTurn src k (r.1.barrier g n).phase phase sc (limitOf src (src.lane k) c) n e i.word) r.2
      ((r.1.acquireFor g.core sc ts).noteTurns src ts).turns i ((r.1.group i.gid).getD g) ts)

def execBarrierArrivalRecorded (gid lane : Nat) (s : State) : Out := .next (s.recordArrival gid lane)

/-! ### Monitors and counters (R168 to R174) -/

/-- Read a value of 4 or 8 bytes at a virtual address, at the coherence point. -/
def State.readWord (s : State) (ctx : Nat) (va : DWord) (w64 : Bool) : Except Code DWord :=
  match s.vload ctx va (if w64 then 8 else 4) with
  | .ok b => .ok (BitVec.ofNat 64 (leNat b))
  | .error c => .error c

def monitorIdle (l : Lane) : Lane := { l with monitor := { l.monitor with st := .idle } }

/-- WAITMON in one lane: with a limit of 0 it waits until its nanosecond ends, because a fire in it wins (R170, R173). -/
def monitorTurn (l : Lane) (lim : Option Nat) (d : Opnd) (word : IWord) : Turn :=
  match l.monitor.st with
  | .fired => .now { preds := [(d, true)], upd := monitorIdle }
  | .idle => .now { preds := [(d, false)] }
  | .armed => .wait ⟨.monitor, 5, lim, d, word, false, false⟩

/-- A replay takes the outcome from the log (R410). -/
def State.monitorTurn (s : State) (g : Group) (k : Nat) (lim : Option Nat) (d : Opnd) (word : IWord) : Turn :=
  match s.loggedWait g k with
  | some r => .now { preds := [(d, r.aux == 1)], upd := monitorIdle }
  | none => Sys2Proof.Machine.monitorTurn (g.lane k) lim d word

def execWaitmon (h : Hd) (d a : Opnd) (s : State) : Out :=
  .next (s.once h fun s i g _ =>
    let src := i.source g
    let ts := (i.guarded g h).map fun k => (k, s.monitorTurn src k (limitOf src (src.lane k) a) d i.word)
    (s.noteTurns src ts).turns i g ts)

/-- WAITC in one lane: satisfied, or it waits. A page fault, a stub's pull or a peer's route is met where the wait is tested again
(R174, R183). -/
def State.counterTurn (s : State) (ctx : Nat) (va target : DWord) (acq : Bool) (sc : Scope) (word : IWord) : Turn :=
  let w : Turn := .wait ⟨.counter va target acq sc, 7, none, .absent, word, false, false⟩
  match s.engineRead ctx va with
  | .ok t => if target.toNat ≤ leNat (s.load (t.key va) 8) then .now {} else w
  | _ => w

/-- The entry through which WAITC reads its counter is marked accessed (R207, R211). -/
def State.counterSeen (s : State) (ctx : Nat) (va : DWord) : State :=
  match s.engineRead ctx va with | .ok t => s.through 8 ctx va t false | _ => s

/-- The acquire of a WAITC that has seen its counter (R174, R323). -/
def State.acquireCounter (s : State) (g : Group) (gid : Nat) (sc : Scope) (va : DWord) : State :=
  match s.engineRead (s.ctxOf g) va with
  | .ok t => s.acquireAt g gid sc (t.key va) 8
  | _ => s.acquire g.core sc

def execWaitc (h : Hd) (ord : Order) (sc : Scope) (d : Opnd) (m : Addr) (s : State) : Out :=
  .next (s.once h fun s i g _ =>
    let src := i.source g
    let at' (k : Nat) := effAddr src (src.lane k) m 0
    let bad := (i.guarded g h).filter fun k => (at' k).toNat % 8 != 0
    if !bad.isEmpty then s.takeTrap i (bad.map fun k => (k, .alignment, at' k))
    else
      let ts := (i.guarded g h).map fun k =>
        (k, if s.logGrants src k true then .now {}
          else s.counterTurn (s.ctxOf g) (at' k) (readOp src (src.lane k) true d) (ord == .acq) sc i.word)
      let acquired := ts.foldl (fun t p => match p.2 with
        | .now _ => if ord == .acq then t.acquireCounter g i.gid sc (at' p.1) else t
        | .wait _ => t) s
      ((acquired.noteTurns src ts).turns i g ts)
        |> fun u => (i.guarded g h).foldl (fun x k => x.counterSeen (s.ctxOf g) (at' k)) u)

/-- An armed monitor fires: the value has changed, or the fire is spurious (R169, R170). -/
def execMonitorFire (gid lane : Nat) (s : State) : Out :=
  .next (if (s.standing gid).isNone then s else s.updGroup gid fun g => g.updLane lane fun l =>
    if l.monitor.st = .armed then { l with monitor := { l.monitor with st := .fired } } else l)

/-- What a lane watches: its armed monitor's address, and the counter of a WAITC (R169, R174). -/
def Lane.watched (l : Lane) : List DWord :=
  (if l.monitor.st = .armed then [l.monitor.addr] else []) ++
  (match l.st with | .stalled w => (match w.kind with | .counter va _ _ _ => [va] | _ => []) | _ => [])

/-- A lane's monitored value differs from the expected one (R169). -/
def State.monitorDiffers (s : State) (g : Group) (l : Lane) : Bool :=
  match s.readWord (s.ctxOf g) l.monitor.addr l.monitor.w64 with
  | .ok v => l.monitor.st == .armed && v != l.monitor.expect
  | .error _ => false

/-- A counter that a lane waits for has reached its target (R174). -/
def State.counterReached (s : State) (g : Group) (w : Wait) : Bool :=
  match w.kind with
  | .counter va target _ _ => (match s.engineRead (s.ctxOf g) va with
    | .ok t => decide (target.toNat ≤ leNat (s.load (t.key va) 8))
    | _ => false)
  | _ => false

/-- A core reads the value of a lane's armed monitor, which fires on a difference (R169). -/
def State.seeMonitor (s : State) (g : Group) (l : Lane) : Lane :=
  if s.monitorDiffers g l then { l with monitor := { l.monitor with st := .fired } } else l

/-- A core reads the counter of a lane's WAITC, which keeps that its target was reached, whatever the value becomes afterwards (R174). -/
def State.seeCounter (s : State) (g : Group) (l : Lane) : Lane :=
  match l.st with
  | .stalled w => if s.counterReached g w then { l with st := .stalled { w with met := true } } else l
  | _ => l

/-- A core reads all that a lane watches. -/
def State.see (s : State) (g : Group) (l : Lane) : Lane := s.seeCounter g (s.seeMonitor g l)

/-- An address whose writes all pass the Steppe directory; host and fabric memory is read again by a timer (R169). -/
def State.watchable (s : State) (ctx : Nat) (va : DWord) : Bool :=
  match s.walk ctx va with | .found t => !t.remote | _ => false

/-- The cores that watch lines see every write at the coherence point (R169, R174): the lanes of standing groups that watch device
memory, with a monitor, a counter or both, look at it. -/
def State.watch (s : State) : State :=
  let look (g : Group) (l : Lane) : Lane :=
    let seen (va : DWord) : Bool := s.watchable (s.ctxOf g) va
    let l1 := if l.monitor.st = .armed ∧ seen l.monitor.addr then s.seeMonitor g l else l
    match l.st with
    | .stalled w => (match w.kind with | .counter va _ _ _ => if seen va then s.seeCounter g l1 else l1 | _ => l1)
    | _ => l1
  if s.run.groups.all fun p => p.2.lanes.all fun l => l.watched.isEmpty then s
  else
    { s with run := { s.run with groups := s.run.groups.map fun (p : Nat × Group) =>
        (p.1, if p.2.st = .resident ∨ p.2.st = .parked then { p.2 with lanes := p.2.lanes.map (look p.2) } else p.2) } }

/-- The core reads a watched host or fabric value again, and fires on a difference; it does so at least every 2 µs (R169, R174). -/
def execMonitorPoll (gid lane : Nat) (s : State) : Out :=
  match s.standing gid with
  | none => .next s
  | some g => .next (s.updGroup gid fun x => x.updLane lane fun l => { s.see g l with polled := 0 })

/-- The wake of a sleeping lane in the log that a replay consumes; the SLEEP retired when it issued (R408, R410). -/
def State.loggedSleep (s : State) (g : Group) (lane : Nat) : Option LogRec :=
  s.logged (s.ctxOf g) 2 (s.wid g lane) ((g.lane lane).retired - 1)

/-- A replay whose log holds records still wakes no lane by the clock (R410). -/
def State.asleepInLog (s : State) (ctx : Nat) : Bool :=
  match Table.get s.ckp.ints ctx with | some x => !x.toReplay.isEmpty | none => false

/-- A sleeping lane's wake time has come, or, in a replay, the log has it wake (R123, R410). -/
def execSleepWake (gid lane : Nat) (s : State) : Out :=
  match s.standing gid with
  | none => .next s
  | some g => match (g.lane lane).st with
    | .sleeping wake =>
      let up (t : State) : State := t.setGroup gid (g.updLane lane fun l => Lane.arrive { l with st := .running } l.pc).settle
      (match s.loggedSleep g lane with
      | some r => .next ((up s).consume (s.ctxOf g) r)
      | none =>
        if wake.toNat ≤ (s.ptime g).toNat ∧ !s.asleepInLog (s.ctxOf g) then
          .next ((up s).log (s.ctxOf g) ⟨2, 0, 1, s.wid g lane, (g.lane lane).retired - 1, []⟩)
        else .next s)
    | _ => .next s

end Sys2Proof.Machine
end

