-- ==== Sys2Proof/Machine/CallArea.lean ====
section
/-! DEFINITION. Machine/CallArea.lean: the vector call records of a context's call area (17_context.md, R310). -/

namespace Sys2Proof.Machine

/-- The virtual address of call record n. -/
def State.recordVa (s : State) (ctx n : Nat) : DWord :=
  match Table.get s.ctx.contexts ctx with
  | some c => c.record.callA + BitVec.ofNat 64 (4096 * n)
  | none => 0

/-- The first 32 bytes of a call record. -/
structure CallRec where
  num : Nat
  st : Nat
  claimer : Nat
  mask : Mask
  wid : DWord
  gen : Nat
  narg : Nat
  deriving DecidableEq, Repr

def State.callRec (s : State) (ctx n : Nat) : Option CallRec :=
  match s.vload ctx (s.recordVa ctx n) 32 with
  | .ok b =>
    let f (o k : Nat) : Nat := leNat ((b.drop o).take k)
    some ⟨f 0 4, f 4 1, f 5 1, BitVec.ofNat 64 (f 8 8), BitVec.ofNat 64 (f 16 8), f 24 3, f 28 4⟩
  | .error _ => none

/-- Write bytes of a call record; an area that does not take the write stays as it is. -/
def State.setRec (s : State) (ctx n off : Nat) (b : List Byte) : State :=
  match s.vstore ctx (s.recordVa ctx n + BitVec.ofNat 64 off) b with
  | .ok t => t
  | .error _ => s

/-- Strike lanes from a record's MASK; an empty MASK makes the record FREE (R312). -/
def State.strike (s : State) (ctx n : Nat) (m : Mask) : State :=
  match s.callRec ctx n with
  | none => s
  | some r =>
    let left := r.mask &&& ~~~m
    let t := s.setRec ctx n 8 (leBytes 8 left.toNat)
    if left = 0 then t.setRec ctx n 4 [0] else t

/-- Lanes that exit are struck from the records that their group has posted (R312). -/
def State.strikeExited (s : State) (ctx gid : Nat) (m : Mask) : State :=
  let mine : List Nat := match Table.get s.ctx.contexts ctx with
    | some c => (c.callers.filter fun p : Nat × Nat => p.2 == gid).map fun p : Nat × Nat => p.1
    | none => []
  mine.foldl (fun t n =>
    match t.callRec ctx n with
    | some r => if r.st ≠ 0 ∧ r.mask &&& m ≠ 0 then t.strike ctx n m else t
    | none => t) s

/-- A group has posted a record. -/
def State.noteCaller (s : State) (ctx n gid : Nat) : State :=
  { s with ctx := { s.ctx with contexts := Table.upd s.ctx.contexts ctx fun c => { c with callers := Table.set c.callers n gid } } }

end Sys2Proof.Machine
end

