-- ==== Sys2Proof/Machine/Control.lean ====
section
/-! DEFINITION. Machine/Control.lean: the control-flow instructions 0x60 to 0x69 and the retirement of a group (05_lane.md, R118
to R123; 07_group.md, R143, R161; 15_kernel.md, R275). -/

namespace Sys2Proof.Machine

/-- A transfer in one lane: BRANCH_TARGET if the target is malformed or its slot is not marked (R53, R58, R119). -/
def State.jump (s : State) (g : Group) (target : DWord) (e : Eff) : Eff :=
  { e with
    fault := if s.targetOk (s.ctxOf g) target then none else some (.branchTarget, target)
    pc := some target }

/-- The B-format target of the instruction in issue (R66). -/
def Issue.label (i : Issue) (loff : BitVec 30) (slot : BitVec 3) : DWord := lineTarget i.pc loff.toInt slot.toNat

def execBra (h : Hd) (loff : BitVec 30) (slot : BitVec 3) (s : State) : Out :=
  match s.current with
  | none => .next s
  | some (i, _) => .next (s.lanesS h fun s g _ _ => s.jump g (i.label loff slot) {})

def execBrx (h : Hd) (a : Opnd) (s : State) : Out := .next (s.lanesS h fun s g _ l => s.jump g (readOp g l true a) {})

def execCall (h : Hd) (d : Opnd) (loff : BitVec 30) (slot : BitVec 3) (s : State) : Out :=
  match s.current with
  | none => .next s
  | some (i, _) => .next (s.lanesS h fun s g _ _ => s.jump g (i.label loff slot) { regs := [(d, true, succPc i.pc)] })

def execCallx (h : Hd) (d a : Opnd) (s : State) : Out :=
  match s.current with
  | none => .next s
  | some (i, _) => .next (s.lanesS h fun s g _ l => s.jump g (readOp g l true a) { regs := [(d, true, succPc i.pc)] })

def execRet (h : Hd) (a : Opnd) (s : State) : Out := .next (s.lanesS h fun s g _ l => s.jump g (readOp g l true a) {})

/-! ### EXIT and the group's retirement -/

/-- The bytes of a group's exit record (R161). -/
def State.exitRecord (s : State) (g : Group) : List Byte :=
  leBytes 8 (s.wid g 0).toNat ++ leBytes 8 g.tstart.toNat ++ leBytes 8 (s.ptime g).toNat ++ leBytes 8 g.issued.toNat ++
  (List.range 16).flatMap (fun n => leBytes 8 (g.stalls.getD n 0).toNat) ++
  leBytes 4 ((s.place g).toNat % 2 ^ 32) ++ leBytes 4 g.flags.toNat ++ leBytes 24 0

/-- Where the next exit record goes, as the counter stands. -/
def State.recordAt (s : State) (k : Kernel) : DWord :=
  match s.vload k.ctx k.hdr.prof 8 with
  | .ok b => k.hdr.prof + BitVec.ofNat 64 (64 + 192 * leNat b)
  | .error _ => k.hdr.prof

/-- Take an index of the profile buffer and write the exit record where it fits (R161, R275). -/
def State.writeProfile (s : State) (k : Kernel) (r : List Byte) : State :=
  match s.vload k.ctx k.hdr.prof 16 with
  | .error _ => s
  | .ok b =>
    match s.vadd k.ctx k.hdr.prof 1 with
    | (t, some _) => t
    | (t, none) =>
      if leNat (b.take 8) < leNat (b.drop 8) then (t.vstoreAcross k.ctx (s.recordAt k) r).toOption.getD t else t

/-- What an exit record writes: the counter, and the record's first and last byte. -/
def State.recordParts (s : State) (k : Kernel) : List DWord := [k.hdr.prof, s.recordAt k, s.recordAt k + 191]

/-- The counter or the record must wait for its page (R362). -/
def State.profileWaits (s : State) (k : Kernel) (id : Nat) : Bool :=
  s.loadWaits k.ctx k.hdr.prof || (s.recordParts k).any fun va => s.writeWaits k.ctx va id

/-- An exit record that must wait takes its place where its page is held. -/
def State.stallRecord (s : State) (k : Kernel) (id : Nat) : State := (s.recordParts k).foldl (fun t va => t.stallHeld k.ctx va id) s

/-- The exit record of a retiring group is written, or waits. -/
def State.profile (s : State) (g : Group) : State :=
  match s.teamOf g, s.kernelOf g with
  | some t, some k =>
    if k.hdr.prof = 0 then s
    else
      let (id, s1) := s.fresh
      if s1.profileWaits k id then
        ({ s1 with ker := { s1.ker with records := s1.ker.records ++ [⟨id, t.kernel, s.exitRecord g⟩] } } : State).stallRecord k id
      else s1.writeProfile k (s.exitRecord g)
  | _, _ => s

/-- An exit record that has waited is written. At HOLDLIM it is not: its group has retired, so PAGE_HELD is only an event (R143, R362). -/
def execRecordWrite (n : Nat) (s : State) : Out :=
  match s.ker.records[n]? with
  | none => .next s
  | some r =>
    let gone : State := ({ s with ker := { s.ker with records := s.ker.records.eraseIdx n } } : State).unstall r.id
    match Table.get s.ker.kernels r.kernel with
    | none => .next gone
    | some k =>
      match (s.recordParts k).find? fun va => s.overdue k.ctx va r.id with
      | some va => .next (gone.raise k.ctx 1 Code.pageHeld.num 0 (BitVec.ofNat 64 (leNat (r.bytes.take 8))) va 0)
      | none => .next (if s.profileWaits k r.id then s.stallRecord k r.id else gone.writeProfile k r.bytes)

/-- What a retiring group leaves unobserved goes to its guardian: tags in ERROR, and aborts of commit groups (R230, R253). -/
def State.tellUnobserved (s : State) (g : Group) : State :=
  let ctx := s.ctxOf g
  let w := s.wid g 0
  let s1 := g.tagFault.foldl (fun t r => if g.tagSeen.getLsbD r.1 then t else t.raise ctx 6 r.2.1.num 0 w r.2.2 (BitVec.ofNat 64 r.1)) s
  g.commits.foldl (fun t c => match c.abort with | some a => t.raise ctx 7 0 0 w a.2 c.number | none => t) s1

/-- An access that goes on without its group still waits for the stores that the group had observed before it (R143, R326). -/
def Group.passOn (g : Group) (gid : Nat) (a : Access) : Access :=
  if a.gid = gid then { a with awaits := a.awaits ++ (g.observed.filter fun x => decide (x.2 < a.inst)).map (·.1) } else a

/-- A group retires when its last lane has exited: its record, its slot, its team's barriers; the team retires with its last
group (R143, R163, R276). -/
def State.retireGroup (s : State) (gid : Nat) (g : Group) : State :=
  let s1 := (s.profile g).tellUnobserved g
  let s2 := { s1 with run := { s1.run with
    groups := Table.del s1.run.groups gid
    pend := s1.run.pend.filter fun p => p.2.gid != gid
    accs := s1.run.accs.map fun (p : Nat × Access) => (p.1, g.passOn gid p.2)
    teams := Table.upd s1.run.teams g.team fun t =>
      { t with cycles := t.cycles + g.issued.toNat + (g.stalls.map BitVec.toNat).sum, groups := t.groups.filter (· != gid), regs := g.quad :: t.regs, retiring := t.retiring || (t.groups.filter (· != gid)).isEmpty } } }
  s2.recheck g.team

/-- Lanes that exit leave their bundle (R144). -/
def Group.dropExited (g : Group) : Group :=
  { g with bundles := g.bundles.filterMap fun b =>
      let m := b.lanes &&& g.liveMask
      if m = 0 then none else some { b with lanes := m } }

/-- EXIT: the lanes whose guard holds end; meetings, barriers and call records learn of it; a group without lanes retires
(R120). -/
def execExit (h : Hd) (s : State) : Out :=
  match s.current with
  | none => .next s
  | some (i, g) =>
    let m := laneMask (i.guarded g h)
    let s1 := s.lanes h fun _ _ _ => { upd := fun l => { l with st := .exited } }
    match s1.group i.gid with
    | none => .next s1
    | some g1 =>
      let g2 := g1.dropExited.settle
      let s2 := (if m = 0 then s1 else (s1.setGroup i.gid g2).strikeExited (s.ctxOf g) i.gid m)
      .next (if m ≠ 0 ∧ g2.liveMask = 0 then s2.retireGroup i.gid g2 else if m = 0 then s2 else s2.recheck g.team)

/-! ### Traps, regions, sleep -/

def execTrap (h : Hd) (imm : BitVec 32) (s : State) : Out :=
  .next (s.lanes h fun _ _ _ => { fault := some (.userTrap, imm.setWidth 64) })

/-- TRET with H clear in a lane of the bundle is an illegal encoding at issue; a malformed %xpc faults BRANCH_TARGET (R74,
R121). -/
def execTret (h : Hd) (s : State) : Out :=
  match s.current with
  | none => .next s
  | some (i, g) =>
    if i.active.any fun k => !(g.lane k).h then .next (s.trapAll i .illegalEncoding 0)
    else .next (s.lanes h fun _ _ l =>
      { fault := if pcOk l.xpc then none else some (.branchTarget, l.xpc), upd := fun l => l.leave.1, pc := some l.leave.2 })

def execRegion (h : Hd) (s : State) : Out :=
  match s.current with
  | none => .next s
  | some (i, _) =>
    .next (s.lanes h fun _ _ _ => { upd := fun l =>
      { l with regionPc := i.pc, regionBase := l.regionCtr, regionCtr := l.regionCtr + 1 } })

/-- SLEEP until %ptime reaches the counter read at issue plus the duration; 0 only yields the slot (R123). -/
def execSleep (h : Hd) (a : Opnd) (s : State) : Out :=
  .next (s.lanesS h fun s g _ l =>
    let n := srcN32 g l a
    { upd := fun l => if n = 0 then l else { l with st := .sleeping (s.ptime g + BitVec.ofNat 64 n) } })

end Sys2Proof.Machine
end

