-- ==== Sys2Proof/Machine/AccessEvents.lean ====
section
/-! DEFINITION. Machine/AccessEvents.lean: the events in the life of an access (R177 to R191, R202, R340, R341, R408). -/

namespace Sys2Proof.Machine

/-! ### Scratchpad bytes, writer tags and the replay log (R190, R408, R410) -/

def State.spBytes (s : State) (team off n : Nat) : List Byte :=
  match Table.get s.run.teams team with | some t => Sparse.bytes t.sp off n | none => List.replicate n 0

/-- Write scratchpad bytes: no release's sequence reaches through them, and what they held before is gone (R190, R323). -/
def State.setSp (s : State) (team off : Nat) (b : List Byte) : State :=
  { s with run := { s.run with teams := Table.upd s.run.teams team fun t => { t with
    sp := Sparse.setBytes t.sp off b
    marks := t.marks.filter fun w => !overlap off b.length w.key w.size
    olds := t.olds.filter fun o => !overlap off b.length o.off 4 } } }

/-- The releases in whose sequence scratchpad bytes stand. -/
def State.spRels (s : State) (team off n : Nat) : List Rel :=
  match Table.get s.run.teams team with | some t => relsOf t.marks off n | none => []

/-- The words that bytes of scratchpad touch, as they stand, kept for engines that no release orders behind a write (R190, R332). -/
def Team.keepOld (t : Team) (off n : Nat) (gids : List Nat) (num : Nat) : List OldWord :=
  ((List.range ((off % 4 + n + 3) / 4)).map fun k => (⟨(off / 4 + k) * 4, Sparse.bytes t.sp ((off / 4 + k) * 4) 4, gids, num⟩ : OldWord)) ++ t.olds

/-- A lane writes scratchpad bytes, which stand in the sequence of releases (R323). -/
def State.writeSp (s : State) (a : Access) (b : List Byte) (rels : List Rel) : State :=
  let off := a.va.toNat
  { s with run := { s.run with teams := Table.upd s.run.teams a.team fun t => { t with
    sp := Sparse.setBytes t.sp off b
    marks := (if rels.isEmpty then [] else [⟨off, b.length, rels⟩]) ++ t.marks.filter fun w => !overlap off b.length w.key w.size
    olds := t.keepOld off b.length [a.gid] a.inst } } }

/-- The block-transfer engine writes words of scratchpad for a transfer (R227). -/
def State.engineSp (s : State) (team off : Nat) (b : List Byte) (num : Nat) : State :=
  { s with run := { s.run with teams := Table.upd s.run.teams team fun t => { t with
    sp := Sparse.setBytes t.sp off b
    marks := t.marks.filter fun w => !overlap off b.length w.key w.size
    olds := t.keepOld off b.length [] num } } }

/-- A group has observed releases of other groups: their scratchpad writes come before its own next release (R324). -/
def State.passOlds (s : State) (team gid : Nat) (rels : List Rel) : State :=
  if rels.isEmpty then s else s.mapOlds team fun os => os.map fun o =>
    if rels.any (fun r => match r.agent with | .lane _ _ h => o.gids.contains h && decide (o.num < r.num) | _ => false)
    then { o with gids := gid :: o.gids } else o

/-- A transfer's writes of scratchpad come before the next release of its group once its tag is READY (R227; log 76). -/
def State.ownOlds (s : State) (team gid num : Nat) : State :=
  s.mapOlds team fun os => os.map fun o => if o.num = num ∧ o.gids.isEmpty then { o with gids := [gid] } else o

/-- A word of scratchpad as an engine reads it: what it holds, or, at the hardware's choice, what it held before a write that no release has
ordered (R190, R332). -/
def State.spWord (s : State) (team off : Nat) : State × List Byte :=
  let olds : List OldWord := match Table.get s.run.teams team with | some t => t.olds.filter fun o => o.off == off | none => []
  if olds.isEmpty then (s, s.spBytes team off 4)
  else
    let (n, s1) := s.draw
    (s1, match olds[n % (olds.length + 1)]? with | some o => o.data | none => s.spBytes team off 4)

/-- n words of scratchpad, each read apart. -/
def State.spWords (s : State) (team off : Nat) : Nat → State × List Byte
  | 0 => (s, [])
  | n + 1 =>
    let (s1, b) := s.spWord team off
    let (s2, r) := s1.spWords team (off + 4) n
    (s2, b ++ r)

/-- The key of a line or scratchpad segment for its writer tag. -/
def Access.tagKey (a : Access) : Nat := a.ctx * 2 ^ 96 + if a.sp then 2 ^ 72 + a.team * 2 ^ 24 + a.va.toNat / 64 else a.key / 64

/-- While a context logs, a write leaves its group's %wid as the tag of what it wrote; all ones once two groups have (R408). -/
def State.tagAs (s : State) (ctx key : Nat) (wid : DWord) : State :=
  if s.logging ctx then
    let tag := match Table.get s.mem.writers key with | some w => if w = wid then wid else 0xFFFFFFFFFFFFFFFF | none => wid
    { s with mem := { s.mem with writers := Table.set s.mem.writers key tag } }
  else s

def State.tagWriter (s : State) (a : Access) : State := s.tagAs a.ctx a.tagKey a.wid0

/-- Tag the scratchpad segments of a range of bytes. -/
def State.tagSegments (s : State) (ctx team off n : Nat) (wid : DWord) : State :=
  ((List.range ((off % 64 + n + 63) / 64)).map fun k => ctx * 2 ^ 96 + 2 ^ 72 + team * 2 ^ 24 + (off / 64 + k)).foldl
    (fun t key => t.tagAs ctx key wid) s

/-- Is the value of an access recorded: atomics, .fresh and acquiring loads, host and fabric addresses, and lines that another
group wrote (R408). -/
def State.recorded (s : State) (a : Access) : Bool :=
  a.kind.atomic || a.hint == .fresh || a.acquires ||
  (match a.tr with | some t => t.remote | none => false) ||
  (match Table.get s.mem.writers a.tagKey with | some w => w != a.wid0 | none => false)

/-- %wid of an access's lane, and what the lane had retired before the instruction. -/
def Access.wid (a : Access) : DWord := a.wid0 + BitVec.ofNat 64 a.lane
def Access.rcnt (a : Access) : DWord := BitVec.ofNat 64 (a.skid - 1)

/-- The value that an access takes: the logged one in a replay, else the live one, which is recorded (R408, R410). -/
def State.settleValue (s : State) (a : Access) (b : List Byte) : State × List Byte :=
  match s.logged a.ctx 1 a.wid a.rcnt with
  | some r => (s.consume a.ctx r, r.data)
  | none =>
    if s.recorded a then (s.log a.ctx ⟨1, b.length, a.va.toNat % 64, a.wid, a.rcnt, b⟩, b) else (s, b)

/-- An access's effect outside the job. -/
def Access.effect (a : Access) : Effect := (a.wid, a.rcnt, a.va)

def Access.outside (a : Access) : Bool := match a.tr with | some t => t.remote | none => false

/-- An access writes; outside the job a replay suppresses it (R410). -/
def State.effectOf (s : State) (a : Access) (f : State → State) : State := if a.outside then s.outside a.ctx a.effect f else f s

/-! ### Values -/

/-- Does the access's value fill 64 bits. -/
def Access.wide (a : Access) : Bool :=
  match a.kind with
  | .load t => MTy.size t == 8
  | .atom _ t => ATy.size t == 8
  | .arm w _ => w
  | _ => false

/-- The value of an access as its destination takes it (R196, R201). -/
def Access.value (a : Access) : DWord :=
  match a.kind with
  | .load t => MTy.extend t a.bytes
  | .atom _ .i32 => (a.data.setWidth 32).signExtend 64
  | .atom _ _ => a.data
  | _ => BitVec.ofNat 64 (leNat a.bytes)

/-- Write an access's value in its lanes, once for an s register, and close the windows that wait for it (R69, R197). -/
def Group.deliver (g : Group) (id : Nat) (a : Access) : Group :=
  let g1 := match a.dst with
    | .s _ => g.write a.lane a.dst a.wide a.value
    | _ => (maskLanes a.lanes).foldl (fun h k => h.write k a.dst a.wide a.value) g
  { g1 with lanes := g1.lanes.map fun l => { l with wins := l.wins.filter fun w => w.1 != id } }

/-- An access leaves the table. -/
def State.endAccess (s : State) (id : Nat) : State := { s with run := { s.run with accs := Table.del s.run.accs id } }

def State.setAccess (s : State) (id : Nat) (a : Access) : State :=
  { s with run := { s.run with accs := Table.set s.run.accs id a } }

/-- Arm the monitor of an access's lane: ARMED if the value is the expected one, else FIRED (R170, R172). -/
def State.armMonitor (s : State) (a : Access) (w64 ldmon : Bool) (v : DWord) : State :=
  let x := if ldmon then v else a.cmp
  s.updGroup a.gid fun g => g.updLane a.lane fun l =>
    { l with monitor := ⟨if v = x then .armed else .fired, a.va, w64, x⟩ }

/-! ### The events -/

/-- A view access that its window no longer allows (R216). -/
def State.viewGone (s : State) (a : Access) : Bool :=
  match a.tr with | some t => !a.sp && t.cls == 3 && s.viewBad a.ctx t a.va a.size | none => false

/-- The lanes of an access have read bytes that stand in releases' sequences: they hold them for a FENCE that acquires, their group has
observed the stores that come before them, and an acquiring access acquires (R188, R194, R323, R324, R326). -/
def State.hear (s : State) (id : Nat) (a : Access) (rels : List Rel) : State :=
  let x : Agent := .lane a.core a.team a.gid
  let near := rels.filter fun r => Scope.covers r.sc r.agent x
  let s1 := if near.isEmpty then s else s.updGroup a.gid fun g =>
    (g.updLanes a.lanes fun l => { l with heard := l.heard ++ near.filter fun r => !l.heard.contains r }).noteStores id (s.carried a.gid a.core near)
  let s2 := if a.sp then s1.passOlds a.team a.gid near else s1
  if a.acquires then s2.acquireRels x a.core a.sc near else s2

/-- What the core's loads see of a device line from the home, they have seen (R328). -/
def State.noteSeen (s : State) (core key : Nat) : State :=
  if Config.deviceBytes ≤ key then s
  else { s with mem := { s.mem with lineSeen := Table.raise s.mem.lineSeen (key / 64 * 256 + core) s.mem.ver } }

/-- One access takes the bytes read: logged or live; MONARM and LDMON arm (R172, R408). -/
def State.bindTo (s : State) (id : Nat) (a : Access) (b : List Byte) : State :=
  let (s1, b1) := s.settleValue a b
  let s2 := s1.setAccess id { a with st := .bound, bytes := b1 }
  match a.kind with
  | .arm w64 ldmon => s2.armMonitor a w64 ldmon (BitVec.ofNat 64 (leNat b1))
  | _ => s2

/-- A load's value is fixed: from scratchpad, L1, the store-combining buffer or the home, for every access of the instruction to
the same bytes. An acquire applies; MONARM and LDMON arm in the same step (R172, R177, R181, R184 to R190, R194). -/
def execAccessBound (id : Nat) (s : State) : Out :=
  match Table.get s.run.accs id with
  | none => .next s
  | some a =>
    let ms := (s.mates id a).map fun p => (p.1, p.2.sent s.lnk)
    if !(ms.all fun p => s.bindable p.1 p.2) then .next s
    else if s.viewGone a then .next (s.setAccess id { a with fault := some .formatView })
    else
      let s := s.spendFor a
      let (s1, b, seen) := if a.sp then (s, s.spBytes a.team a.va.toNat a.size, []) else
        match a.tr with | some t => s.readFor a t | none => (s, [], [])
      let s2 := s1.updGroup a.gid fun g => g.noteStores id seen
      let whole : Bool := !a.sp && b == s.freshBytes a.core a.key a.size
      let rels := if a.sp then s.spRels a.team a.va.toNat a.size else if whole then s.relsAt a.core a.key a.size else []
      let s3 := if whole then s2.noteSeen a.core a.key else s2
      .next (ms.foldl (fun t p => t.hear p.1 p.2 rels) (ms.foldl (fun t p => t.bindTo p.1 p.2 b) s3))

/-- The value is written to the destination; a piece of a TLD goes to its operation (R177, R256). -/
def execAccessDone (id : Nat) (s : State) : Out :=
  match Table.get s.run.accs id with
  | none => .next s
  | some a =>
    if a.st ≠ .bound then .next s
    else
      let s1 := s.endAccess id
      match a.kind with
      | .line op piece => .next { s1 with eng := { s1.eng with
          tileOps := Table.upd s1.eng.tileOps op fun x => { x with got := Table.set x.got piece a.bytes } } }
      | _ => .next (s1.updGroup a.gid fun g => g.deliver id a)

/-- A store enters the core's store-combining buffer, behind those that stand there; a uniform store updates the uniform side's
copy (R177, R187). -/
def execAccessCombined (id : Nat) (s : State) : Out :=
  match Table.get s.run.accs id with
  | none => .next s
  | some a =>
    if !s.combinable id a then .next (s.stallAccess id a (s.combineReady id a))
    else
      let s1 := { s with run := { s.run with accs := Table.del s.run.accs id ++ [(id, { a with st := .combined })] } }
      .next (if a.uniform then
        { s1 with mem := { s1.mem with l1 := s1.mem.l1.map fun x => x.onUniform a.core a.key a.bytes } } else s1)

/-- The releases whose sequence a lane's write stands in (R323): its own, and, for an atomic, those of the value it replaces. -/
def Access.relsOver (a : Access) (ver : Nat) (old : List Rel) : List Rel := a.ownRels ver ++ if a.kind.atomic then old else []

/-- Bytes stand in releases' sequences. -/
def State.mark (s : State) (key n : Nat) (rels : List Rel) : State :=
  if rels.isEmpty then s else { s with mem := { s.mem with marks := ⟨key, n, rels⟩ :: s.mem.marks } }

/-- A write at its home. Of a device line the old content remains, for cores that need not see the write yet (R319, R330; log 76). -/
def State.writeOver (s : State) (key : Nat) (b : List Byte) (rels : List Rel) : State :=
  let t := (s.store key b).mark key b.length rels
  if inAperture key ∨ Config.deviceBytes ≤ key then t
  else { t with mem := { t.mem with ver := t.mem.ver + 1, old := ⟨key / 64, t.mem.ver + 1, s.load (64 * (key / 64)) 64⟩ :: s.mem.old } }

/-- A lane's write at its home: the writer's own core must see it (R323, R325). -/
def State.writeLane (s : State) (a : Access) (key : Nat) (b : List Byte) : State :=
  let t := s.writeOver key b (a.relsOver (s.mem.ver + 1) (relsOf s.mem.marks key b.length))
  if inAperture key ∨ Config.deviceBytes ≤ key then t
  else { t with mem := { t.mem with lineFloors := Table.raise t.mem.lineFloors (key / 64 * 256 + a.core) t.mem.ver } }

/-- Write a store's bytes at its home: those of the store alone, or a view's whole block from the stores that make it up (R198). -/
def State.writeHome (s : State) (a : Access) (t : Trans) (ms : List (Nat × Access)) : State :=
  if t.cls = 3 ∧ a.size < 32 then
    s.store (a.key - a.key % 32) ((blockBytes (ms.map (·.2)) (a.va.toNat / 32)).map fun y => y.getD 0)
  else s.effectOf a fun u => u.writeLane a a.key a.bytes

/-- The stores of a view block that are still there cover it: one that has faulted is missing (R198). -/
def Access.blockWhole (a : Access) (ms : List (Nat × Access)) : Bool :=
  match a.tr with
  | some t => t.cls != 3 || a.sp || a.kind != .store || decide (32 ≤ a.size) || (blockBytes (ms.map (·.2)) (a.va.toNat / 32)).all Option.isSome
  | none => true

/-- Perform an atomic at its bytes: what they held, and what they hold then (R200). -/
def Access.operate (a : Access) (old : List Byte) : DWord × List Byte :=
  let m := leNat old
  match a.kind with
  | .atom op t | .red op t => (BitVec.ofNat 64 m, leBytes a.size (newValue op t m a.data.toNat a.cmp.toNat))
  | _ => (0, old)

/-- The host of an atomic that has an AtomicOp declines it (R202). -/
def State.hostRefuses (s : State) (a : Access) : State × Bool :=
  match a.tr, a.kind with
  | some t, .atom op _ | some t, .red op _ =>
    if !a.sp && (op == .add || op == .exch || op == .cas) then s.hostDeclines t else (s, false)
  | _, _ => (s, false)

/-- An atomic or a RED is performed, with its acquire: at its home, or at its bank, where it is acknowledged in the same cycle. -/
def State.performAtomic (s : State) (id : Nat) (a : Access) : State :=
  let old := if a.sp then s.spBytes a.team a.va.toNat a.size else s.load a.key a.size
  -- the value read decides what the acquire observes, so the releases of the old value count
  let rels := if a.sp then s.spRels a.team a.va.toNat a.size else relsOf s.mem.marks a.key a.size
  let (v, new) := a.operate old
  let s1 := if a.sp then s.writeSp a new (a.relsOver s.mem.ver rels)
    else s.effectOf a fun u => (u.noteSeen a.core a.key).writeLane a a.key new
  let (s2, v2) := s1.settleValue a (leBytes a.size v.toNat)
  let b := { a with st := .performed, data := BitVec.ofNat 64 (leNat v2) }
  let loads : Bool := match a.kind with | .atom _ _ => true | _ => a.acquires
  let s3 := if loads then (s2.tagWriter a).hear id a rels else s2.tagWriter a
  if a.sp then (s3.endAccess id).updGroup a.gid fun g => g.deliver id b else s3.setAccess id b

/-- A write is performed: a combined store at its home, an atomic at its home with its acquire, a scratchpad write at its bank,
where it is acknowledged in the same cycle (R177, R179, R190, R194). A window that has been disabled faults it, and so may a
host (R202, R216). -/
def execAccessPerformed (id : Nat) (s : State) : Out :=
  match Table.get s.run.accs id with
  | none => .next s
  | some a =>
    let ms := s.blockMates id a
    if !s.performable id a then .next (s.stallAccess id a (s.performReady id a))
    else if s.viewGone a ∨ !a.blockWhole ms then .next (ms.foldl (fun t p => t.setAccess p.1 { p.2 with fault := some .formatView }) s)
    else if !(ms.all fun p => p.1 == id || s.performable p.1 p.2) then .next s
    else
    let s0 := (s.spendFor a).unstall id
    let a := a.sent s.lnk
    let ms := ms.map fun p => (p.1, p.2.sent s.lnk)
    let s := if a.releases then s0.settleOlds a.team a.gid a.sc a.inst else s0
    if a.kind = .store then
      (if a.sp then .next (((s.writeSp a a.bytes (a.ownRels s.mem.ver)).tagWriter a).endAccess id)
       else match a.tr with
        | some t => .next (ms.foldl (fun u p => (u.tagWriter p.2).setAccess p.1 { p.2 with st := .performed }) (s.writeHome a t ms))
        | none => .next s)
    else match s.hostRefuses a with
      | (s1, true) => .next (s1.setAccess id { a with fault := some .atomicUnsupported })
      | (s1, false) => .next (s1.performAtomic id a)

/-- The acknowledgement reaches the core; an ATOM writes D (R177). -/
def execAccessAcknowledged (id : Nat) (s : State) : Out :=
  match Table.get s.run.accs id with
  | none => .next s
  | some a =>
    if a.st ≠ .performed ∨ a.fault.isSome then .next s
    else match a.kind with
      | .atom _ _ => .next ((s.endAccess id).updGroup a.gid fun g => g.deliver id a)
      | _ => .next (s.endAccess id)

/-- A store ends DROPPED: PEER_UNREACHABLE becomes pending for its group, with the earliest dropped address (R177, R204). -/
def execAccessDropped (id : Nat) (s : State) : Out :=
  match Table.get s.run.accs id with
  | none => .next s
  | some a =>
    if a.st ≠ .refused then .next s
    else .next ((s.endAccess id).updGroup a.gid fun g => { g with unreachable := some (g.unreachable.getD a.va) })

/-- The operation of a TLD whose read faults ends; its other reads are discarded, and the tile is unchanged (R256). -/
def State.dropTileLoad (s : State) (a : Access) : State :=
  match a.kind with
  | .line op _ =>
    { s with
      eng := { s.eng with tileOps := Table.del s.eng.tileOps op }
      run := { s.run with accs := s.run.accs.filter fun p => match p.2.kind with | .line o _ => o != op | _ => true } }
  | _ => s

/-- An imprecise fault ends an access: it is not performed, and its bundle parks; a retired group's fault is only an event
(R98, R143, R183, R214, R304, R424). -/
def execAccessFaulted (id : Nat) (s : State) : Out :=
  match Table.get s.run.accs id with
  | none => .next s
  | some a =>
    match a.fault with
    | none => .next s
    | some c =>
      let s1 := (s.endAccess id).dropTileLoad a
      let count : DWord := match s.group a.gid with | some g => (g.lane a.lane).retired | none => 0
      let s2 := s1.log a.ctx ⟨5, 0, c.num, a.wid, count, leBytes 8 a.va.toNat⟩
      match s2.group a.gid with
      | none => .next (s2.raise a.ctx 1 c.num 0 a.wid0 a.va 0)
      | some g =>
        let g1 := { g with lanes := g.lanes.map fun l => { l with wins := l.wins.filter fun w => w.1 != id } }
        .next ((s2.setGroup a.gid g1).parkImprecise a.gid a.bundle ((maskLanes a.lanes).map fun k => (k, c, a.va))
          ((g.lane a.lane).retired.toNat - a.skid))

/-! ### Uncorrectable data, view blocks (R49, R191) -/

/-- A line holds elements or scales of the view blocks that a leaf of a window maps (R47, R215). -/
def State.behindView (s : State) (line : Nat) (t : Trans) : Bool :=
  match Table.get s.sys.windows (apertureWin t.frame) with
  | some w =>
    let k := apertureBlk t.frame
    let n := 2 ^ t.bits / 32
    w.en && (overlap (64 * line) 64 (w.elem.toNat + w.elSize * k) (w.elSize * n) || overlap (64 * line) 64 (w.scale.toNat + w.scSize * k) (w.scSize * n))
  | none => false

/-- A line lies in a context's tables, in a device or staging frame that they map, or behind a view that they map. -/
def State.reaches (s : State) (line : Nat) : List (Nat × Nat) → Nat → Bool
  | [], _ => false
  | (sh, n) :: r, table =>
    overlap (64 * line) 64 table (8 * 2 ^ n) || (List.range (2 ^ n)).any fun i =>
      let e : DWord := BitVec.ofNat 64 (s.mem.le (table + 8 * i) 8)
      let t : Trans := ⟨e, sh, table + 8 * i⟩
      e.getLsbD 0 && (if e.getLsbD 1 then
          ((t.cls == 0 || t.cls == 4 || t.cls == 5 || t.cls == 6) && overlap (64 * line) 64 t.frame (2 ^ sh)) || (t.cls == 3 && s.behindView line t)
        else s.reaches line r (field e 51 7 * 128))

/-- The context whose memory a device line is: the first whose tables reach it or whose save pool holds it. A line that none does has
no owner that the manual names (R191; log 34). -/
def State.lineOwner (s : State) (line : Nat) : Option Nat :=
  (s.ctx.contexts.find? fun p => s.reaches line pageLevels p.2.record.root.toNat ||
    overlap (64 * line) 64 p.2.record.saveA.toNat p.2.record.saveSz.toNat).map (·.1)

/-- The context of the kernel for which a cache holds a line of host or fabric memory. -/
def State.cacheOwner (s : State) (line : Nat) : Option Nat :=
  let ks := ((s.mem.roCopies.filter fun c : RoCopy => c.line == line).map fun c : RoCopy => c.kernel) ++
    ((s.mem.l1.filter fun x : L1Line => x.line == line).map fun x : L1Line => x.kernel)
  ks.findSome? fun k => (Table.get s.ker.kernels k).map fun k : Kernel => k.ctx

/-- A cache or memory controller finds data it cannot correct: zeros replace the line, in a cache alone where its home is another
device or a host; the partition's counter rises, and the context's guardian receives an event that names the line (R191, R416,
R424). -/
def execUncorrectableData (line : Nat) (s : State) : Out :=
  let zeros : List Byte := List.replicate 64 0
  let cached := { s with mem := { s.mem with
    l1 := s.mem.l1.map fun x => if x.line = line then { x with data := zeros } else x
    roCopies := s.mem.roCopies.map fun c => if c.line = line then { c with data := zeros } else c } }
  let device : Bool := decide (64 * line < Config.deviceBytes)
  let s1 := if device then s.store (64 * line) zeros else cached
  match (if device then s.lineOwner line else s.cacheOwner line) with
  | none => .next s1
  | some c => .next ((s1.count c 17 1).raise c 5 0 0 0 (BitVec.ofNat 64 (64 * line)) 0)

/-- A dirty view block is written back and stays, clean (R49). -/
def execViewBlockWriteback (win blk : Nat) (s : State) : Out :=
  match s.mem.views.find? (fun v => v.win == win && v.blk == blk), Table.get s.sys.windows win with
  | some v, some w =>
    if !v.dirty then .next s
    else
      let t := s.writeBack w v
      .next { t with mem := { t.mem with views := t.mem.views.map fun x => if x.win == win && x.blk == blk then { x with dirty := false } else x } }
  | _, _ => .next s

end Sys2Proof.Machine
end

