-- ==== Sys2Proof/Machine/Page.lean ====
section
/-! DEFINITION. Machine/Page.lean: PROBE, ADVISE, walks and invalidations (10_page.md, R209 to R213, R217, R218). -/

namespace Sys2Proof.Machine

/-! ### PROBE (R217) -/

/-- The fault that a load would meet now: the class check, a view's rules, an origin that has died, a peer that has no route. -/
def State.loadFault (s : State) (ctx : Nat) (t : Trans) (va : DWord) : Option Code :=
  match s.classFault ctx .load t va with
  | some c => some c
  | none =>
    if t.cls = 6 then (match s.touch ctx va with | .error c => some c | .ok _ => none)
    else if t.cls = 2 ∧ s.lnk.route t.num = .none then some .remoteTimeout
    else none

/-- The pulled mask of the sixteen tiles of the 64 KiB piece that holds an address. -/
def State.pulledMask (s : State) (ctx : Nat) (va : DWord) : Nat :=
  match s.stubAt ctx va with
  | none => 0
  | some (_, x) =>
    let first := x.tile va / 16 * 16
    ((List.range 16).map fun i => if x.pulled.contains (first + i) then 2 ^ i else 0).sum

/-- The word that PROBE writes. -/
def State.probe (s : State) (ctx : Nat) (va : DWord) : DWord :=
  match s.walk ctx va with
  | .found t =>
    let lf := s.loadFault ctx t va
    let sf := s.classFault ctx .store t va
    let code := match lf, sf with | some c, _ => c.num | none, some c => c.num | none, none => 0
    let dev := t.cls == 0 || t.cls == 4 || t.cls == 5
    let num := if dev then s.lnk.virtual ((t.frame + va.toNat % 2 ^ t.bits) / Config.stackBytes)
      else if t.cls == 1 || t.cls == 2 || t.cls == 3 then t.num else 0
    let size := if t.bits = 16 then 0 else if t.bits = 21 then 1 else if t.bits = 29 then 2 else 3
    BitVec.ofNat 64 ((if lf.isSome then 2 ^ 63 else 0) + (if sf.isSome then 2 ^ 62 else 0) + code * 2 ^ 56 +
      (if t.cls = 5 then Nat.min (s.holdCount ctx t va) 0xFFFF * 2 ^ 28 else 0) +
      (if t.cls = 6 then s.pulledMask ctx va * 2 ^ 12 else 0) + num * 2 ^ 8 +
      (if t.x then 0x80 else 0) + (if t.w then 0x40 else 0) + size * 2 ^ 4 + t.cls * 2 + 1)
  | _ => 0xD000000000000000

/-- PROBE: a uniform destination is written once. -/
def execProbe (h : Hd) (d : Opnd) (m : Addr) (s : State) : Out :=
  .next (s.later h fun g _ l => { regs := [(d, true, s.probe (s.ctxOf g) (effAddr g l m 0))] })

/-! ### ADVISE (R218) -/

/-- Write back and drop the view blocks of a device range, and drop its .ro copies. -/
def State.evict (s : State) (key n : Nat) : State :=
  let t := s.mem.views.foldl (fun t v => match Table.get s.sys.windows v.win with
    | some w => if v.dirty && overlap key n (Config.apertureBase + v.win * Config.apertureSpan + 32 * v.blk) 32 then t.writeBack w v else t
    | none => t) s
  { t with mem := { t.mem with
    views := t.mem.views.filter fun v => !overlap key n (Config.apertureBase + v.win * Config.apertureSpan + 32 * v.blk) 32
    roCopies := t.mem.roCopies.filter fun c => !overlap key n (64 * c.line) 64 } }

/-- One 64 KiB piece of an advised range. Addresses that would fault are skipped, and held, stub and lost pages. -/
def State.advisePiece (s : State) (g : Group) (adv : Advice) (lo hi : Nat) (piece : Nat) : State :=
  let ctx := s.ctxOf g
  let a := Nat.max lo (piece * 65536)
  let va : DWord := BitVec.ofNat 64 a
  match s.translate ctx .load va with
  | .error _ => s
  | .ok t =>
    if t.cls = 5 ∨ t.cls = 6 ∨ (s.loadFault ctx t va).isSome then s
    else match adv with
      | .tlb => let (s1, t1) := s.setAccessed t false; s1.fillTlb none (dieOf g.core) ctx va t1
      | .evict => s.evict (t.key va) (Nat.min hi ((piece + 1) * 65536) - a)
      | .keep => s

def State.advise (s : State) (g : Group) (adv : Advice) (va : DWord) (len : Nat) : State :=
  let n := Nat.min len (2 * 2 ^ 20)
  if n = 0 then s
  else
    let lo := va.toNat
    (List.range ((lo + n - 1) / 65536 - lo / 65536 + 1)).foldl
      (fun t k => t.advisePiece g adv lo (lo + n) (lo / 65536 + k)) s

def execAdvise (h : Hd) (adv : Advice) (d : Opnd) (m : Addr) (s : State) : Out :=
  match s.current with
  | none => .next s
  | some (i, g) =>
    let src := i.source g
    let s1 := (i.guarded g h).foldl (fun t k => t.advise g adv (effAddr src (src.lane k) m 0) (srcN32 src (src.lane k) d)) s
    .next (s1.lanes h fun _ _ _ => {})

/-! ### Walks (R208, R211) -/

/-- Does an access wait for the walk of a page. -/
def Walk.serves (w : Walk) (bits : Nat) (a : Access) : Bool :=
  !a.sp && a.tr.isNone && a.fault.isNone && a.ctx == w.ctx && dieOf a.core == w.die &&
    a.va.toNat / 2 ^ bits == w.va.toNat / 2 ^ bits

/-- Accesses that the walk ends with a fault. -/
def State.failWalk (s : State) (w : Walk) (c : Code) : State :=
  { s with run := { s.run with accs := s.run.accs.map fun p => (p.1, if w.serves 16 p.2 then { p.2 with fault := some c } else p.2) } }

/-- Accesses that found the walker full begin their walks. -/
def State.nextWalks (s : State) (die : Nat) : State :=
  s.run.accs.foldl (fun t p =>
    if !p.2.sp && p.2.tr.isNone && p.2.fault.isNone && dieOf p.2.core == die then
      t.startWalk p.2.core p.2.ctx p.2.va p.2.kind.writes
    else t) s

/-- Accesses that a walk serves, once it has found a leaf. -/
def State.waitingFor (s : State) (w : Walk) (t : Trans) : Table Access := s.run.accs.filter fun p => w.serves t.bits p.2

/-- It sets DIRTY: a waiting access writes. -/
def State.walkWrites (s : State) (w : Walk) (t : Trans) : Bool := t.w && (s.waitingFor w t).any fun p => p.2.kind.writes

/-- A walk ends with a valid leaf that is not lost: ACC, and DIRTY at a write, are set in the entry, the TLBs are filled, and every access
that waited has its translation. -/
def State.endWalk (s : State) (w : Walk) (t : Trans) : State :=
  let waiting := s.waitingFor w t
  let (s1, t1) := s.setAccessed t (s.walkWrites w t)
  let s2 := s1.fillTlb none w.die w.ctx w.va t1
  let s3 := (waiting.map fun p => p.2.core).eraseDups.foldl (fun x c => x.fillTlb (some c) w.die w.ctx w.va t1) s2
  waiting.foldl (fun x p => match Table.get x.run.accs p.1 with | some a => x.assign p.1 a t1 | none => x) s3

def State.setWalk (s : State) (id : Nat) (w : Walk) : State := { s with mem := { s.mem with walks := Table.set s.mem.walks id w } }

/-- A walk reads its leaf, whole (R211). -/
def execWalkRead (id : Nat) (s : State) : Out :=
  match Table.get s.mem.walks id with
  | none => .next s
  | some w => match s.walk w.ctx w.va with
    | .found t => .next (s.setWalk id { w with read := some t })
    | _ => .next s

/-- The leaf that a walk has read has changed since, and ACC or DIRTY is still to be set in it: the walk begins again (R211). -/
def State.overtaken (s : State) (w : Walk) (t : Trans) : Bool :=
  (!t.leaf.getLsbD 4 || (s.walkWrites w t && !t.leaf.getLsbD 5)) && s.mem.le t.entry 8 != t.leaf.toNat

/-- A walk ends, by the leaf that it has read, or else by the tables as they stand: with a translation, or with a fault. Lost, malformed and
absent entries are not cached (R208, R209, R211). -/
def execWalkComplete (id : Nat) (s : State) : Out :=
  match Table.get s.mem.walks id with
  | none => .next s
  | some w =>
    let s0 := { s with mem := { s.mem with walks := Table.del s.mem.walks id } }
    match (w.read.map WalkEnd.found).getD (s0.walk w.ctx w.va) with
    | .invalid => .next ((s0.failWalk w .pageNotPresent).nextWalks w.die)
    | .malformed ea =>
      .next (((s0.raise w.ctx 1 Code.pageNotPresent.num 0 0 (BitVec.ofNat 64 ea) 0).failWalk w .pageNotPresent).nextWalks w.die)
    | .found t =>
      if t.cls = 7 then .next ((s0.failWalk w .pageLost).nextWalks w.die)
      else if s.overtaken w t then .next (s.setWalk id { w with read := none })
      else .next ((s0.endWalk w t).nextWalks w.die)

/-! ### Invalidations (R210, R212, R213) -/

/-- Does a range of an invalidation hold part of a page. -/
def Inval.covers (v : Inval) (t : Trans) (va : DWord) : Bool :=
  v.len == 0 || overlap v.base.toNat v.len.toNat (2 ^ t.bits * t.page va) (2 ^ t.bits)

/-- A walker drops the leaf that it has read of the range. -/
def Inval.drops (v : Inval) (w : Walk) : Walk :=
  match w.read with | some t => if w.ctx = v.ctx ∧ v.covers t w.va then { w with read := none } else w | none => w

/-- Post an invalidation for a virtual range of a context. The device's own under R210 is posted also where the partition holds 64 already:
R213 counts it against the limit and does not say what then happens (DESIGN CHOICE, log 88). -/
def State.postInval (s : State) (ctx : Nat) (base len : DWord) (ctr : Option Nat) : State :=
  let (id, t) := s.fresh
  { t with mem := { t.mem with invals := t.mem.invals ++ [(id, ⟨ctx, t.partOf ctx, base, len, ctr⟩)] } }

/-- It completes once every access that used a translation of the range has ended, in the order posted within a context; the
TLBs and walkers have dropped the range, the counter it names rises by one, and a stub that was dropped gives up its number and its staging
frames (R212, R363). -/
def execInvalComplete (id : Nat) (s : State) : Out :=
  match Table.get s.mem.invals id with
  | none => .next s
  | some v =>
    let first := s.mem.invals.find? fun p => p.2.ctx == v.ctx
    let used := s.run.accs.any fun p => p.2.ctx == v.ctx && (match p.2.tr with | some t => v.covers t p.2.va | none => false)
    if first != some (id, v) || used then .next s
    else
      let s1 := { s with mem := { s.mem with
        invals := Table.del s.mem.invals id
        walks := s.mem.walks.map fun (p : Nat × Walk) => (p.1, v.drops p.2)
        tlb := s.mem.tlb.filter fun e : TlbEntry => !(e.ctx == v.ctx && v.covers e.tr (BitVec.ofNat 64 (e.page * 2 ^ e.tr.bits))) } }
      let s1 := { s1 with sum := { s1.sum with stubs := s1.sum.stubs.filter fun p : Nat × Stub => p.2.inval != some id } }
      match v.ctr with
      | none => .next s1
      | some k => .next (s1.store k (leBytes 8 ((leNat (s1.load k 8) + 1) % 2 ^ 64)))

end Sys2Proof.Machine
end

