-- ==== Sys2Proof/Machine/Transfer.lean ====
section
/-! DEFINITION. Machine/Transfer.lean: waits of a whole bundle; the block-transfer engine and the streamer (12_transfer.md, R222
to R239; 27_system.md, R426, R427). -/

namespace Sys2Proof.Machine

/-! ### A bundle that waits as one (R64, R93) -/

/-- The wait as a lane keeps it whose guard is false: it receives no result. -/
def WaitKind.mute (k : WaitKind) : WaitKind :=
  match k with
  | .tags _ m e => .tags .absent m e
  | .svcw _ x => .svcw .absent x
  | .checkpoint _ x => .checkpoint .absent x
  | x => x

/-- Every active lane waits at an instruction that executes once for the bundle; its results go to the lanes whose guard holds. -/
def State.stallBundle (s : State) (i : Issue) (g : Group) (h : Hd) (w : Wait) : State :=
  let ks := i.guarded g h
  s.setGroup i.gid (g.updLanes i.lanes fun l => l |> fun l => { l with since := none, st := .stalled { w with kind := w.kind.mute, result := .absent, muted := true } })
    |>.updGroup i.gid fun g => g.updLanes (laneMask ks) fun l => { l with st := .stalled w }

/-- The bundle's wait ends: each lane that waits there has its effect, retires and moves on (R93, R407). -/
def State.resumeAll (s : State) (gid lane : Nat) (f : Nat → Wait → Eff) : State :=
  match s.group gid with
  | none => s
  | some g =>
    let ks := maskLanes (g.waitersWith lane)
    let es := ks.filterMap fun k => match (g.lane k).st with | .stalled w => some (k, f k w) | _ => none
    let woken := g.updLanes (laneMask ks) fun l => { l with st := .running }
    let g1 := (woken.applyAll es).updLanes (laneMask ks) fun l => l.retire.arrive (succPc l.pc)
    (s.setGroup gid g1.settle).retirements (s.ctxOf g) ks.length

/-! ### Values that engines read -/

/-- A value that an engine reads is recorded: from host and fabric addresses, and from lines that a group wrote (R408). -/
def State.engineKeeps (s : State) (ctx : Nat) (t : Trans) (va : DWord) : Bool :=
  t.remote || (Table.get s.mem.writers (ctx * 2 ^ 96 + t.key va / 64)).isSome

/-- The service requests of R230: faults that wait for a guardian. -/
def Code.serviced (c : Code) : Bool := c == .pageNotPresent || c == .pageLost

/-! ### BTL and BTS (R222 to R227) -/

/-- The transfer that holds a tag BUSY. -/
def State.busyTag (s : State) (gid tag : Nat) : Option (Nat × Transfer) :=
  s.eng.transfers.find? fun p => p.2.gid == gid && p.2.tag == tag

/-- Rows and units of a shape, memory and scratchpad strides (R225). -/
def shapeOf (g : Group) (l : Lane) (c e : Opnd) : Nat × Nat × Int × Nat :=
  let (rows, units) := match c with
    | .imm x => (1, x.toNat)
    | _ => let r := readOp g l true c; (field r 31 16, field r 15 0)
  match e with
  | .absent => (rows, units, units * 64, units * 64)
  | _ => let r := readOp g l true e; (rows, units, ((r.setWidth 32 : BitVec 32)).toInt, field r 63 32)

/-- The group's tag starts over (R223). That it has been observed in ERROR stays known (R230). -/
def Group.clearTag (g : Group) (t : Nat) : Group :=
  { g with tags := g.tags &&& ~~~(1#64 <<< t), terr := g.terr &&& ~~~(1#64 <<< t), tagFault := Table.del g.tagFault t }

def Group.readyTag (g : Group) (t : Nat) : Group := { g with tags := g.tags ||| (1#64 <<< t) }

def Group.errorTag (g : Group) (t : Nat) (c : Code) (a : DWord) : Group :=
  { g with tags := g.tags ||| (1#64 <<< t), terr := g.terr ||| (1#64 <<< t), tagFault := Table.set g.tagFault t (c, a) }

/-- BTL and BTS at issue: the precise checks, the waits, and the transfer enters its queue (R226). -/
def State.blockTransfer (s : State) (h : Hd) (load : Bool) (hint : Hint) (rel : Bool) (d a b c e : Opnd) : State :=
  s.once h fun s i g k =>
    let src := i.source g
    let l := src.lane k
    let tag := (readOp src l true d).toNat
    let m := readOp src l true a
    let sp := srcN32 src l b
    let (rows, units, ms, ss) := shapeOf src l c e
    if 64 ≤ tag then s.trapGuarded i g h .resourceBound 0
    else if m.toNat % 64 ≠ 0 ∨ ms % 64 ≠ 0 then s.trapGuarded i g h .alignment m
    else if sp % 64 ≠ 0 ∨ ss % 64 ≠ 0 then s.trapGuarded i g h .alignment (BitVec.ofNat 64 sp)
    else if 0 < rows ∧ 0 < units ∧ s.allot g < sp + (rows - 1) * ss + units * 64 then
      s.trapGuarded i g h .scratchBounds (BitVec.ofNat 64 sp)
    else if (s.busyTag i.gid tag).isSome then s.waitAtIssue i 6
    else if 16 ≤ (s.eng.transfers.filter fun p => p.2.core == g.core && p.2.load == load).length then s.waitAtIssue i 11
    else if rel && !s.reached i.gid .die (s.earlier i g) then s.waitAtIssue i 2
    else
      let s := if rel then s.settleOlds g.team i.gid .die s.sch.nextId else s
      let s1 := s.updGroup i.gid fun x => x.clearTag tag
      if rows = 0 ∨ units = 0 then (s1.updGroup i.gid fun x => x.readyTag tag).lanes h fun _ _ _ => {}
      else
        let (id, s2) := s1.fresh
        let x : Transfer := ⟨i.gid, g.core, g.team, s.ctxOf g, s.wid g 0, tag, load, m, sp, rows, units, ms, ss, hint, [], [], none, 0⟩
        ({ s2 with eng := { s2.eng with transfers := s2.eng.transfers ++ [(id, x)] } }).lanes h fun _ _ _ => {}

def execBtl (h : Hd) (hint : Hint) (rel : Bool) (d a b c e : Opnd) (s : State) : Out :=
  .next (s.blockTransfer h true hint rel d a b c e)

def execBts (h : Hd) (hint : Hint) (rel : Bool) (d a b c e : Opnd) (s : State) : Out :=
  .next (s.blockTransfer h false hint rel d a b c e)

/-- Memory address and scratchpad offset of a unit. -/
def Transfer.memAt (x : Transfer) (k : Nat) : DWord :=
  x.mem + BitVec.ofInt 64 ((k / x.units : Nat) * x.mstride) + BitVec.ofNat 64 (64 * (k % x.units))

def Transfer.spAt (x : Transfer) (k : Nat) : Nat := x.sp + k / x.units * x.sstride + 64 * (k % x.units)

/-- What a unit, or one word of it, meets at its memory. -/
def State.unitMeet (s : State) (id : Nat) (x : Transfer) (k : Nat) : Meet :=
  if x.load then s.engineRead x.ctx (x.memAt k) 64 (dieOf x.core) else s.engineWrite x.ctx (x.memAt k) 64 (some id) (dieOf x.core)

/-- A transfer has begun: it has moved a unit, or read a word. -/
def Transfer.begun (x : Transfer) : Bool := !(x.done.isEmpty && x.got.isEmpty)

/-- The engine may serve a transfer: its team and group are not saved or in transit, and it waits for no service (R230, R239). -/
def State.transferOpen (s : State) (x : Transfer) : Bool :=
  (match s.group x.gid with | some g => g.st == .resident || g.st == .parked | none => true) &&
  (match Table.get s.run.teams x.team with | some t => !t.saved | none => true) && x.fault.isNone

/-- The entries of a queue, in the order in which they came: 16 at most; what a restore brings beyond them waits for one (R222, R239). -/
def State.transferQueue (s : State) (core : Nat) (load : Bool) : Table Transfer :=
  (s.eng.transfers.filter fun p => p.2.core == core && p.2.load == load).take 16

/-- A transfer runs: it is among the four of its queue that are served, which are those begun before it and then itself (R222). -/
def State.transferRuns (s : State) (id : Nat) (x : Transfer) : Bool :=
  let q := s.transferQueue x.core x.load
  let ahead := if x.begun then q.takeWhile (fun p => p.1 != id) else q.filter fun p => p.1 != id
  s.transferOpen x && q.any (fun p => p.1 == id) && decide ((ahead.filter fun p => p.2.begun && s.transferOpen p.2).length < 4)

/-- The engine has read a word of a unit that is not performed. -/
def Transfer.midUnit (x : Transfer) (unit : Nat) : Bool := x.got.any fun p => p.1 / 16 == unit

/-- A pre-emption of the team is under way: no further unit begins (R239). -/
def State.unitsStop (s : State) (x : Transfer) : Bool := ((Table.get s.run.teams x.team).map (·.stopping)).getD false

/-- A unit may move: it exists and is left, the transfer runs and does not stop before it, and of a store no line far ahead of those written
is owned (R226, R238, R239). -/
def State.unitRuns (s : State) (id : Nat) (x : Transfer) (unit : Nat) : Bool :=
  decide (unit < x.rows * x.units) && !x.done.contains unit && s.transferRuns id x && (!s.unitsStop x || x.midUnit unit) &&
  (x.load || decide (unit < x.done.length + 256))

/-- A load stands within a unit that it can finish: a save waits for it. One that waits for service begins the unit anew (R230, R239). -/
def Transfer.unitOpen (x : Transfer) : Bool := x.load && !x.got.isEmpty && x.fault.isNone

def State.setTransfer (s : State) (id : Nat) (x : Transfer) : State :=
  { s with eng := { s.eng with transfers := Table.set s.eng.transfers id x } }

/-- A transfer is complete: its tag becomes READY and its queue entry is free (R223). -/
def State.finishTransfer (s : State) (id : Nat) (x : Transfer) : State :=
  ({ s with eng := { s.eng with transfers := Table.del s.eng.transfers id } }.updGroup x.gid fun g => g.readyTag x.tag).ownOlds x.team x.gid id

/-- Bytes with the words laid over them that an engine read ahead, from word number n on. -/
def withWords (got : Table (List Byte)) (n : Nat) (b : List Byte) : List Byte :=
  (List.range (b.length / 4)).flatMap fun k => (Table.get got (n + k)).getD ((b.drop (4 * k)).take 4)

/-- Perform a unit, through a translation (R226, R227). A word that was read ahead keeps the value it had then. -/
def State.moveUnit (s : State) (id : Nat) (x : Transfer) (unit : Nat) (t : Trans) : State :=
  if x.load then
    let (s0, b0) := s.readAt x.ctx t (x.memAt unit) 64
    let (s2, b) := s0.engineValue x.ctx x.wid0 unit (s.engineKeeps x.ctx t (x.memAt unit)) (withWords x.got (16 * unit) b0)
    -- a word read ahead stands in scratchpad since then
    let left := (List.range 16).filter fun k => (Table.get x.got (16 * unit + k)).isNone || s.replaying x.ctx
    (left.foldl (fun u k => u.engineSp x.team (x.spAt unit + 4 * k) ((b.drop (4 * k)).take 4) id) s2).tagSegments x.ctx x.team (x.spAt unit) 64 x.wid0
  else
    let (s0, b0) := s.spWords x.team (x.spAt unit) 16
    let put (u : State) : State := u.writeAt x.ctx t (x.memAt unit) (withWords x.got (16 * unit) b0)
    (if t.remote then s0.outside x.ctx (engineEffect (x.memAt unit)) put else put s0).tagAs x.ctx (x.ctx * 2 ^ 96 + t.key (x.memAt unit) / 64) x.wid0

/-- One 64-byte unit is performed; with the last one the transfer is complete (R226, R227). A unit on a stub tile that has not
been pulled begins the pull (R360); one at a held page takes its place among the writes that stall there (R210). -/
def execTransferUnitPerformed (id unit : Nat) (s : State) : Out :=
  match Table.get s.eng.transfers id with
  | none => .next s
  | some x =>
    if !s.unitRuns id x unit then .next s
    else match s.unitMeet id x unit with
      | .fault _ => .next s
      | .wait => .next (if x.load then s.startPull x.ctx (x.memAt unit) else s.stallHeld x.ctx (x.memAt unit) id)
      | .ok t =>
        let s1 := (s.moveUnit id x unit t).unstallAt x.ctx (x.memAt unit) id
        let x1 := { x with done := unit :: x.done, got := x.got.filter fun p => p.1 / 16 != unit }
        if x1.done.length = x.rows * x.units then .next (s1.finishTransfer id x1) else .next (s1.setTransfer id x1)

/-- The engine reads one word ahead of its unit; of a load, the word is written as well. Each word is read once (R226, R227). -/
def State.transferWord (s : State) (id : Nat) (x : Transfer) (n : Nat) : State :=
  let unit := n / 16
  if !s.unitRuns id x unit ∨ (Table.get x.got n).isSome ∨ s.replaying x.ctx then s
  else match s.unitMeet id x unit with
    | .ok t =>
      if x.load then
        let (s1, b) := s.readAt x.ctx t (x.memAt unit + BitVec.ofNat 64 (4 * (n % 16))) 4
        ((s1.engineSp x.team (x.spAt unit + 4 * (n % 16)) b id).tagSegments x.ctx x.team (x.spAt unit) 64 x.wid0).setTransfer id
          { x with got := Table.set x.got n b }
      else
        let (s1, b) := s.spWord x.team (x.spAt unit + 4 * (n % 16))
        s1.setTransfer id { x with got := Table.set x.got n b }
    | _ => s

/-- A save stops a transfer at a unit boundary: what it has read of a unit that it has not performed does not count. Its place in the queue
of the core is free (R239). -/
def Transfer.save (x : Transfer) : Transfer := { x with core := Config.cores, got := [] }

/-- The first unit left that meets a fault. -/
def State.unitFault (s : State) (id : Nat) (x : Transfer) : Option (Code × DWord) :=
  (List.range (x.rows * x.units)).findSome? fun k =>
    if x.done.contains k then none
    else match s.unitMeet id x k with | .fault c => some (c, x.memAt k) | _ => none

/-- DETAIL of a TRANSFER event: a service request, the tag or 0xFF, the chain channel (R230, R237, R424). -/
def transferDetail (serviced : Bool) (tag chan : Nat) : DWord := BitVec.ofNat 64 ((if serviced then 2 ^ 63 else 0) + chan * 256 + tag)

/-- A transfer ends in error: its tag goes to ERROR with the code and the address (R230). A group that has retired observes no
tag: its guardian is told at once. -/
def State.failTransfer (s : State) (id : Nat) (x : Transfer) (c : Code) (a : DWord) : State :=
  let s1 := { s with eng := { s.eng with transfers := Table.del s.eng.transfers id } }
  match s1.group x.gid with
  | some _ => s1.updGroup x.gid fun g => g.errorTag x.tag c a
  | none => s1.raise x.ctx 6 c.num 0 x.wid0 a (transferDetail false x.tag 0)

/-- A fault met by a block transfer: a service request on which it waits, or its end in error (R230, R304). Of a transfer that
waits for service, it is the guardian's refusal, for which the manual names no message (log 83). -/
def execTransferError (id : Nat) (s : State) : Out :=
  match Table.get s.eng.transfers id with
  | none => .next s
  | some x =>
    match x.fault with
    | some (c, a) => .next (s.failTransfer id x c a)
    | none =>
      if !s.transferRuns id x then .next s
      else match s.unitFault id x with
        | none => .next s
        | some (c, a) =>
          let s := s.noteMalformed x.ctx a
          if c.serviced then
            .next (((s.setTransfer id { x with fault := some (c, a) }).raise x.ctx 6 c.num 0 x.wid0 a (transferDetail true x.tag 0)).needService x.ctx)
          else .next (s.failTransfer id x c a)

/-! ### Waiting on tags (R228 to R230) -/

def tagsMet (g : Group) (mask : DWord) (every : Bool) : Bool :=
  if every then g.tags &&& mask == mask else g.tags &&& mask != 0

/-- The lowest ERROR tag that an observation of a mask meets. -/
def Group.errorIn (g : Group) (mask : DWord) : Option (Nat × Code × DWord) :=
  (List.range 64).findSome? fun t =>
    if (g.tags &&& g.terr &&& mask).getLsbD t then (Table.get g.tagFault t).map fun r => (t, r.1, r.2) else none

/-- The ERROR tags of a mask have been observed, whether or not that faults, and stay so (R230). -/
def Group.observe (g : Group) (mask : DWord) : Group := { g with tagSeen := g.tagSeen ||| (g.tags &&& g.terr &&& mask) }

/-- What a lane of TWANY or TWALL receives for the ready tags seen. -/
def tagEff (seen mask : DWord) (every : Bool) (d e : Opnd) : Eff :=
  { regs := [(d, true, seen)], preds := [(e, if every then seen == mask else seen != 0)] }

/-- The ready tags that a tag wait ends with, once it does, at once for a mask of 0: in a replay those of the log, when they are READY (R408, R410). -/
def State.tagsSeen (s : State) (g : Group) (k : Nat) (mask : DWord) (every expired : Bool) : Option DWord :=
  match s.logged (s.ctxOf g) 7 (s.wid g k) (g.lane k).retired with
  | some r =>
    let seen : DWord := BitVec.ofNat 64 (leNat r.data)
    if g.tags &&& seen == seen then some seen else none
  | none => if tagsMet g mask every || mask == 0 || expired then some (g.tags &&& mask) else none

/-- The tag that an observation of the ready tags seen faults on: only where the condition holds. -/
def tagFaultOf (g : Group) (seen mask : DWord) (every : Bool) : Option (Code × DWord) :=
  if (if every then seen == mask else seen != 0) then (g.errorIn seen).map fun r => r.2 else none

def State.tagWait (s : State) (h : Hd) (every : Bool) (d a b e : Opnd) : State :=
  s.once h fun s i g k =>
    let src := i.source g
    let mask := readOp src (src.lane k) true a
    let lim := limitOf src (src.lane k) b
    match s.tagsSeen g k mask every false with
    | none => s.stallBundle i g h ⟨.tags d mask every, s.tagReason i.gid mask, lim, e, i.word, false, false⟩
    | some seen =>
      let s1 := (s.settleResult g k (leBytes 8 seen.toNat)).1
      (match tagFaultOf g seen mask every with
      | some (c, x) => s1.trapGuarded i g h c x
      | none => s1.lanes h fun _ _ _ => tagEff seen mask every d e).updGroup i.gid fun y => y.observe seen

def execTwany (h : Hd) (d a b e : Opnd) (s : State) : Out := .next (s.tagWait h false d a b e)

def execTwall (h : Hd) (d a b e : Opnd) (s : State) : Out := .next (s.tagWait h true d a b e)

/-- The tag that TFIRST finds: in a replay the log's. -/
def State.firstTag (s : State) (g : Group) (k : Nat) (mask : DWord) : Nat :=
  match s.logged (s.ctxOf g) 7 (s.wid g k) (g.lane k).retired with
  | some r => leNat r.data
  | none => ((List.range 64).find? fun t => (g.tags &&& mask).getLsbD t).getD 64

/-- TFIRST never waits; a tag found in ERROR faults. A replay lets the transfer of the logged tag end first. -/
def execTfirst (h : Hd) (d a e : Opnd) (s : State) : Out :=
  .next (s.once h fun s i g k =>
    let src := i.source g
    let t := s.firstTag g k (readOp src (src.lane k) true a)
    let bit : DWord := if t < 64 then 1#64 <<< t else 0
    if g.tags &&& bit != bit then s.waitAtIssue i 6
    else
      let s1 := (s.settleResult g k (leBytes 8 t)).1
      match g.errorIn bit with
      | some (_, c, x) => (s1.trapGuarded i g h c x).updGroup i.gid fun y => y.observe bit
      | none => s1.later h fun _ _ _ => { regs := [(d, false, BitVec.ofNat 64 t)], preds := [(e, decide (t < 64))] })

/-- TCLR makes READY and ERROR tags of the mask IDLE. -/
def execTclr (h : Hd) (a : Opnd) (s : State) : Out :=
  .next (s.once h fun s i g k =>
    let src := i.source g
    let mask := readOp src (src.lane k) true a
    (s.updGroup i.gid fun x => { x with
      tags := x.tags &&& ~~~mask
      terr := x.terr &&& ~~~mask
      tagFault := x.tagFault.filter fun r => !mask.getLsbD r.1 }).lanes h fun _ _ _ => {})

/-! ### The streamer (R231 to R238) -/

def Config.streamQueue : Nat := 64

/-- The kernel that a group belongs to, and its streamer weight. -/
def State.kernelIdx (s : State) (g : Group) : Nat := match s.teamOf g with | some t => t.kernel | none => 0

def State.kernelWeight (s : State) (g : Group) : Nat :=
  match Table.get s.ker.kernels (s.kernelIdx g) with | some k => k.hdr.strw | none => 1

/-- The streamer work of a context has been saved (R239). -/
def State.streamsSaved (s : State) (ctx : Nat) : Bool :=
  match Table.get s.ctx.contexts ctx with | some c => c.st == .suspended && !c.suspending | none => false

/-- Entries of a cluster's streamer queue that are taken: saved work holds none. -/
def State.queuedStreams (s : State) (cluster : Nat) : Table Stream :=
  s.eng.streams.filter fun p => p.2.cluster == cluster && p.2.chan.isNone && !s.streamsSaved p.2.ctx

/-- STRQ at issue: the values tested in the order destination, source, length, counter (R232). -/
def execStrq (h : Hd) (hint : Hint) (rel sfl dfl : Bool) (d a b c e : Opnd) (s : State) : Out :=
  .next (s.once h fun s i g k =>
    let src := i.source g
    let r (x : Opnd) : DWord := readOp src (src.lane k) true x
    let unit (flash : Bool) : Nat := if flash then 4096 else 4
    let len := (r b).toNat
    let bad (x : Nat) (flash : Bool) : Bool := x % unit flash != 0
    let ctr := if c.isAbsent then 0 else r c
    let cluster := clusterOf g.core
    if 2 ^ 40 < len then s.trapGuarded i g h .resourceBound 0
    else if bad (r d).toNat dfl then s.trapGuarded i g h .alignment (r d)
    else if bad (r a).toNat sfl then s.trapGuarded i g h .alignment (r a)
    else if bad len (sfl || dfl) then s.trapGuarded i g h .alignment (r b)
    else if ctr.toNat % 8 ≠ 0 then s.trapGuarded i g h .alignment ctr
    else if Config.streamQueue ≤ (s.queuedStreams cluster).length then s.waitAtIssue i 11
    else if rel && !s.reached i.gid .die (s.earlier i g) then s.waitAtIssue i 2
    else
      let (id, s1) := s.fresh
      let x : Stream := ⟨cluster, s.ctxOf g, s.kernelIdx g, s.kernelWeight g, r d, r a, len, if c.isAbsent then none else some ctr,
        if e.isAbsent then 1 else r e, sfl, dfl, hint, none, 0, 0, [], [], 0, none, false, 0⟩
      ({ s1 with eng := { s1.eng with streams := s1.eng.streams ++ [(id, x)] } }).lanes h fun _ _ _ => {})

/-- What a byte offset of a flash side meets: the memory key, or PAGE_PROTECTION past the partition's range, past the module's 8 TB or
without flash (R426). -/
def State.flashAt (s : State) (ctx : Nat) (off : Nat) : Option Nat :=
  match Table.get s.sys.flash (s.partOf ctx) with
  | some (base, size) =>
    if s.sys.module && decide (off < size.toNat * 4096) && decide (base.toNat * 4096 + off < Config.flashBytes) then
      some (flashKey (base.toNat * 4096 + off))
    else none
  | none => none

/-- One side of a piece: what it meets, and its memory key. -/
inductive Side where
  | at (key : Nat) (t : Option Trans)
  | wait
  | fault (c : Code)

def State.side (s : State) (ctx : Nat) (write flash : Bool) (a : DWord) (n id : Nat) : Side :=
  if flash then (match s.flashAt ctx a.toNat with | some k => .at k none | none => .fault .pageProtection)
  else match (if write then s.engineWrite ctx a n (some id) else s.engineRead ctx a n) with
    | .ok t => .at (t.key a) (some t)
    | .wait => .wait
    | .fault c => .fault c

/-- How a piece, or a step after the data, ends: with the state after it; waiting, with the address it waits at; or with a fault. -/
inductive CopyEnd where
  | done (s : State)
  | wait (write : Bool) (a : DWord)
  | fault (c : Code) (a : DWord)

/-! #### Pieces of a transfer: the parts of its destination lines -/

def Stream.count (x : Stream) : Nat := if x.len = 0 then 0 else (x.dst.toNat % 64 + x.len + 63) / 64

/-- Where a piece starts, counted from the transfer's first byte, and its size. -/
def Stream.start (x : Stream) (k : Nat) : Nat := 64 * k - x.dst.toNat % 64

def Stream.size (x : Stream) (k : Nat) : Nat := Nat.min x.len (64 * (k + 1) - x.dst.toNat % 64) - x.start k

def Stream.dstAt (x : Stream) (k : Nat) : DWord := x.dst + BitVec.ofNat 64 (x.start k)

/-- The source address of a word; the words of a piece; the piece of a word. -/
def Stream.wordAt (x : Stream) (w : Nat) : DWord := x.src + BitVec.ofNat 64 (4 * w)

def Stream.words (x : Stream) (k : Nat) : List Nat := (List.range (x.size k / 4)).map (x.start k / 4 + ·)

def Stream.pieceOf (x : Stream) (w : Nat) : Nat := (x.dst.toNat % 64 + 4 * w) / 64

/-- Every byte has been moved (R236, step 1). -/
def Stream.moved (x : Stream) : Bool := decide (x.count ≤ x.done.length)

/-- Work on a transfer has begun. -/
def Stream.begun (x : Stream) : Bool := !(x.done.isEmpty && x.got.isEmpty) || x.phase != 0

/-- A piece's 4 KiB of the destination have been begun: streamer work stops where none is (R239). -/
def Stream.blockBegun (x : Stream) (k : Nat) : Bool := x.done.any fun j => (x.dstAt j).toNat / 4096 == (x.dstAt k).toNat / 4096

/-- A value that a word's side gives, and whether a log keeps it (R408). -/
def State.sideKeeps (s : State) (ctx : Nat) (x : Side) (a : DWord) : Bool :=
  match x with | .at _ (some t) => s.engineKeeps ctx t a | _ => false

/-- Read a word of the source, unless it has been read (R227: once). -/
def State.takeWord (s : State) (id : Nat) (x : Stream) (w : Nat) : State × List Byte :=
  match Table.get x.got w, s.side x.ctx false x.sfl (x.wordAt w) 4 id with
  | some b, _ => (s, b)
  | none, .at k (some t) => (s.through 8 x.ctx (x.wordAt w) t false, s.load k 4)
  | none, .at k none => (s, s.load k 4)
  | none, _ => (s, [])

def State.takeWords (s : State) (id : Nat) (x : Stream) : List Nat → State × List Byte
  | [] => (s, [])
  | w :: r =>
    let (s1, b) := s.takeWord id x w
    let (s2, c) := State.takeWords s1 id x r
    (s2, b ++ c)

/-- Write a destination side; a replay suppresses what lies outside device memory (R410). -/
def State.sidePut (s : State) (ctx : Nat) (x : Side) (a : DWord) (b : List Byte) : State :=
  match x with
  | .at _ (some t) => if t.remote then s.outside ctx (engineEffect a) fun u => u.writeAt ctx t a b else s.writeAt ctx t a b
  | .at k none => s.outside ctx (engineEffect a) fun u => u.store k b
  | _ => s

/-- Move a piece: read what has not been read, and write it whole (R232, R238). -/
def State.pieceEnd (s : State) (id : Nat) (x : Stream) (k : Nat) : CopyEnd :=
  let stops := (x.words k).findSome? fun w =>
    if (Table.get x.got w).isSome then none
    else match s.side x.ctx false x.sfl (x.wordAt w) 4 id with
      | .at _ _ => none
      | .wait => some (CopyEnd.wait false (x.wordAt w))
      | .fault c => some (CopyEnd.fault c (x.wordAt w))
  match stops, s.side x.ctx true x.dfl (x.dstAt k) (x.size k) id with
  | some e, _ => e
  | none, .wait => .wait true (x.dstAt k)
  | none, .fault c => .fault c (x.dstAt k)
  | none, d =>
    let keep := (x.words k).any fun w => s.sideKeeps x.ctx (s.side x.ctx false x.sfl (x.wordAt w) 4 id) (x.wordAt w)
    let (s1, b) := s.takeWords id x (x.words k)
    let (s2, v) := s1.engineValue x.ctx (x.dstAt k) 0 keep b
    .done (s2.sidePut x.ctx d (x.dstAt k) v)

/-! #### Whose work is served (R231) -/

/-- A suspended context's streamer work, and that of one that comes to a checkpoint boundary, stands still (R239). -/
def State.streamsStopped (s : State) (ctx : Nat) : Bool :=
  (match Table.get s.ctx.contexts ctx with | some c => c.st == .suspended | none => true) ||
  (match Table.get s.ckp.ints ctx with | some i => i.st == .quiescing | none => false)

/-- A piece is left, and may be moved: its work waits for no service and does not stand still, and no line far ahead of those written
is owned (R238, R239). -/
def State.pieceRuns (s : State) (x : Stream) (k : Nat) : Bool :=
  decide (k < x.count) && !x.done.contains k && decide (k < x.done.length + 256) && x.fault.isNone && !x.reading &&
  (!s.streamsStopped x.ctx || x.blockBegun k)

/-- A transfer has a piece that could be moved now, of at most n bytes. -/
def State.streamReady (s : State) (id : Nat) (x : Stream) (n : Nat) : Bool :=
  (List.range x.count).any fun k => decide (x.size k ≤ n) && s.pieceRuns x k &&
    match s.pieceEnd id x k with | .done _ => true | _ => false

/-- A transfer is in progress: it has begun, waits for no service, and does not stand still at a boundary (R231, R237, R239). -/
def State.inProgress (s : State) (x : Stream) : Bool :=
  x.begun && x.fault.isNone && (!s.streamsStopped x.ctx || (List.range x.count).any fun k => !x.done.contains k && x.blockBegun k)

/-- Work is begun in the order posted within a kernel; at most eight transfers of a streamer are in progress, those that began first among
them. Work that cannot move holds up none. -/
def State.streamTurn (s : State) (id : Nat) (x : Stream) : Bool :=
  let mine := s.eng.streams.filter fun p => p.2.cluster == x.cluster
  let ahead := if x.begun then mine.takeWhile (fun p => p.1 != id) else mine
  decide ((ahead.filter fun p => s.inProgress p.2).length < 8) && (x.begun ||
    s.eng.streams.all fun p => !(decide (p.1 < id) && p.2.cluster == x.cluster && p.2.kernel == x.kernel && !p.2.begun &&
      s.streamReady p.1 p.2 64))

/-- A kernel has work in a streamer that could be moved now, in pieces of at most n bytes. -/
def State.kernelStreams (s : State) (cluster kernel n : Nat) : Bool :=
  s.eng.streams.any fun p => p.2.cluster == cluster && p.2.kernel == kernel && s.streamTurn p.1 p.2 && s.streamReady p.1 p.2 n

/-- The kernel whose turn comes next: by number, in a circle. -/
def State.nextStreamKernel (s : State) (cluster after : Nat) : Option Nat :=
  let ks := ((s.eng.streams.filter fun p => p.2.cluster == cluster).map (·.2.kernel)).filter fun k => s.kernelStreams cluster k 64
  match (ks.filter fun k => decide (after < k)).min? with | some k => some k | none => ks.min?

/-- The round after n bytes of a kernel, if it may move them now: it has bytes left of its turn, or the turn of another is over and its
own begins, with its weight × 4 KiB. -/
def State.takeTurn (s : State) (x : Stream) (n : Nat) : Option Round :=
  let r := (Table.get s.eng.rounds x.cluster).getD ⟨0, 0⟩
  if r.kernel = x.kernel ∧ n ≤ r.left then some { r with left := r.left - n }
  else if s.kernelStreams x.cluster r.kernel r.left then none
  else if s.nextStreamKernel x.cluster r.kernel = some x.kernel then some ⟨x.kernel, x.weight * 4096 - n⟩
  else none

/-! #### The steps after the data (R236) -/

/-- Write bytes of a chain record, once its page takes a write. -/
def State.writeRecord (s : State) (id : Nat) (x : Stream) (off : Nat) (b : List Byte) : CopyEnd :=
  let a := x.recVa + BitVec.ofNat 64 off
  match s.engineWrite x.ctx a b.length (some id) with
  | .ok t => .done (s.writeAt x.ctx t a b)
  | .wait => .wait true a
  | .fault c => .fault c x.recVa

/-- The release at system scope that a streamer makes (R236, R323). -/
def State.streamRel (s : State) (x : Stream) : Rel := ⟨.streamer x.cluster, .sys, s.mem.ver, s.sch.nextId⟩

/-- Add to the counter that a transfer names, once its home takes a write: a release for the steps before it (R236). A peer without a route
ends it as its reply timer does (R341), and a host may decline (R202). -/
def State.addCounter (s : State) (id : Nat) (x : Stream) : CopyEnd :=
  match x.ctr with
  | none => .done s
  | some a =>
    match s.translate x.ctx .atomic a, s.engineWrite x.ctx a 32 (some id) with
    | .error c, _ => .fault c a
    | _, .fault c => .fault (if c = .peerUnreachable then .remoteTimeout else c) a
    | _, .wait => .wait true a
    | _, .ok t => match s.hostDeclines t with
      | (_, true) => .fault .atomicUnsupported a
      | (s1, false) =>
        let old := relsOf s1.mem.marks (t.key a) 8
        .done ((s1.writeAt x.ctx t a (leBytes 8 ((leNat (s1.load (t.key a) 8) + x.add.toNat) % 2 ^ 64))).mark (t.key a) 8
          (s1.streamRel x :: old))

/-- The steps by number: STATUS DONE, the counter, OWN, whose store is a release (R236). -/
def State.phaseEnd (s : State) (id : Nat) (x : Stream) (phase : Nat) : CopyEnd :=
  match phase with
  | 0 => if x.chan.isSome then s.writeRecord id x 52 (leBytes 4 0x80000000) else .done s
  | 1 => s.addCounter id x
  | _ =>
    if x.chan.isSome then
      (match s.vload x.ctx (x.recVa + 48) 1 with
      | .ok b => match s.writeRecord id x 48 (leBytes 1 (leNat b / 2 * 2)) with
        | .done s1 => .done (match s1.translate x.ctx .store (x.recVa + 48) with
          | .ok t => s1.mark (t.key (x.recVa + 48)) 4 [s1.streamRel x]
          | .error _ => s1)
        | e => e
      | .error c => .fault c x.recVa)
    else .done s

/-- Perform steps from one on, in order: the state, the next step, and what stops it. -/
def State.phases (s : State) (id : Nat) (x : Stream) : Nat → Nat → State × Nat × Option CopyEnd
  | 0, p => (s, p, none)
  | n + 1, p =>
    match s.phaseEnd id x p with
    | .done s1 => State.phases s1 id x n (p + 1)
    | e => (s, p, some e)

def State.setStream (s : State) (id : Nat) (x : Stream) : State :=
  { s with eng := { s.eng with streams := Table.set s.eng.streams id x } }

/-- A wait begins: the pull of a stub tile, or a place among the writes that stall at a held page (R210, R360). -/
def State.streamWait (s : State) (id : Nat) (x : Stream) (e : CopyEnd) : State :=
  match e with
  | .wait false a => s.startPull x.ctx a
  | .wait true a => s.stallHeld x.ctx a id
  | _ => s

/-- The streamer moves a piece in its kernel's turn; with every piece moved, it performs the next step but the last. -/
def execStreamPiece (id k : Nat) (s : State) : Out :=
  match Table.get s.eng.streams id with
  | none => .next s
  | some x =>
    if !s.streamTurn id x then .next s
    else if x.moved then
      (if x.fault.isSome ∨ x.reading ∨ s.streamsStopped x.ctx ∨ 2 ≤ x.phase then .next s
       else match s.phases id x 1 x.phase with
        | (s1, p, e) => .next ((s1.setStream id { x with phase := p }).streamWait id x (e.getD (.done s1))))
    else if !s.pieceRuns x k then .next s
    else match s.pieceEnd id x k with
      | .done s1 =>
        (match s.takeTurn x (x.size k) with
        | none => .next s
        | some r =>
          let s2 := (s1.unstallAt x.ctx (x.dstAt k) id).setStream id { x with
            done := k :: x.done, got := x.got.filter fun p => x.pieceOf p.1 != k }
          .next { s2 with eng := { s2.eng with rounds := Table.set s2.eng.rounds x.cluster r } })
      | e => .next (s.streamWait id x e)

/-- The streamer reads a word ahead of its piece. -/
def State.streamWord (s : State) (id : Nat) (x : Stream) (w : Nat) : State :=
  if !s.streamTurn id x ∨ !s.pieceRuns x (x.pieceOf w) ∨ x.len ≤ 4 * w ∨ (Table.get x.got w).isSome ∨ s.replaying x.ctx then s
  else match s.side x.ctx false x.sfl (x.wordAt w) 4 id with
    | .at _ _ =>
      let (s1, b) := s.takeWord id x w
      s1.setStream id { x with got := Table.set x.got w b }
    | _ => s

/-- Nothing of a context's streamer work stands within 4 KiB that have been begun, but for work that waits for service (R239). -/
def State.streamsAtBoundary (s : State) (ctx : Nat) : Bool :=
  s.eng.streams.all fun p => p.2.ctx != ctx || p.2.fault.isSome ||
    (List.range p.2.count).all fun k => p.2.done.contains k || !p.2.blockBegun k

/-- Streamer work is saved: words read ahead of their piece do not count (R239). -/
def State.saveStreams (s : State) (ctx : Nat) : State :=
  { s with eng := { s.eng with streams := s.eng.streams.map fun (p : Nat × Stream) =>
    (p.1, if p.2.ctx = ctx then { p.2 with got := [] } else p.2) } }

/-- The address at which a held page stops a transfer: of a piece, or of the step after the data that comes next. -/
def Stream.heldAt (x : Stream) (held : DWord → Bool) : Option DWord :=
  if !x.moved then
    (if x.dfl then none else ((List.range x.count).filter fun k => !x.done.contains k && held (x.dstAt k)).head?.map x.dstAt)
  else
    let a := if x.phase = 1 then x.ctr else if x.chan.isSome then some x.recVa else none
    match a with | some a => if held a then some a else none | none => none

/-- A chain channel. -/
def chanKey (cluster chan : Nat) : Nat := cluster * 16 + chan

def chanIdle : Channel := ⟨.idle, 0, 0, 0, 1, false⟩

def State.chan (s : State) (k : Nat) : Channel := (Table.get s.eng.channels k).getD chanIdle

def State.setChan (s : State) (k : Nat) (c : Channel) : State :=
  { s with eng := { s.eng with channels := Table.set s.eng.channels k c } }

/-- A record has completed: the channel goes on to NEXT, or goes IDLE (R234). -/
def Channel.advance (c : Channel) (next : DWord) : Channel :=
  if next = 0 ∨ c.stop then { c with st := .idle, stop := false } else { c with cur := next }

/-- A streamer transfer completes: every byte has been moved, and the steps left of R236 are performed in their order, as far as they
can be. -/
def execStreamerTransferComplete (id : Nat) (s : State) : Out :=
  match Table.get s.eng.streams id with
  | none => .next s
  | some x =>
    if !x.moved ∨ !s.streamTurn id x ∨ x.fault.isSome ∨ x.reading ∨ s.streamsStopped x.ctx then .next s
    else match s.phases id x (3 - x.phase) x.phase with
      | (s1, p, some e) => .next ((s1.setStream id { x with phase := p }).streamWait id x e)
      | (s1, _, none) =>
        let s2 := ({ s1 with eng := { s1.eng with streams := Table.del s1.eng.streams id } }).unstall id
        match x.chan with
        | none => .next s2
        | some k => .next (s2.setChan k ((s2.chan k).advance x.next))

/-- STRCH on a channel of the issuing core (R234, R235). -/
def Channel.start (c : Channel) (ctx kernel weight : Nat) (head : DWord) : Option Channel :=
  match c.st with
  | .idle => if head = 0 then none else some ⟨.walking, head, ctx, kernel, weight, false⟩
  | .stopped => if head = 0 then none else some ⟨.walking, head, ctx, kernel, weight, false⟩
  | .waiting => if head = 0 ∧ c.ctx = ctx then some { c with st := .idle } else none
  | .walking => if head = 0 ∧ c.ctx = ctx then some { c with stop := true } else none
  | .saved _ => none

def execStrch (h : Hd) (d a b : Opnd) (s : State) : Out :=
  .next (s.once h fun s i g k =>
    let src := i.source g
    let ch := (readOp src (src.lane k) true a).toNat
    let head := readOp src (src.lane k) true b
    if 4 ≤ ch then s.trapGuarded i g h .resourceBound 0
    else if head.toNat % 64 ≠ 0 then s.trapGuarded i g h .alignment head
    else
      let key := chanKey (clusterOf g.core) (g.core % 4 * 4 + ch)
      match (s.chan key).start (s.ctxOf g) (s.kernelIdx g) (s.kernelWeight g) head with
      | some c => (s.setChan key c).later h fun _ _ _ => { preds := [(d, true)] }
      | none => s.later h fun _ _ _ => { preds := [(d, false)] })

/-- Fields of a chain record (R233). -/
def recField (b : List Byte) (o n : Nat) : Nat := leNat ((b.drop o).take n)

/-- The stream that a record describes; none if the record is illegal. -/
def recStream (cluster k : Nat) (c : Channel) (b : List Byte) : Option Stream :=
  let fl := recField b 48 4
  let sfl := fl / 2 % 2 == 1
  let dfl := fl / 4 % 2 == 1
  let hint := fl / 16 % 8
  let src := recField b 8 8
  let dst := recField b 16 8
  let len := recField b 24 8 % 2 ^ 40
  let ctr := recField b 32 8
  let unit (f : Bool) : Nat := if f then 4096 else 4
  if (sfl && dfl) || !(hint == 0 || hint == 3 || hint == 4) || recField b 0 8 % 64 != 0 || src % unit sfl != 0 ||
     dst % unit dfl != 0 || len % unit (sfl || dfl) != 0 || ctr % 8 != 0 then none
  else some ⟨cluster, c.ctx, c.kernel, c.weight, BitVec.ofNat 64 dst, BitVec.ofNat 64 src, len, if ctr = 0 then none else some (BitVec.ofNat 64 ctr),
    BitVec.ofNat 64 (recField b 40 8), sfl, dfl, if hint = 3 then .stream else if hint = 4 then .nt else .dflt, some k, c.cur,
    BitVec.ofNat 64 (recField b 0 8), [], [], 0, none, false, 0⟩

/-- An unserviced fault stops the chain: STATUS and FADDR are written, OWN stays set, the guardian is told (R234, R237). DETAIL names the
channel by its number in the cluster, 0 to 15: the spec does not say whether this or the core's 0 to 3 (DESIGN CHOICE, log 90). Where the
record itself lies on the held page whose PAGE_HELD stops the chain, the two are written through the hold (DESIGN CHOICE, log 70). -/
def State.stopChain (s : State) (k : Nat) (ctx : Nat) (va : DWord) (code : Nat) (a : DWord) : State :=
  let s1 := (s.vstore ctx (va + 52) (leBytes 4 code)).toOption.getD s
  let s2 := (s1.vstore ctx (va + 56) (leBytes 8 a.toNat)).toOption.getD s1
  let st := match (s2.chan k).st with | .saved _ => ChanState.saved .stopped | _ => .stopped
  (s2.setChan k { s2.chan k with st := st, stop := false }).raise ctx 6 code 0 0 a (transferDetail false 0xFF (k % 16))

/-- The streamer reads a channel's current record: not its own yet, and it watches the line; an illegal one stops the chain;
else the record is in service (R233, R234). An illegal record has no faulting address that the spec names: FADDR and the event's ADDR are 0
(DESIGN CHOICE, log 90). -/
def execChainRecordRead (cluster chan : Nat) (s : State) : Out :=
  let k := chanKey cluster chan
  let c := s.chan k
  if c.st ≠ .walking ∨ s.eng.streams.any (fun p => p.2.chan == some k) then .next s
  else match s.engineRead c.ctx c.cur with
    | .wait => .next (s.startPull c.ctx c.cur)
    | .fault x =>
      let s := s.noteMalformed c.ctx c.cur
      if x.serviced then
        let (id, s1) := s.fresh
        let st : Stream := ⟨cluster, c.ctx, c.kernel, c.weight, 0, c.cur, 0, none, 0, false, false, .dflt, some k, c.cur, 0, [], [], 0,
          some (x, c.cur), true, 0⟩
        .next ((({ s1 with eng := { s1.eng with streams := s1.eng.streams ++ [(id, st)] } }).raise c.ctx 6 x.num 0 0 c.cur
          (transferDetail true 0xFF chan)).needService c.ctx)
      else .next (s.stopChain k c.ctx c.cur x.num c.cur)
    | .ok t =>
      let (s1, b) := s.readAt c.ctx t c.cur 64
      if recField b 48 4 % 2 = 0 then .next (s1.setChan k { c with st := .waiting })
      else match recStream cluster k c b with
        | none => .next (if s.engineWrite c.ctx c.cur = .wait then s else s1.stopChain k c.ctx c.cur Code.illegalEncoding.num 0)
        | some x =>
          let (id, s2) := s1.fresh
          .next { s2 with eng := { s2.eng with streams := s2.eng.streams ++ [(id, x)] } }

/-- The watched line of a WAITING channel fires; with OWN set on the re-read, the channel walks again (R234). -/
def execChainWake (cluster chan : Nat) (s : State) : Out :=
  let k := chanKey cluster chan
  let c := s.chan k
  if c.st ≠ .waiting then .next s
  else match s.vload c.ctx (c.cur + 48) 4 with
    | .ok b => .next (if leNat b % 2 = 1 then s.setChan k { c with st := .walking } else s)
    | .error _ => .next s

/-- An unserviced fault ends a streamer transfer without its counter add, and stops a chain (R237). -/
def State.endStream (s : State) (id : Nat) (x : Stream) (c : Code) (a : DWord) : State :=
  let s1 := { s with eng := { s.eng with streams := Table.del s.eng.streams id } }
  match x.chan with
  | some k => s1.stopChain k x.ctx x.recVa c.num a
  | none => s1.raise x.ctx 6 c.num 0 0 a (transferDetail false 0xFF 0)

/-- The fault that a transfer meets: at a piece that is left, or at its next step after the data. -/
def State.streamFault (s : State) (id : Nat) (x : Stream) : Option (Code × DWord) :=
  let of (e : CopyEnd) : Option (Code × DWord) := match e with | .fault c a => some (c, a) | _ => none
  if !x.moved then (List.range x.count).findSome? fun k => if s.pieceRuns x k then of (s.pieceEnd id x k) else none
  else if s.streamsStopped x.ctx then none else of (s.phaseEnd id x x.phase)

/-- A streamer transfer's fault: a service request on which it waits, or its end without a counter add (R237, R304). Of a transfer that
waits for service, it is the guardian's refusal (log 83). The channel of DETAIL 15:8 is the cluster's number, 0 to 15 (DESIGN CHOICE, log
90). -/
def execStreamerFault (id : Nat) (s : State) : Out :=
  match Table.get s.eng.streams id with
  | none => .next s
  | some x =>
    match x.fault with
    | some (c, a) => .next (s.endStream id x c a)
    | none =>
      if !s.streamTurn id x then .next s
      else match s.streamFault id x with
        | none => .next s
        | some (c, a) =>
          let chan := match x.chan with | some k => k % 16 | none => 0
          if c.serviced then
            .next ((((s.noteMalformed x.ctx a).setStream id { x with fault := some (c, a) }).raise x.ctx 6 c.num 0 0 a
              (transferDetail true 0xFF chan)).needService x.ctx)
          else if x.chan.isSome ∧ s.engineWrite x.ctx x.recVa = .wait then .next s
          else .next ((s.noteMalformed x.ctx a).endStream id x c a)

/-- The page on which a transfer or a stream waits for service has become valid: it goes on (R230, R237). -/
def execTransferResume (id : Nat) (s : State) : Out :=
  let valid (ctx : Nat) (f : Option (Code × DWord)) : Bool :=
    match f with
    | some (_, a) => match s.translate ctx .load a with | .error c => !c.serviced | .ok _ => true
    | none => false
  match Table.get s.eng.transfers id with
  | some x =>
    .next (if valid x.ctx x.fault then { s with eng := { s.eng with transfers := Table.set s.eng.transfers id { x with fault := none } } } else s)
  | none =>
    match Table.get s.eng.streams id with
    | some x =>
      .next (if !valid x.ctx x.fault then s
        else if x.reading then { s with eng := { s.eng with streams := Table.del s.eng.streams id } }
        else { s with eng := { s.eng with streams := Table.set s.eng.streams id { x with fault := none } } })
    | none => .next s

end Sys2Proof.Machine
end

