-- ==== Sys2Proof/Machine/Tile.lean ====
section
/-! DEFINITION. Machine/Tile.lean: the tile engine and the tile instructions 0xB0 to 0xB8 (13_tile.md, R240 to R263). -/

namespace Sys2Proof.Machine

/-! ### Tiles, order and commit groups (R240 to R244, R251) -/

def tileZero : Tile := ⟨[], 0, 0, 0⟩

def State.tile (s : State) (team k : Nat) : Tile :=
  match Table.get s.run.teams team with | some t => t.tiles.getD k tileZero | none => tileZero

def State.setTile (s : State) (team k : Nat) (x : Tile) : State :=
  { s with run := { s.run with teams := Table.upd s.run.teams team fun t => { t with tiles := t.tiles.set k x } } }

/-- Tiles that the group's kernel declares. -/
def State.declaredTiles (s : State) (g : Group) : Nat := match s.kernelOf g with | some k => k.hdr.tiles | none => 64

/-- Operations of a tile in the order of acceptance. -/
def State.tileOrder (s : State) (team k : Nat) : List (Nat × TileOp) :=
  s.eng.tileOps.filter fun p => p.2.team == team && p.2.tile == k

/-- Operations of a core, for the queue of 32 (R247). -/
def State.coreOps (s : State) (core : Nat) : List (Nat × TileOp) := s.eng.tileOps.filter fun p => p.2.core == core

def State.setOp (s : State) (id : Nat) (x : TileOp) : State :=
  { s with eng := { s.eng with tileOps := Table.set s.eng.tileOps id x } }

def State.dropOp (s : State) (id : Nat) : State := { s with eng := { s.eng with tileOps := Table.del s.eng.tileOps id } }

/-- The operation is first in its tile's order, and its team is not saved; once the team is being pre-empted, none starts (R242, R262). -/
def State.opTurn (s : State) (id : Nat) (x : TileOp) : Bool :=
  ((s.tileOrder x.team x.tile).head?.map (·.1)) == some id &&
    (match Table.get s.run.teams x.team with | some t => !t.saved && (x.started || !t.stopping) | none => false)

/-- %mcdone follows from the commit groups that remain; done ones without an unreported abort leave the list (R251). -/
def Group.settleCommits (g : Group) : Group :=
  let busy := (g.commits.filter fun c => c.sealed && decide (0 < c.left)).map fun c => c.number.toNat
  let done := match busy with | [] => g.mcmade | x :: r => BitVec.ofNat 64 (r.foldl Nat.min x - 1)
  { g with mcdone := done, commits := g.commits.filter fun c => !c.sealed || decide (0 < c.left) || c.abort.isSome }

/-- An operation joins the group's open commit group. -/
def Group.joinCommit (g : Group) : Group :=
  match g.commits.find? fun c => !c.sealed with
  | some _ => { g with commits := g.commits.map fun c => if c.sealed then c else { c with left := c.left + 1 } }
  | none => { g with commits := g.commits ++ [⟨g.mcmade + 1, 1, false, none⟩] }

/-- An operation of a commit group has retired, or aborted with a record: the first of a group is kept (R249, R253). -/
def Group.endCommit (g : Group) (n : DWord) (abort : Option (Code × DWord)) : Group :=
  ({ g with commits := g.commits.map fun c =>
    if c.number = n then { c with left := c.left - 1, abort := if c.abort.isSome then c.abort else abort } else c } : Group).settleCommits

/-! ### MMA (R245 to R250) -/

/-- A tile operand (R241). -/
def tileArg (g : Group) (l : Lane) (x : Opnd) : Nat := (readOp g l true x).toNat

def MmaK.unit (k : MmaK) : Nat := match k with | .bf16 => 16 | _ => 32

def MmaK.slice (k : MmaK) : Nat := match k with | .bf16 => 512 | _ => 1024

/-- How a tile is named in the replay log: by its team's TIX and its number. -/
def State.tileAux (s : State) (g : Group) (tile : Nat) : Nat :=
  match s.teamOf g with | some t => t.tix * 64 + tile | none => tile

/-- MMA at issue: the precise checks, the waits, and the operation is accepted (R247). Of a misaligned SA or SB %faddr holds the a or b that
it goes with, and of several the first in the order a, b, SA, SB: R247 says only "a or b" (DESIGN CHOICE, log 89). -/
def execMma (h : Hd) (k : MmaK) (rel : Bool) (d a b c e : Opnd) (s : State) : Out :=
  .next (s.once h fun s i g k0 =>
    let src := i.source g
    let l := src.lane k0
    let tile := tileArg src l d
    let pa := srcN32 src l a
    let pb := srcN32 src l b
    let n := match c with | .imm x => x.toNat | _ => srcN32 src l c
    let st := readOp src l true e
    let (sa, sb) := if e.isAbsent then (MmaK.slice k, MmaK.slice k) else (field st 31 0, field st 63 32)
    let z := MmaK.unit k
    if s.declaredTiles g ≤ tile then s.trapGuarded i g h .resourceBound 0
    else if n = 0 ∨ 255 < n then s.trapGuarded i g h .resourceBound 0
    else if pa % z ≠ 0 then s.trapGuarded i g h .alignment (BitVec.ofNat 64 pa)
    else if pb % z ≠ 0 then s.trapGuarded i g h .alignment (BitVec.ofNat 64 pb)
    else if sa % z ≠ 0 then s.trapGuarded i g h .alignment (BitVec.ofNat 64 pa)
    else if sb % z ≠ 0 then s.trapGuarded i g h .alignment (BitVec.ofNat 64 pb)
    else if Config.tileQueue ≤ (s.coreOps g.core).length ∨ !s.orderAllows (s.ctxOf g) 1 (s.tileAux g tile) (s.wid g k0) l.retired then
      s.waitAtIssue i 8
    else if rel && !s.reached i.gid .team (s.earlier i g) then s.waitAtIssue i 2
    else
      let s := if rel then s.settleOlds g.team i.gid .core s.sch.nextId else s
      let (id, s1) := s.fresh
      let x : TileOp := ⟨g.team, i.gid, s.wid g 0, g.core, tile, .mma k pa pb n sa sb, g.mcmade + 1, i.lanes, laneMask (i.guarded g h), false,
        none, none, [], newAccess s i g k0 .store 0 64⟩
      (((s1.setOp id x).updGroup i.gid Group.joinCommit).noteOrder (s.ctxOf g) 1 (s.tileAux g tile) (s.wid g k0) l.retired []).lanes h fun _ _ _ => {})

/-- The scaled block at a scratchpad offset. -/
def State.spBlock (s : State) (team off : Nat) : Block := Block.ofBits (leNat (s.spBytes team off 32))

/-- The eight BF16 values of a row of a slice (R245). -/
def State.spRow (s : State) (team off : Nat) : List Nat := unpackBits 16 8 (leNat (s.spBytes team off 16))

/-- One K slice: the accumulators after it, and the products dropped (R248). -/
def State.mmaSlice (s : State) (team : Nat) (k : MmaK) (pa pb : Nat) (acc : List Nat) : List Nat × Nat :=
  match k with
  | .bf16 =>
    let as := (List.range 32).map fun i => s.spRow team (pa + 16 * i)
    let bs := (List.range 32).map fun j => s.spRow team (pb + 16 * j)
    (acc.mapIdx fun n x => accAdd x (bf16Dot (as.getD (n / 32) []) (bs.getD (n % 32) [])), 0)
  | _ =>
    let as := (List.range 32).map fun i => s.spBlock team (pa + 32 * i)
    let bs := (List.range 32).map fun j => s.spBlock team (pb + 32 * j)
    let zero : Block := ⟨[], .zero⟩
    let ys := acc.mapIdx fun n x => (x, blockDot (k == .lns6nz) (as.getD (n / 32) zero) (bs.getD (n % 32) zero))
    (ys.map fun y => accAdd y.1 y.2.1, (ys.map fun y => y.2.2).sum)

/-- The slices from g on: the result, or the offset at which the scratchpad ends (R248, R249). -/
def State.mmaSlices (s : State) (team allot : Nat) (k : MmaK) (a b sa sb n : Nat) : Nat → List Nat → Nat → Except Nat (List Nat × Nat)
  | 0, acc, drop => .ok (acc, drop)
  | m + 1, acc, drop =>
    let pa := a + (n - (m + 1)) * sa
    let pb := b + (n - (m + 1)) * sb
    if allot < pa + MmaK.slice k then .error pa
    else if allot < pb + MmaK.slice k then .error pb
    else
      let r := s.mmaSlice team k pa pb acc
      s.mmaSlices team allot k a b sa sb n m r.1 (drop + r.2)

/-- The values of a tile in row order, and a tile from them. -/
def Tile.list (x : Tile) : List Nat := (List.range 1024).map fun n => (Sparse.get x.vals n).toNat

def tileVals (vs : List Nat) : Sparse 32 :=
  ((vs.mapIdx fun n v => (n, BitVec.ofNat 32 v)).filter fun p => p.2 != 0)

/-- The scratchpad allotment of a team. -/
def State.teamAllot (s : State) (team : Nat) : Nat :=
  match Table.get s.run.teams team with
  | some t => (match Table.get s.ker.kernels t.kernel with | some k => k.hdr.scratch * 1024 | none => 0)
  | none => 0

/-- A word of scratchpad, by its number, is an operand of an MMA (R245). -/
def TileOp.operandWord (x : TileOp) (w : Nat) : Bool :=
  match x.kind with
  | .mma k a b n sa sb =>
    let inSlice (o st : Nat) : Bool := (List.range n).any fun g => overlap (4 * w) 4 (o + g * st) (MmaK.slice k)
    inSlice a sa || inSlice b sb
  | _ => false

/-- The engine reads a word of an MMA's operands, after acceptance and before the rest (R250). -/
def State.operandWord (s : State) (id : Nat) (x : TileOp) (w : Nat) : State :=
  if x.started ∨ !x.operandWord w ∨ (Table.get x.got w).isSome ∨ s.teamAllot x.team < 4 * w + 4 ∨
     !((Table.get s.run.teams x.team).map fun t => !t.saved).getD false then s
  else
    let (t, b) := s.spWord x.team (4 * w)
    t.setOp id { x with got := Table.set x.got w b }

/-- The engine reads the operand words of an MMA that a write has changed without a release, each old or new (R190, R250). -/
def State.readOperands (s : State) (x : TileOp) : State × TileOp :=
  let ws : List Nat := match Table.get s.run.teams x.team with | some t => (t.olds.map fun (o : OldWord) => o.off / 4).eraseDups | none => []
  (ws.filter fun w => x.operandWord w && (Table.get x.got w).isNone && decide (4 * w + 4 ≤ s.teamAllot x.team)).foldl
    (fun p w => let r := p.1.spWord x.team (4 * w); (r.1, { p.2 with got := Table.set p.2.got w r.2 })) (s, x)

/-- Scratchpad as an MMA reads it: words that were read early keep the value they had then. -/
def State.withOperands (s : State) (x : TileOp) : State := x.got.foldl (fun t p => t.setSp x.team (4 * p.1) p.2) s

/-- The engine starts an MMA that is first in its tile's order, at most four of a core at once; it reads the operands and
computes into a copy of the tile (R244, R247, R248, R250). -/
def execMmaStart (id : Nat) (s : State) : Out :=
  match Table.get s.eng.tileOps id with
  | none => .next s
  | some x =>
    match x.kind with
    | .mma k a b n sa sb =>
      if x.started ∨ !s.opTurn id x ∨ 4 ≤ ((s.coreOps x.core).filter fun p => p.2.started).length then .next s
      else
        let (s, x) := s.readOperands x
        let y := { x with started := true }
        match (s.withOperands x).mmaSlices x.team (s.teamAllot x.team) k a b sa sb n n (s.tile x.team x.tile).list 0 with
        | .ok (vs, drop) => .next (s.setOp id { y with result := some (tileVals vs, drop) })
        | .error off => .next (s.setOp id { y with abort := some (BitVec.ofNat 64 off) })
    | _ => .next s

/-- An MMA retires: VAL and NANS change in one step (R248). -/
def execMmaRetire (id : Nat) (s : State) : Out :=
  match Table.get s.eng.tileOps id with
  | none => .next s
  | some x =>
    match x.result with
    | none => .next s
    | some (vals, drop) =>
      let t := s.tile x.team x.tile
      let nans := Nat.min (t.nans.toNat + drop) 0xFFFFFF
      let s1 := (s.dropOp id).setTile x.team x.tile { t with vals := vals, nans := BitVec.ofNat 24 nans }
      .next (s1.updGroup x.gid fun g => g.endCommit x.commit none)

/-- An MMA aborts: the tile keeps its values, and the commit group its record; the guardian of a group that has retired is told
(R249, R253). -/
def execMmaAbort (id : Nat) (s : State) : Out :=
  match Table.get s.eng.tileOps id with
  | none => .next s
  | some x =>
    match x.abort with
    | none => .next s
    | some off =>
      match s.group x.gid, Table.get s.run.teams x.team with
      | some _, _ => .next ((s.dropOp id).updGroup x.gid fun g => g.endCommit x.commit (some (.scratchBounds, off)))
      | none, some t =>
        let ctx := match Table.get s.ker.kernels t.kernel with | some k => k.ctx | none => 4096
        .next ((s.dropOp id).raise ctx 7 0 0 x.wid0 off x.commit)
      | none, none => .next (s.dropOp id)

/-! ### Commit groups (R252, R253) -/

def execMcommit (h : Hd) (d : Opnd) (s : State) : Out :=
  .next (s.once h fun s i g _ =>
    let n := g.mcmade + 1
    let s1 := s.later h fun _ _ _ => { regs := [(d, true, n)] }
    s1.updGroup i.gid fun x =>
      ({ x with mcmade := n, commits := x.commits.map fun c => if c.number = n then { c with sealed := true } else c } :
        Group).settleCommits)

/-- The lowest commit group up to m with an abort that has not been reported. -/
def Group.unreported (g : Group) (m : DWord) : Option (DWord × Code × DWord) :=
  (g.commits.filter fun c => c.sealed && decide (c.number.toNat ≤ m.toNat)).foldl (fun r c =>
    match c.abort, r with
    | some a, some (n, _, _) => if c.number.toNat < n.toNat then some (c.number, a) else r
    | some a, none => some (c.number, a)
    | none, _ => r) none

def Group.report (g : Group) (n : DWord) : Group :=
  ({ g with commits := g.commits.map fun c => if c.number = n then { c with abort := none } else c } : Group).settleCommits

/-- MWAIT: goes on at once, reports an abort, or waits (R253). -/
def execMwait (h : Hd) (a : Opnd) (s : State) : Out :=
  .next (s.once h fun s i g k =>
    let src := i.source g
    let want := match a with | .imm x => BitVec.ofNat 64 x.toNat | .absent => g.mcmade | _ => readOp src (src.lane k) true a
    let m := if want.toNat ≤ g.mcmade.toNat then want else g.mcmade
    if m.toNat ≤ g.mcdone.toNat then
      (match g.unreported m with
      | some (n, c, off) => (s.trapGuarded i g h c off).updGroup i.gid fun x => x.report n
      | none => s.lanes h fun _ _ _ => {})
    else s.stallBundle i g h ⟨.mwait m.toNat, 9, none, .absent, i.word, false, false⟩)

/-! ### The lane tile instructions (R242, R243, R254 to R259) -/

/-- The row and half of piece k of a tile, at an address with a pitch (R256, R257). -/
def pieceAt (addr pitch : DWord) (k : Nat) : DWord := addr + BitVec.ofNat 64 (k / 2) * pitch + BitVec.ofNat 64 (64 * (k % 2))

/-- The 64 bytes of piece k: sixteen values of row k / 2. -/
def Tile.piece (x : Tile) (k : Nat) : List Byte :=
  (List.range 16).flatMap fun j => leBytes 4 (Sparse.get x.vals (32 * (k / 2) + 16 * (k % 2) + j)).toNat

/-- A tile's values from its 4,096 bytes in row order. -/
def tileOfBytes (b : List Byte) : Sparse 32 := tileVals (unpackBits 32 1024 (leNat b))

/-- Rounded counts of QNT events (R259). -/
def satCount (n : BitVec 16) (k : Nat) : BitVec 16 := BitVec.ofNat 16 (Nat.min (n.toNat + k) 0xFFFF)

/-- The 32 blocks of a quantised tile, with their events (R259). -/
def Tile.quant (x : Tile) (col : Bool) : List (Block × QEvent) :=
  (List.range 32).map fun r => quantBlock ((List.range 32).map fun c =>
    Fmt.f32.decode (Sparse.get x.vals (if col then 32 * c + r else 32 * r + c)).toNat)

/-- An access of a tile operation. -/
def TileOp.access (s : State) (x : TileOp) (kind : AccKind) (va : DWord) : Access :=
  { x.proto with lanes := x.lanes, parts := x.lanes, inst := s.sch.nextId, core := x.core, kind := kind, va := va }

/-- A release that holds its bundle at issue holds a TST too, until every earlier access of the group has reached its point (R194,
R257). -/
def State.tileHeld (s : State) (x : TileOp) (ord : Order) (sc : Scope) : Bool :=
  ord == .rel && Scope.outer sc && !s.reached x.gid sc x.proto.inst

/-- A scratchpad write that the bundle made before a tile instruction has yet to land on bytes that the instruction writes (R178, R258,
R259). -/
def State.spBefore (s : State) (x : TileOp) (off n : Nat) : Bool :=
  s.run.accs.any fun p => p.2.sp && p.2.kind.writes && p.2.gid == x.gid && p.2.lanes &&& x.bundle != 0 &&
    decide (p.2.inst < x.proto.inst) && p.2.st == .queued && overlap off n p.2.va.toNat p.2.size

/-- How the performing of a lane tile instruction ends: it is complete, its reads are under way, or it finds no room in FAR or an
earlier write in its way. -/
inductive TileEnd where
  | complete (s : State)
  | reading (s : State)
  | noRoom

/-- The reason under which a lane tile instruction waits that is first in its tile's order: its reads or room for them, room for its stores, or
earlier writes of the scratchpad (R159, R180, R256; the last has no reason of its own, and stays under the interlock's). -/
def TileKind.waitReason : TileKind → Nat
  | .load .. => 1
  | .store .. => 2
  | _ => 8

/-- Perform a lane tile instruction that is first in its tile's order. Where the rows of a TST overlap (a pitch below 128, R257), the bytes
of the later piece stand; which remain is not said (DESIGN CHOICE, log 89). -/
def State.performTile (s : State) (id : Nat) (x : TileOp) : TileEnd :=
  let t := s.tile x.team x.tile
  let ctx := x.proto.ctx
  match x.kind with
  | .zero all =>
    .complete (s.setTile x.team x.tile (if all then tileZero else { t with vals := [] }))
  | .loadSp off =>
    let (s1, b) := s.spWords x.team off 1024
    .complete (s1.setTile x.team x.tile { t with vals := tileOfBytes b })
  | .storeSp off => if s.spBefore x off 4096 then .noRoom else .complete ((s.setSp x.team off ((List.range 64).flatMap fun k => t.piece k)).tagSegments ctx x.team off 4096 x.wid0)
  | .quant col off =>
    if s.spBefore x off 1024 then .noRoom else
    let q := t.quant col
    let n (e : QEvent) : Nat := (q.filter fun y => y.2 == e).length
    .complete (((s.setSp x.team off (q.flatMap fun y => leBytes 32 y.1.bits)).tagSegments ctx x.team off 1024 x.wid0).setTile x.team x.tile { t with underflows := satCount t.underflows (n .underflow), overflows := satCount t.overflows (n .overflow) })
  | .store addr pitch hint ord sc =>
    if !s.room x.gid 64 || s.tileHeld x ord sc then .noRoom
    else .complete (s.addAccesses ((List.range 64).map fun k =>
      { TileOp.access s x .store (pieceAt addr pitch k) with
        bytes := t.piece k, whole := true, hint := hint, ord := ord, sc := sc }))
  | .load addr pitch _ _ =>
    if !s.room x.gid 64 then .noRoom
    else .reading ((s.addAccesses ((List.range 64).map fun k =>
      { TileOp.access s x (.line id k) (pieceAt addr pitch k) with hint := .fresh })).setOp id { x with started := true })
  | .mma .. => .complete s

/-- A lane tile instruction at issue, after its precise checks: performed at once on a quiet tile, else accepted behind the
tile's order, where its bundle waits (R243). -/
def State.laneTile (s : State) (i : Issue) (g : Group) (h : Hd) (tile : Nat) (kind : TileKind) : State :=
  let k0 := lowest i.lanes
  if Config.tileQueue ≤ (s.coreOps g.core).length ∨ !s.orderAllows (s.ctxOf g) 1 (s.tileAux g tile) (s.wid g k0) (g.lane k0).retired then
    s.waitAtIssue i 8
  else
    let (id, s1) := s.fresh
    let x : TileOp := ⟨g.team, i.gid, s.wid g 0, g.core, tile, kind, 0, i.lanes, laneMask (i.guarded g h), false, none, none, [],
      newAccess s i g k0 .store 0 64⟩
    let s2 := s1.noteOrder (s.ctxOf g) 1 (s.tileAux g tile) (s.wid g k0) (g.lane k0).retired []
    let w (r : Nat) : Wait := ⟨.tile id, r, none, .absent, i.word, false, false⟩
    if !(s2.tileOrder g.team tile).isEmpty then (s2.setOp id x).stallBundle i g h (w 8)
    else match s2.performTile id x with
      | .complete t => t.lanes h fun _ _ _ => {}
      | .reading t => t.stallBundle i g h (w 1)
      | .noRoom => s.waitAtIssue i kind.waitReason

/-- The checks that lane tile instructions share: tile number, then alignment, then the scratchpad bound (R254). -/
def State.tileChecked (s : State) (i : Issue) (g : Group) (h : Hd) (tile : Nat) (bad : Option DWord) (out : Option DWord)
    (kind : TileKind) : State :=
  if s.declaredTiles g ≤ tile then s.trapGuarded i g h .resourceBound 0
  else match bad, out with
    | some a, _ => s.trapGuarded i g h .alignment a
    | none, some a => s.trapGuarded i g h .scratchBounds a
    | none, none => s.laneTile i g h tile kind

/-- Scratchpad offset checks: a multiple of z, and n bytes within the allotment. -/
def State.offChecks (s : State) (g : Group) (off z n : Nat) : Option DWord × Option DWord :=
  (if off % z = 0 then none else some (BitVec.ofNat 64 off), if s.allot g < off + n then some (BitVec.ofNat 64 off) else none)

/-- Address and pitch of the memory forms: multiples of 64, the address first (R254). -/
def pitchOf (g : Group) (l : Lane) (b : Opnd) : DWord := if b.isAbsent then 128 else readOp g l true b

def memCheck (addr pitch : DWord) : Option DWord :=
  if addr.toNat % 64 ≠ 0 then some addr else if pitch.toNat % 64 ≠ 0 then some pitch else none

def execTzero (h : Hd) (all : Bool) (d : Opnd) (s : State) : Out :=
  .next (s.once h fun s i g k =>
    s.tileChecked i g h (tileArg (i.source g) ((i.source g).lane k) d) none none (.zero all))

def execTld (h : Hd) (hint : Hint) (ord : Order) (sc : Scope) (d a b : Opnd) (s : State) : Out :=
  .next (s.once h fun s i g k =>
    let l := (i.source g).lane k
    let addr := readOp (i.source g) l true a
    let pitch := pitchOf (i.source g) l b
    let _ := hint
    s.tileChecked i g h (tileArg (i.source g) l d) (memCheck addr pitch) none (.load addr pitch (ord == .acq) sc))

def execTldSp (h : Hd) (d b : Opnd) (s : State) : Out :=
  .next (s.once h fun s i g k =>
    let l := (i.source g).lane k
    let off := srcN32 (i.source g) l b
    let c := s.offChecks g off 64 4096
    s.tileChecked i g h (tileArg (i.source g) l d) c.1 c.2 (.loadSp off))

def execTst (h : Hd) (hint : Hint) (ord : Order) (sc : Scope) (d a b : Opnd) (s : State) : Out :=
  .next (s.once h fun s i g k =>
    let l := (i.source g).lane k
    let addr := readOp (i.source g) l true a
    let pitch := pitchOf (i.source g) l b
    s.tileChecked i g h (tileArg (i.source g) l d) (memCheck addr pitch) none (.store addr pitch hint ord sc))

def execTsts (h : Hd) (d b : Opnd) (s : State) : Out :=
  .next (s.once h fun s i g k =>
    let l := (i.source g).lane k
    let off := srcN32 (i.source g) l b
    let c := s.offChecks g off 64 4096
    s.tileChecked i g h (tileArg (i.source g) l d) c.1 c.2 (.storeSp off))

def execQnt (h : Hd) (col : Bool) (d b : Opnd) (s : State) : Out :=
  .next (s.once h fun s i g k =>
    let l := (i.source g).lane k
    let off := srcN32 (i.source g) l b
    let c := s.offChecks g off 32 1024
    s.tileChecked i g h (tileArg (i.source g) l d) c.1 c.2 (.quant col off))

/-- The status word (R260). -/
def State.tileStatus (s : State) (team k : Nat) : DWord :=
  let t := s.tile team k
  BitVec.ofNat 64 (t.nans.toNat * 2 ^ 40 + (s.tileOrder team k).length * 2 ^ 32 + t.underflows.toNat * 2 ^ 16 + t.overflows.toNat)

def execTstat (h : Hd) (clr : Bool) (d a : Opnd) (s : State) : Out :=
  .next (s.once h fun s i g k =>
    let tile := tileArg (i.source g) ((i.source g).lane k) a
    if s.declaredTiles g ≤ tile then s.trapGuarded i g h .resourceBound 0
    else
      let v := s.tileStatus g.team tile
      let s1 := s.later h fun _ _ _ => { regs := [(d, true, v)] }
      if clr then s1.setTile g.team tile { s1.tile g.team tile with nans := 0, underflows := 0, overflows := 0 } else s1)

/-- The lane of a group that waits for a tile operation. -/
def Group.tileWaiter (g : Group) (id : Nat) : Option Nat :=
  (List.range g.width).find? fun k => match (g.lane k).st with | .stalled w => w.kind == .tile id | _ => false

/-- The operation is complete: it leaves the order, and its bundle goes on (R243). -/
def State.endTile (s : State) (id gid : Nat) : State :=
  let s1 := s.dropOp id
  match s1.group gid with
  | none => s1
  | some g => match g.tileWaiter id with
    | some k => s1.resumeAll gid k fun _ _ => {}
    | none => s1

/-- The acquire of a TLD, after its last read (R194, R256). -/
def State.tileAcquire (s : State) (x : TileOp) : State :=
  match x.kind with
  | .load addr pitch true sc =>
    (List.range 64).foldl (fun t k => match t.translate x.proto.ctx .load (pieceAt addr pitch k) 64 with
      | .ok u => t.acquireRels (.lane x.core x.team x.gid) x.core sc (relsOf t.mem.marks (u.key (pieceAt addr pitch k)) 64)
      | .error _ => t.invalidate x.core sc) s
  | _ => s

/-- The bundle that waits for a tile operation now waits under another reason: for its reads, or for room among its group's accesses. -/
def Group.tileWaits (g : Group) (id reason : Nat) : Group :=
  { g with lanes := g.lanes.map fun l => match l.st with
    | .stalled w => if w.kind = .tile id then { l with st := .stalled { w with reason := reason } } else l
    | _ => l }

/-- A lane tile instruction that has become first in its tile's order is performed; a TLD whose 64 reads are in writes its tile,
then acquires. A park or the end of its group does not stop it (R242, R243, R256, R261). -/
def execTileOpPerformed (id : Nat) (s : State) : Out :=
  match Table.get s.eng.tileOps id with
  | none => .next s
  | some x =>
    match x.kind with
    | .mma .. => .next s
    | _ =>
      if !s.opTurn id x then .next s
      else if x.started then
        (if x.got.length < 64 then .next s
         else
          let bytes := (List.range 64).flatMap fun k => (Table.get x.got k).getD []
          let s1 := s.setTile x.team x.tile { s.tile x.team x.tile with vals := tileOfBytes bytes }
          .next ((s1.tileAcquire x).endTile id x.gid))
      else match s.performTile id x with
        | .complete t => .next (t.endTile id x.gid)
        | .reading t => .next (t.updGroup x.gid fun g => g.tileWaits id 1)
        | .noRoom => .next (s.updGroup x.gid fun g => g.tileWaits id x.kind.waitReason)

end Sys2Proof.Machine
end

