-- ==== Sys2Proof/Machine/Kernel.lean ====
section
/-! DEFINITION. Machine/Kernel.lean: headers, acceptance, placement, dispatch, retirement and the kernel's end (15_kernel.md, R267
to R281; 16_queue.md, R292, R293, R295). -/

namespace Sys2Proof.Machine

/-! ### The header (R267 to R269) -/

def bytesField (b : List Byte) (o n : Nat) : Nat := leNat ((b.drop o).take n)

/-- The header that 128 bytes describe. -/
def headerOf (va : DWord) (b : List Byte) : Header :=
  let r := bytesField b 32 4
  let w := bytesField b 40 8
  { va := va, entry := BitVec.ofNat 64 (bytesField b 8 8), handler := BitVec.ofNat 64 (bytesField b 16 8)
    prof := BitVec.ofNat 64 (bytesField b 24 8), width := 16 * 2 ^ (r % 4), vregs := r / 4 % 256, sregs := r / 2 ^ 10 % 128
    barriers := r / 2 ^ 17 % 32, tiles := r / 2 ^ 22 % 128, scratch := bytesField b 36 4
    ws := (List.range 5).map fun k => w / 2 ^ (6 * k) % 64, pls := (List.range 4).map fun k => w / 2 ^ (30 + 2 * k) % 4
    xs := (List.range 5).map fun k => bytesField b (48 + 4 * k) 4, energy := bytesField b 68 2, strw := bytesField b 70 2 }

/-- MAGIC, VERSION, the must-be-zero bits and the fields' ranges (R267, R269). -/
def headerOk (b : List Byte) (h : Header) : Bool :=
  let r := bytesField b 32 4
  let w1 := h.ws.getD 0 0
  bytesField b 0 4 == 0x4B524E4C && bytesField b 4 2 == 1 && bytesField b 6 2 == 0 && bytesField b 72 56 == 0 &&
  h.va.toNat % 128 == 0 && h.entry.toNat % 64 == 0 && h.prof.toNat % 64 == 0 && r % 4 != 3 && r / 2 ^ 29 == 0 && h.vregs != 0 &&
  decide (h.sregs ≤ 64) && decide (h.barriers ≤ 16) && decide (h.tiles ≤ 64) && decide (h.scratch ≤ 1024) &&
  bytesField b 40 8 / 2 ^ 38 == 0 && decide (w1 ≤ 6) && !h.pls.contains 3 &&
  decide (1 ≤ h.xs.getD 0 0) && decide (h.xs.getD 0 0 ≤ Nat.min 64 (2 ^ w1)) &&
  ((List.range 4).all fun k => decide (1 ≤ h.xs.getD (k + 1) 0) && decide (h.xs.getD (k + 1) 0 ≤ 2 ^ h.ws.getD (k + 1) 0)) &&
  h.energy != 0 && h.strw != 0 && decide (h.strw ≤ 255) && decide (4 + r % 4 + h.ws.sum ≤ 64)

/-- Groups of a team, and teams of a kernel. -/
def Header.x1 (h : Header) : Nat := h.xs.getD 0 1
def Header.teams (h : Header) : Nat := h.xs.getD 1 1 * h.xs.getD 2 1 * h.xs.getD 3 1 * h.xs.getD 4 1

/-- TIX of the team with ordinal n, in ascending order (R268, R271). -/
def Header.tix (h : Header) (n : Nat) : Nat :=
  let x (k : Nat) := h.xs.getD k 1
  let w (k : Nat) := h.ws.getD k 0
  n % x 1 + n / x 1 % x 2 * 2 ^ w 1 + n / (x 1 * x 2) % x 3 * 2 ^ (w 1 + w 2) + n / (x 1 * x 2 * x 3) % x 4 * 2 ^ (w 1 + w 2 + w 3)

/-- The size of the placement sets of a kind, 1 cluster or 2 die: teams that agree on every field above the highest one so placed
(R273). -/
def Header.setSize (h : Header) (kind : Nat) : Nat :=
  (List.range 4).foldl (fun n k => if h.pls.getD k 0 = kind then ((List.range (k + 1)).map fun j => h.xs.getD (j + 1) 1).foldl (· * ·) 1 else n) 1

/-- Teams that are dispatched as a unit. -/
def Header.unit (h : Header) : Nat := Nat.max (h.setSize 1) (h.setSize 2)

/-! ### Room on a core (R11, R272) -/

/-- Bytes of a quadrant's register file for one group. -/
def Header.groupBytes (h : Header) : Nat := (h.width * h.vregs * 4 + 2047) / 2048 * 2048

/-- A group holds its place on its core; one in transit holds the place where it lands (R349). -/
def GroupState.placed (x : GroupState) : Bool := x == .resident || x == .parked || x == .inTransit

/-- Groups that stand on a core. -/
def State.onCore (s : State) (core : Nat) : List Group :=
  (s.run.groups.filter fun p => p.2.core == core && p.2.st.placed).map (·.2)

/-- Register bytes of a quadrant that retired groups of resident teams still hold (R276). -/
def State.keptRegs (s : State) (core quad : Nat) : Nat :=
  (s.run.teams.map fun p =>
    if p.2.core = core ∧ !p.2.saved ∧ !p.2.freed then
      (match Table.get s.ker.kernels p.2.kernel with | some k => p.2.regs.count quad * k.hdr.groupBytes | none => 0)
    else 0).sum

/-- Groups of a header that a quadrant can still take. -/
def State.quadRoom (s : State) (core quad : Nat) (h : Header) : Nat :=
  let gs := (s.onCore core).filter fun g => g.quad == quad
  let used := (gs.map fun g => match s.kernelOf g with | some k => k.hdr.groupBytes | none => 0).sum + s.keptRegs core quad
  Nat.min (16 - gs.length) ((131072 - used) / h.groupBytes)

/-- Headers of the teams whose scratchpad, barriers and tiles a core holds. -/
def State.coreTeams (s : State) (core : Nat) : List Header :=
  s.run.teams.filterMap fun p =>
    if p.2.core = core ∧ !p.2.saved ∧ !p.2.freed then (Table.get s.ker.kernels p.2.kernel).map (·.hdr) else none

/-- How many needs of n fit into what is left of a total. -/
def roomFor (total used n : Nat) : Nat := if n = 0 then 1024 else (total - used) / n

/-- Group slots in use, landing slots aside. -/
def State.slotsUsed (s : State) (core : Nat) : Nat := ((s.onCore core).filter fun g => decide (g.slot < 60)).length

/-- Scratchpad, barriers and tiles for teams of a header. -/
def State.teamGoods (s : State) (core : Nat) (h : Header) : Nat :=
  let ts := s.coreTeams core
  Nat.min (roomFor 1024 (ts.map (·.scratch)).sum h.scratch)
    (Nat.min (roomFor 256 (ts.map (·.barriers)).sum h.barriers) (roomFor 64 (ts.map (·.tiles)).sum h.tiles))

/-- Teams of a header that a core can take. -/
def State.teamRoom (s : State) (core : Nat) (h : Header) : Nat :=
  Nat.min (roomFor 60 (s.slotsUsed core) h.x1)
    (Nat.min (((List.range 4).map fun q => s.quadRoom core q h).sum / h.x1) (s.teamGoods core h))

/-- Clusters of a partition on present dies. -/
def State.clusters (s : State) (part : Nat) : List Nat :=
  match Table.get s.sys.parts part with
  | some p => if p.ctl.getLsbD 0 then (List.range 48).filter fun c => p.clu.getLsbD c && !s.lnk.absent.contains (c / 6) else []
  | none => []

def clusterCores (c : Nat) : List Nat := (List.range 4).map fun k => 4 * c + k

def State.clusterRoom (s : State) (c : Nat) (h : Header) : Nat := ((clusterCores c).map fun k => s.teamRoom k h).sum

/-- Cluster sets that a die of a partition can take. -/
def State.dieRoom (s : State) (part die : Nat) (h : Header) : Nat :=
  (((s.clusters part).filter fun c => c / 6 == die).map fun c => s.clusterRoom c h / h.setSize 1).sum

/-- Can the next unit be placed with its first team on a core (R272, R273). -/
def State.placeable (s : State) (part : Nat) (h : Header) (core : Nat) : Bool :=
  (s.clusters part).contains (core / 4) && decide (1 ≤ s.teamRoom core h) && decide (h.setSize 1 ≤ s.clusterRoom (core / 4) h) &&
  decide (h.setSize 2 ≤ h.setSize 1 * s.dieRoom part (core / 24) h)

def State.placeableSomewhere (s : State) (part : Nat) (h : Header) : Bool :=
  ((s.clusters part).flatMap clusterCores).any fun c => s.placeable part h c

/-- A machine with nothing resident: what a partition can ever hold (R269). -/
def State.empty (s : State) : State := { s with run := { s.run with groups := [], teams := [] } }

/-! ### Acceptance and refusal (R269, R270, R276) -/

/-- The dispatcher's add to a counter, in its turn among the writes that stalled at the page: at HOLDLIM it is refused with PAGE_HELD
(R362); performed, it stands there as a release at system scope (R276, R291, R323). -/
def State.releaseAdd (s : State) (ctx : Nat) (va n : DWord) (id : Nat) : State × Option Code :=
  if s.overdue ctx va id then (s.unstallAt ctx va id, some .pageHeld)
  else match s.vadd ctx va n with
    | (t, some c) => (t.unstallAt ctx va id, some c)
    | (t, none) =>
      let rels : List Rel := match s.translate ctx .atomic va with
        | .ok x => ⟨.package, .sys, s.mem.ver, s.sch.nextId⟩ :: relsOf s.mem.marks (x.key va) 8
        | .error _ => []
      ((match s.translate ctx .atomic va with | .ok x => t.mark (x.key va) 8 rels | .error _ => t).unstallAt ctx va id, none)

/-- Add to the join record's COUNT; a refused add is a KERNEL event (R276). `id` is the team or the kernel that adds. -/
def State.joinAdd (s : State) (ctx : Nat) (hdr : DWord) (join : Option DWord) (n : DWord) (id : Nat) : State :=
  match join with
  | none => s
  | some j =>
    s.outside ctx (engineEffect j) fun u => match u.releaseAdd ctx j n id with
      | (t, none) => t
      | (t, some c) => (t.noteMalformed ctx j).raise ctx 4 c.num 0 0 hdr j

/-- A write of the dispatcher must wait for its page; it does not wait past HOLDLIM. -/
def State.pageWaits (s : State) (ctx : Nat) (va : DWord) (id : Nat) : Bool :=
  !s.suppresses ctx (engineEffect va) && s.writeWaits ctx va id && !s.overdue ctx va id

/-- The join add must wait for its page. -/
def State.joinWaits (s : State) (ctx : Nat) (join : Option DWord) (id : Nat) : Bool :=
  match join with | some j => s.pageWaits ctx j id | none => false

/-- The completion add of a queued kernel, and LASTERR of a refused one (R291). -/
def State.completionAdd (s : State) (ctx : Nat) (l : Launch) (code : Nat) (id : Nat) : State :=
  let s1 := if l.cpla = 0 then s else s.outside ctx (engineEffect l.cpla) fun u => (u.releaseAdd ctx l.cpla l.cpln id).1
  if code = 0 then s1
  else { s1 with ker := { s1.ker with queues := Table.upd s1.ker.queues l.queue fun q =>
    { q with lasterr := BitVec.ofNat 64 (l.index.toNat % 2 ^ 56 * 256 + code) } } }

/-- The completion add must wait for its page. -/
def State.completionWaits (s : State) (k : Kernel) (id : Nat) : Bool :=
  match k.launch with
  | some l => l.cpla != 0 && s.pageWaits k.ctx l.cpla id
  | none => false

/-- A kernel is REFUSED: the guardian's event, STATUS, COUNT, and the queue's completion add (R269, R276, R291). -/
def State.refuse (s : State) (ctx : Nat) (hdr : DWord) (join : Option DWord) (launch : Option Launch) (code n id : Nat) : State :=
  let s1 := s.raise ctx 4 code 0 0 hdr 0
  let s2 := match join with
    | some j => if s.overdue ctx (j + 8) id then s1
      else s1.outside ctx (engineEffect (j + 8)) fun u => (u.vstore ctx (j + 8) (leBytes 8 code)).toOption.getD u
    | none => s1
  let s3 := s2.joinAdd ctx hdr join (BitVec.ofNat 64 n) id
  match launch with | some l => s3.completionAdd ctx l code id | none => s3

/-- The number of teams that a header describes, a field of 0 taken as 1 (R276). -/
def Header.described (h : Header) : Nat :=
  ((h.xs.drop 1).map fun x => if x = 0 then 1 else x).foldl (· * ·) 1 % 2 ^ 64

/-- A launch enters the kernel as ACCEPTED; its header is read next (R267, R270). `args` is where its values stand; `early` refuses it
whatever the header says (R285). -/
def State.accept (s : State) (ctx : Nat) (hdr : DWord) (join : Option DWord) (vals : List DWord) (args : Option DWord) (slot : Bool)
    (launch : Option Launch) (early : Option Code) : State :=
  let (id, s1) := s.fresh
  let k : Kernel := ⟨ctx, s.partOf ctx, hdr, headerOf hdr [], vals, join, .accepted, 0, 0, slot, launch, 0, args, early, none, none⟩
  { s1 with ker := { s1.ker with kernels := Table.set s1.ker.kernels id k }, sch := { s1.sch with agenda := .kernelRead id :: s1.sch.agenda } }

/-- Six launch values at ARGS (R284). -/
def State.launchValues (s : State) (ctx : Nat) (args : DWord) : Except Code (List DWord) :=
  (List.range 6).foldr (fun k r => match s.vload ctx (args + BitVec.ofNat 64 (8 * k)) 8, r with
    | .ok b, .ok vs => .ok (BitVec.ofNat 64 (leNat b) :: vs)
    | .error c, _ => .error c
    | _, .error c => .error c) (.ok [])

/-- How the reading of a header and of launch values ends: at a page that must wait, with what has been read of the header; with a refusal
and the number of teams that COUNT receives; or with the header and the values. -/
inductive Checked where
  | wait (va : DWord) (text : Option (List Byte))
  | refuse (code n : Nat)
  | pass (h : Header) (vals : List DWord)

/-- The header check, of bytes that have been read (R269, R276, R285). -/
def State.checkText (s : State) (k : Kernel) (b : List Byte) : Checked :=
  let h := headerOf k.hdrVa b
  match k.early, k.args with
  | some c, _ => .refuse c.num h.described
  | none, some a =>
    if !headerOk b h then .refuse Code.illegalEncoding.num h.described
    else (match [a, a + 40].find? fun va => s.loadWaits k.ctx va with
      | some va => .wait va (some b)
      | none => (match s.launchValues k.ctx a with
        | .error c => .refuse c.num h.described
        | .ok vs => if s.empty.placeableSomewhere k.part h then .pass h vs else .refuse Code.resourceBound.num h.described))
  | none, none =>
    if !headerOk b h then .refuse Code.illegalEncoding.num h.described
    else if s.empty.placeableSomewhere k.part h then .pass h k.vals else .refuse Code.resourceBound.num h.described

/-- The header check; what has been read once is not read again (R267). -/
def State.checkHeader (s : State) (k : Kernel) : Checked :=
  match k.verdict, k.text with
  | some v, _ => .refuse v.1 v.2
  | none, some b => s.checkText k b
  | none, none =>
    if s.loadWaits k.ctx k.hdrVa then .wait k.hdrVa none
    else match s.vload k.ctx k.hdrVa 128 with
    | .error c => .refuse (k.early.getD c).num (2 ^ 63)
    | .ok b => s.checkText k b

/-- Reads went through the translations of an ACCEPTED kernel's header and values (R208, R211). -/
def State.touchLaunch (s : State) (k : Kernel) : State :=
  let s1 := (s.noteMalformed k.ctx k.hdrVa).touched k.ctx k.hdrVa
  match k.args with | some a => ((s1.noteMalformed k.ctx a).touched k.ctx a).touched k.ctx (a + 40) | none => s1

/-- A queue with nothing pending and no kernel before COMPLETE keeps no positive deficit (R292). -/
def State.settleDeficit (s : State) (q : Nat) : State :=
  let busy := s.ker.kernels.any fun p => match p.2.launch with | some l => l.queue == q | none => false
  { s with ker := { s.ker with queues := Table.upd s.ker.queues q fun x =>
    if !busy && x.wr == x.rd && decide (0 < x.deficit) then { x with deficit := 0 } else x } }

/-- Where the flag of the next unit's team number j stands (R281). -/
def Kernel.flagAt (k : Kernel) (base : DWord) (j : Nat) : DWord := base + BitVec.ofNat 64 (8 * k.hdr.tix (k.nextTix + j))

/-- What the refusal or the end of a kernel writes: its join record's STATUS and COUNT, its queue's completion counter. -/
def Kernel.endParts (k : Kernel) : List DWord :=
  (match k.join with | some j => [j + 8, j] | none => []) ++
  (match k.launch with | some l => if l.cpla = 0 then [] else [l.cpla] | none => [])

/-- The refusal of a kernel must wait: for the page of its join record, or of the queue's completion counter. -/
def State.refusalWaits (s : State) (k : Kernel) (id : Nat) : Bool := k.endParts.any fun va => s.pageWaits k.ctx va id

/-- Writes of the dispatcher that must wait take their places where their pages are held (R210). -/
def State.stallParts (s : State) (ctx : Nat) (vas : List DWord) (id : Nat) : State :=
  if s.replaying ctx then s else vas.foldl (fun t va => t.stallHeld ctx va id) s

def State.setKernel (s : State) (id : Nat) (k : Kernel) : State := { s with ker := { s.ker with kernels := Table.set s.ker.kernels id k } }

/-- The kernel leaves the table. -/
def State.dropKernel (s : State) (id : Nat) : State := { s with ker := { s.ker with kernels := Table.del s.ker.kernels id } }

/-- The dispatcher reads the header and the values of an ACCEPTED kernel, which then dispatches or is REFUSED; of a kernel that waits
for ready flags, it pulls the tiles that hold them (R270, R281, R360). -/
def execKernelRead (id : Nat) (s : State) : Out :=
  match Table.get s.ker.kernels id with
  | none => .next s
  | some k =>
    match k.st with
    | .accepted =>
      (match s.checkHeader k with
      | .wait va text => .next ((if text = k.text then s else s.setKernel id { k with text := text }).startPull k.ctx va)
      | .refuse code n =>
        if s.refusalWaits k id then
          .next ((if k.verdict.isSome then s else (s.touchLaunch k).setKernel id { k with verdict := some (code, n) }).stallParts k.ctx k.endParts id)
        else
          let s0 := if k.verdict.isSome then s else s.touchLaunch k
          let s1 := (s0.refuse k.ctx k.hdrVa k.join k.launch code n id).dropKernel id
          .next (match k.launch with | some l => s1.settleDeficit l.queue | none => s1)
      | .pass h vals =>
        let s1 := s.touchLaunch k
        .next (s1.setKernel id { k with hdr := h, vals := vals, st := .dispatching, live := h.teams, est := 1024 * h.x1, args := none, text := none }))
    | .dispatching =>
      (match k.launch.bind (·.flags) with
      | none => .next s
      | some (base, _) => .next ((List.range k.hdr.unit).foldl (fun t j => t.startPull k.ctx (k.flagAt base j)) s))
    | _ => .next s

/-- Spawn slots of a partition in use (R278). -/
def State.spawnSlots (s : State) (part : Nat) : Nat :=
  (s.ker.kernels.filter fun k => k.2.part == part && k.2.slot).length

/-! ### Energy admission (R295) -/

def State.energyOf (s : State) (part : Nat) : Energy := (Table.get s.ker.energy part).getD ⟨0, 1, 1, 0⟩

/-- A partition starts with its idle draw as measured, which the manual does not give: a free value (log 7), and with c = 1. -/
def State.startEnergy (s : State) (part : Nat) : State :=
  let (n, t) := s.draw
  { t with ker := { t.ker with energy := Table.set t.ker.energy part ⟨n, 1, 1, 0⟩ } }

/-- ENERGY of the partition's resident teams. -/
def State.residentEnergy (s : State) (part : Nat) : List Nat :=
  s.run.teams.filterMap fun p => if p.2.saved || p.2.freed then none else
    match Table.get s.ker.kernels p.2.kernel with | some k => if k.part = part then some k.hdr.energy else none | none => none

/-- The allowance in W: as Glen lowers it, else as privileged software set it (R295, R429). -/
def State.allowanceOf (s : State) (part : Nat) : Nat :=
  match Table.get s.sys.allowance part with
  | some w => w
  | none => match Table.get s.sys.parts part with | some p => field p.allow 15 0 | none => 0

/-- The measured draw of a partition exceeds its allowance: its quadrants withhold issue in some cycles. -/
def State.overdrawn (s : State) (part : Nat) : Bool :=
  match Table.get s.ker.energy part with | some e => decide (256 * s.allowanceOf part < e.pidle + e.measured) | none => false

/-- Is a unit of n teams of this ENERGY admitted. -/
def State.admitted (s : State) (part energy n : Nat) : Bool :=
  let e := s.energyOf part
  let r := s.residentEnergy part
  r.isEmpty || decide (e.pidle * e.cDen + e.cNum * (r.sum + n * energy) ≤ 256 * s.allowanceOf part * e.cDen)

/-! ### Which team is offered next (R271, R281, R288, R292) -/

/-- Contexts whose kernels dispatch: not suspended, not being torn down, not quiescing (R270). -/
def State.dispatches (s : State) (ctx : Nat) : Bool :=
  (match Table.get s.ctx.contexts ctx with
  | some c => (c.st == .guarded || c.st == .shared || c.st == .orphaned) && !c.tearing
  | none => false) &&
  (match Table.get s.ckp.ints ctx with | some x => x.st != .quiescing | none => true)

/-- The ready flags of the next unit's teams have reached the target (R281). -/
def State.flagsMet (s : State) (k : Kernel) : Bool :=
  match k.launch.bind (·.flags) with
  | none => true
  | some (base, target) => (List.range k.hdr.unit).all fun j =>
      let a := k.flagAt base j
      !s.loadWaits k.ctx a && match s.vload k.ctx a 8 with
      | .ok b => decide (target.toNat ≤ leNat b)
      | .error _ => false

/-- No kernel that the same queue accepted before still has teams to dispatch (R271). Kernels are numbered as they are accepted. -/
def State.queueTurn (s : State) (id : Nat) (k : Kernel) : Bool :=
  match k.launch with
  | none => true
  | some l => s.ker.kernels.all fun p => match p.2.launch with
    | some m => !(m.queue == l.queue && decide (p.1 < id) && (p.2.st == .accepted || p.2.st == .dispatching))
    | none => true

/-- The kernel holds a team that is ready to dispatch. -/
def State.kernelReady (s : State) (id : Nat) (k : Kernel) : Bool :=
  k.st == .dispatching && s.dispatches k.ctx && decide (k.nextTix < k.hdr.teams) && s.flagsMet k && s.queueTurn id k

/-- It can be placed and admitted too. -/
def State.kernelOffers (s : State) (id : Nat) (k : Kernel) : Bool :=
  s.kernelReady id k && s.placeableSomewhere k.part k.hdr && s.admitted k.part k.hdr.energy k.hdr.unit

/-- Queues of a partition that hold a team ready to dispatch: queue, QUANTUM × 1,024, deficit, and whether it can be placed. -/
def State.readyQueues (s : State) (part : Nat) : List (Nat × Nat × Int × Bool) :=
  s.ker.kernels.filterMap fun p => match p.2.launch with
    | some l => if p.2.part = part ∧ s.kernelReady p.1 p.2 then
        (match Table.get s.ker.queues l.queue with
        | some q => some (l.queue, field q.cfg 63 48 * 1024, q.deficit, s.kernelOffers p.1 p.2)
        | none => none)
      else none
    | none => none

/-- Visits that a queue needs before it may offer a team. -/
def visitsNeeded (quantum : Nat) (deficit : Int) : Nat :=
  if 0 < deficit then 1 else if quantum = 0 then 2 ^ 64 else (-deficit).toNat / quantum + 1

/-- A queue's place in the rotation after the queue last visited. -/
def rotationKey (last q : Nat) : Nat := (q + 1024 - (last + 1) % 1024) % 1024

/-- The queue that offers the next team, and the deficits after the visits that come before (R292): the queue on its visit goes on
while its deficit is positive and every team that it offers can be placed and admitted; else visits go round, each raising a deficit by a quantum, up to four quanta. -/
def State.nextQueue (s : State) (part : Nat) : Option (Nat × List (Nat × Int)) :=
  let last := (Sparse.get s.ker.rotation part).toNat
  let qs := s.readyQueues part
  match qs.find? fun q => q.1 == last && q.2.2.2 && decide (0 < q.2.2.1) && !s.ker.visitOver.contains part with
  | some q => some (q.1, [])
  | none =>
    let key (q : Nat × Nat × Int × Bool) : Nat × Nat := (visitsNeeded q.2.1 q.2.2.1, rotationKey last q.1)
    match pick (fun a b => decide ((key a).1 < (key b).1) || ((key a).1 == (key b).1 && decide ((key a).2 ≤ (key b).2)))
        (qs.filter fun q => q.2.2.2) with
    | none => none
    | some w =>
      some (w.1, qs.map fun q =>
        let n := if (key q).2 ≤ (key w).2 then (key w).1 else (key w).1 - 1
        let d : Int := q.2.2.1 + n * q.2.1
        (q.1, if (4 * q.2.1 : Int) < d then Max.max q.2.2.1 (4 * q.2.1) else d))

/-- Is a kernel the one whose team the partition's dispatcher offers now: spawned kernels in order of acceptance, then the queue
whose visit it is (R292). -/
def State.offered (s : State) (id : Nat) (k : Kernel) : Bool :=
  let spawned := s.ker.kernels.filter fun p => p.2.part == k.part && p.2.launch.isNone && s.kernelOffers p.1 p.2
  match k.launch with
  | none => (spawned.head?.map (·.1)) == some id
  | some l => spawned.isEmpty && s.kernelOffers id k && ((s.nextQueue k.part).map (·.1)) == some l.queue

/-- The visit of a queue ends, with the deficit kept: its team cannot be placed or admitted (R292). -/
def execVisitEnd (part : Nat) (s : State) : Out :=
  let last := (Sparse.get s.ker.rotation part).toNat
  .next (if ((s.readyQueues part).any fun q => q.1 == last && !q.2.2.2) && !s.ker.visitOver.contains part then
    { s with ker := { s.ker with visitOver := part :: s.ker.visitOver } } else s)

/-- The visits up to this offer, and the dispatched teams' estimates (R292). -/
def State.chargeQueue (s : State) (k : Kernel) (n : Nat) : State :=
  match k.launch, s.nextQueue k.part with
  | some _, some (q, ds) =>
    let qs1 := ds.foldl (fun t d => Table.upd t d.1 fun x => { x with deficit := d.2 }) s.ker.queues
    { s with ker := { s.ker with
      queues := Table.upd qs1 q fun x => { x with deficit := x.deficit - (n * k.est : Nat) }
      visitOver := s.ker.visitOver.filter (· != k.part)
      rotation := Sparse.set s.ker.rotation k.part (BitVec.ofNat 16 q) } }
  | _, _ => s

/-! ### Dispatch (R272 to R274) -/

/-- A lane as a group starts (R34, R91). -/
def startLane (entry : DWord) (wid : DWord) : Lane :=
  let x : Word := wid.setWidth 32 ^^^ 0x2545F491#32
  { laneZero with pc := entry, regionPc := entry, sr := if x = 0 then 1 else x }

/-- The lowest free group slots of a core, landing slots aside. -/
def State.freeSlots (s : State) (core : Nat) : List Nat :=
  (List.range 60).filter fun n => !((s.onCore core).any fun g => g.slot == n)

/-- A group as its team is dispatched (R143, R274). -/
def startGroup (h : Header) (vals : List DWord) (team gidx core quad slot tix : Nat) (now : DWord) : Group :=
  let w0 := if h.width = 16 then 4 else if h.width = 32 then 5 else 6
  let wid (k : Nat) : DWord := BitVec.ofNat 64 (k + gidx * 2 ^ w0 + tix * 2 ^ (w0 + h.ws.getD 0 0))
  { team := team, gidx := gidx, core := core, quad := quad, slot := slot, st := .resident
    lanes := (List.range h.width).map fun k => startLane h.entry (wid k), bundles := [], lastIssue := 0, issued := 0
    stalls := List.replicate 16 0, tstart := now, flags := 0
    s := (List.range (Nat.min 6 h.sregs)).foldl (fun f k => Sparse.set f k (vals.getD k 0)) []
    tags := 0, terr := 0, tagFault := [], tagSeen := 0, mcmade := 0, mcdone := 0, commits := [], unreachable := none, observed := [], saveFlags := 0, debugParked := false, only := 0, timeFloor := 0 }

def startTeam (h : Header) (kernel tix core est : Nat) (gids : List Nat) : Team :=
  { kernel := kernel, tix := tix, core := core, groups := gids, sp := [], marks := [], olds := [], barriers := List.replicate h.barriers ⟨0, [], none⟩
    tiles := List.replicate h.tiles tileZero, saved := false, retiring := false, freed := false, cycles := 0, est := est, stopping := false, regs := [] }

/-- Put a kernel's next team on a core, its groups in the named quadrants; an acquire at system scope follows (R274). -/
def State.dispatchTeam (s : State) (id core : Nat) (quads : List Nat) : State :=
  match Table.get s.ker.kernels id with
  | none => s
  | some k =>
    let h := k.hdr
    let tid := s.sch.nextId
    let gids := (List.range h.x1).map fun j => tid + 1 + j
    let tix := h.tix k.nextTix
    let slots := s.freeSlots core
    let gs := gids.mapIdx fun j gid => (gid, startGroup h k.vals tid j core (quads.getD j 0) (slots.getD j 0) tix (s.sch.time (dieOf core)))
    let last := k.nextTix + 1 == h.teams
    let k1 := { k with nextTix := k.nextTix + 1, st := if last then .running else k.st, slot := k.slot && !last }
    let s1 := { s with
      run := { s.run with
        groups := s.run.groups ++ gs
        teams := s.run.teams ++ [(tid, startTeam h id tix core k.est gids)] }
      sch := { s.sch with nextId := tid + 1 + h.x1 }
      ker := { s.ker with kernels := Table.set s.ker.kernels id k1 } }
    (s1.acquire core .sys).noteOrder k.ctx 3 tix (BitVec.ofNat 64 core) 0 []

/-- One of a list of numbers, the scheduler's choice. -/
def State.oneOf (s : State) (l : List Nat) : Nat × State :=
  let (n, t) := s.draw
  (l.getD (n % l.length) 0, t)

/-- Quadrants for n groups of a header, each one with room left (R272: the scheduler chooses). -/
def State.someQuads (s : State) (core : Nat) (h : Header) : Nat → List Nat → List Nat × State
  | 0, qs => (qs, s)
  | n + 1, qs =>
    let open' := (List.range 4).filter fun q => decide (qs.count q < s.quadRoom core q h)
    let (q, t) := s.oneOf open'
    State.someQuads t core h n (qs ++ [q])

/-- The remaining teams of a unit: each cluster set in one cluster of the die, each team on a core with room (R273). -/
def State.dispatchRest (s : State) (id part die : Nat) (h : Header) : Nat → Nat → Nat → State
  | 0, _, _ => s
  | n + 1, done, cluster =>
    let c := h.setSize 1
    let (cl, s1) := if done % c = 0 then
        s.oneOf ((s.clusters part).filter fun x => x / 6 == die && decide (c ≤ s.clusterRoom x h)) else (cluster, s)
    let (core, s2) := s1.oneOf ((clusterCores cl).filter fun x => decide (1 ≤ s1.teamRoom x h))
    let (qs, s3) := s2.someQuads core h h.x1 []
    State.dispatchRest (s3.dispatchTeam id core qs) id part die h n (done + 1) cl

/-- The quadrants named for the first team have room. -/
def State.quadsOk (s : State) (core : Nat) (h : Header) (quads : List Nat) : Bool :=
  quads.length == h.x1 && quads.all fun q => decide (q < 4) && decide (quads.count q ≤ s.quadRoom core q h)

/-- The dispatcher places the team that it offers, with its placement set, if the core and the quadrants have room and the
partition's energy admits it (R271 to R274, R292, R295). -/
def execTeamDispatch (kernel core : Nat) (quads : List Nat) (s : State) : Out :=
  match Table.get s.ker.kernels kernel with
  | none => .next s
  | some k =>
    if !s.offered kernel k ∨ !s.placeable k.part k.hdr core ∨ !s.quadsOk core k.hdr quads ∨
       !s.orderAllows k.ctx 3 (k.hdr.tix k.nextTix) (BitVec.ofNat 64 core) 0 then .next s
    else
      let s1 := (s.chargeQueue k k.hdr.unit).dispatchTeam kernel core quads
      .next (s1.dispatchRest kernel k.part (core / 24) k.hdr (k.hdr.unit - 1) 1 (core / 4))

/-! ### Retirement and the kernel's end (R276, R277, R293) -/

/-- Accesses of a team's groups have ended. -/
def State.teamQuiet (s : State) (team : Nat) : Bool := s.run.accs.all fun p => p.2.team != team

/-- The team's context is being quiesced at a boundary: nothing of it retires before the cut (R397). -/
def State.teamQuiescing (s : State) (t : Team) : Bool :=
  match Table.get s.ker.kernels t.kernel with | some k => s.quiescing k.ctx | none => false

/-- A retiring team: once its transfers are complete and its tiles READY it frees its registers and its other resources; once its accesses have ended it
makes its join add, and its charge is settled (R239, R263, R276, R293). -/
def execTeamRetire (team : Nat) (s : State) : Out :=
  match Table.get s.run.teams team with
  | none => .next s
  | some t =>
    let busy := (s.eng.transfers.any fun p => p.2.team == team) || (s.eng.tileOps.any fun p => p.2.team == team)
    if !t.retiring ∨ (!t.freed ∧ busy) ∨ s.teamQuiescing t then .next s
    else
      let s1 := s.setTeam team { t with freed := true, sp := [], tiles := [], barriers := [], regs := [] }
      match Table.get s1.ker.kernels t.kernel with
      | none => .next { s1 with run := { s1.run with teams := Table.del s1.run.teams team } }
      | some k =>
        if k.join.isSome ∧ !s1.teamQuiet team then .next s1
        else if s1.joinWaits k.ctx k.join team then .next (s1.stallParts k.ctx k.join.toList team)
        else
          let charge := (t.cycles + 63) / 64
          let s2 := s1.joinAdd k.ctx k.hdrVa k.join 1 team
          let k1 := { k with live := k.live - 1, est := charge, st := if k.live = 1 ∧ k.st = .running then .flushing else k.st }
          let queues := match k.launch with
            | some l => Table.upd s2.ker.queues l.queue fun q => { q with deficit := q.deficit + t.est - charge }
            | none => s2.ker.queues
          .next { s2 with
            run := { s2.run with teams := Table.del s2.run.teams team }
            ker := { s2.ker with kernels := Table.set s2.ker.kernels t.kernel k1, queues := queues } }

/-- The kernel-end flush completes: its accesses and STRQ transfers have ended; the .ro promise ends; completion is signalled
(R189, R277, R291). -/
def execKernelFlushComplete (kernel : Nat) (s : State) : Out :=
  match Table.get s.ker.kernels kernel with
  | none => .next s
  | some k =>
    if k.st ≠ .flushing ∨ s.run.accs.any (fun p => p.2.kernel == kernel) ∨
       s.eng.streams.any (fun p => p.2.kernel == kernel && p.2.chan.isNone) ∨ s.ker.records.any (fun p => p.kernel == kernel) ∨
       s.quiescing k.ctx then .next s
    else if s.completionWaits k kernel then .next (s.stallParts k.ctx (k.launch.map (·.cpla)).toList kernel)
    else
      let s1 : State := { s with mem := { s.mem with
        l1 := s.mem.l1.map fun x => if x.kernel = kernel then { x with ro := false } else x
        roCopies := s.mem.roCopies.filter fun x => x.kernel != kernel } }
      match k.launch with
      | some l => .next (((s1.completionAdd k.ctx l 0 kernel).dropKernel kernel).settleDeficit l.queue)
      | none => .next (s1.dropKernel kernel)

/-! ### SPAWN and spawn writes (R278, R279) -/

/-- The kernel's SREGS. -/
def State.sregs (s : State) (g : Group) : Nat := match s.kernelOf g with | some k => k.hdr.sregs | none => 64

def execSpawn (h : Hd) (sc : Scope) (a b c : Opnd) (s : State) : Out :=
  .next (s.once h fun s i g k =>
    let src := i.source g
    let l := src.lane k
    let n := match b with | .s x => x.toNat | _ => 64
    let hdr := readOp src l true a
    let join := if c.isAbsent then none else some (readOp src l true c)
    if s.sregs g ≤ n + 5 then s.trapGuarded i g h .resourceBound 0
    else if hdr.toNat % 128 ≠ 0 then s.trapGuarded i g h .alignment hdr
    else if (join.getD 0).toNat % 16 ≠ 0 then s.trapGuarded i g h .alignment (join.getD 0)
    else if !s.reached i.gid sc (s.earlier i g) then s.waitAtIssue i 2
    else if 256 ≤ s.spawnSlots (s.partOf (s.ctxOf g)) then s.waitAtIssue i 11
    else (s.accept (s.ctxOf g) hdr join ((List.range 6).map fun j => Sparse.get src.s (n + j)) none true none none).lanes h fun _ _ _ => {})

/-- A host's write to a spawn page. It is held back only where the partition's spawn slots are full (R279). -/
def execSpawnWrite (host ctx off : Nat) (bytes : List Byte) (s : State) : Out :=
  let hdr : DWord := BitVec.ofNat 64 (bytesField bytes 0 8)
  let join : DWord := BitVec.ofNat 64 (bytesField bytes 56 8)
  match Table.get s.ctx.contexts ctx with
  | none => .next (s.glen 1 1 (BitVec.ofNat 64 ctx))
  | some c =>
    if c.st = .building ∨ c.st = .tornDown then .next (s.glen 1 1 (BitVec.ofNat 64 ctx))
    else if bytes.length ≠ 64 then .next (s.raise ctx 4 Code.illegalEncoding.num 0 0 0 0)
    else if off ≠ 0 then .next (s.raise ctx 4 Code.illegalEncoding.num 0 0 hdr 0)
    else if hdr.toNat % 128 ≠ 0 ∨ join.toNat % 16 ≠ 0 then .next (s.raise ctx 4 Code.alignment.num 0 0 hdr 0)
    else if 256 ≤ s.spawnSlots c.record.part then
      .next { s with sch := { s.sch with held := s.sch.held ++ [.row (.spawnWrite host ctx off bytes)] } }
    else
      .next (s.accept ctx hdr (if join = 0 then none else some join)
        ((List.range 6).map fun j => BitVec.ofNat 64 (bytesField bytes (8 + 8 * j) 8)) none true none none)

end Sys2Proof.Machine
end

