-- ==== Sys2Proof/Machine/Queue.lean ====
section
/-! DEFINITION. Machine/Queue.lean: queues, launch records, the index page and QPOST; the energy correction (16_queue.md, R282 to
R297). -/

namespace Sys2Proof.Machine

/-! ### Who may write a partition's registers (R25, R421) -/

/-- The host is named in PRIV of the partition. -/
def State.privileged (s : State) (host part : Nat) : Bool :=
  match Table.get s.sys.parts part with | some p => p.ctl.getLsbD (8 + host % 8) | none => false

/-- The host is named in DEVAUTH. -/
def State.authority (s : State) (host : Nat) : Bool := s.sys.devauth.getLsbD host

def State.partEnabled (s : State) (part : Nat) : Bool :=
  match Table.get s.sys.parts part with | some p => p.ctl.getLsbD 0 | none => false

/-! ### Queues (R282, R283, R286, R289, R290) -/

def queueZero : Queue := ⟨0, 0, 0, 0, 0, 0, .disabled, .disabled, false, 0, none, none, none⟩

def State.queue (s : State) (q : Nat) : Queue := (Table.get s.ker.queues q).getD queueZero

def State.setQueue (s : State) (q : Nat) (x : Queue) : State :=
  { s with ker := { s.ker with queues := Table.set s.ker.queues q x } }

def Queue.size (x : Queue) : Nat := 2 ^ field x.cfg 4 0
def Queue.ctx (x : Queue) : Nat := field x.cfg 47 36
def Queue.part (x : Queue) : Nat := field x.cfg 35 32
def Queue.pending (x : Queue) : Nat := (x.wr - x.rd).toNat

/-- DROPPED saturates (R286). -/
def Queue.drop (x : Queue) : Queue :=
  { x with dropped := BitVec.ofNat 32 (Nat.min (x.dropped.toNat + x.pending) (2 ^ 32 - 1)), rd := x.wr, record := none }

/-- STATE codes of QSTAT (R286). -/
def QueueState.num (x : QueueState) : Nat :=
  match x with | .disabled => 0 | .active => 1 | .waiting => 2 | .overrun => 3 | .suspended => 4

/-- A read of eight bytes of a queue's index page (R286). -/
def Queue.read (x : Queue) (off : Nat) : DWord :=
  if off = 0 then x.wr
  else if off = 8 then x.rd
  else if off = 0x10 then BitVec.ofNat 64 (x.dropped.toNat * 2 ^ 32 + x.st.num)
  else if off = 0x20 then x.lasterr
  else 0

/-- The overrun decision (R289, R290). -/
def State.overrun (s : State) (q : Nat) : State :=
  let x := s.queue q
  if (x.st == .active || x.st == .waiting) && decide (x.size < x.pending) then
    let y := { x.drop with st := .overrun }
    ((s.setQueue q y).settleDeficit q).raise x.ctx 3 1 0 0 (BitVec.ofNat 64 q) (y.dropped.setWidth 64)
  else s

/-- EN is set: a bad size, base or partition leaves it clear and goes to Glen; fields of an enabled queue do not change
(R282, R290). -/
def execQueueEnable (host q : Nat) (cfg : DWord) (s : State) : Out :=
  let x := s.queue q
  let y : Queue := { x with cfg := cfg &&& 0xFFFFFFFF000000DF#64 }
  if 1024 ≤ q ∨ !s.privileged host y.part ∨ x.cfg.getLsbD 7 then .next s
  else
    let log := field cfg 4 0
    let ctxOk : Bool := match Table.get s.ctx.contexts y.ctx with | some c => c.record.part == y.part && c.st != .tornDown | none => false
    if log < 4 ∨ 16 < log ∨ x.base.toNat % (64 * 2 ^ log) ≠ 0 ∨ !ctxOk ∨ !s.partEnabled y.part then
      .next ((s.setQueue q { y with cfg := y.cfg &&& ~~~0x80#64 }).glen 1 2 (BitVec.ofNat 64 q))
    else
      .next (s.setQueue q { y with
        cfg := y.cfg ||| 0x80#64, wr := 0, rd := 0, dropped := 0, lasterr := 0, asked := false, st := .active, prior := .active, record := none })

/-- EN is cleared: pending records are discarded; accepted kernels run on (R282, R290). -/
def execQueueDisable (host q : Nat) (s : State) : Out :=
  let x := s.queue q
  if !s.privileged host x.part then .next s
  else .next ((s.setQueue q { x with cfg := x.cfg &&& ~~~0x80#64, st := .disabled, rd := x.wr, record := none }).settleDeficit q)

/-- A write that meets a locked index page is applied after the unlock (R297). -/
def State.holdBack (s : State) (d : Due) : State := { s with sch := { s.sch with held := s.sch.held ++ [d] } }

/-- A write to WRIDX on the index page (R286, R289, R290). -/
def execWridxWrite (q : Nat) (v : DWord) (s : State) : Out :=
  let x := s.queue q
  if 1024 ≤ q then .next s
  else if s.locked x then .next (s.holdBack (.row (.wridxWrite q v)))
  else .next (((s.setQueue q { x with wr := v, record := if v = x.rd then none else x.record }).overrun q).settleDeficit q)

/-- A write of 1 to QCTL (R286, R290). -/
def execQueueReset (q : Nat) (s : State) : Out :=
  let x := s.queue q
  if s.locked x then .next (s.holdBack (.row (.queueReset q)))
  else if x.st == .active || x.st == .waiting || x.st == .overrun then
    .next ((s.setQueue q { x.drop with st := .active, asked := false }).settleDeficit q)
  else .next s

/-! ### Taking a record (R284, R285, R288) -/

/-- The last kernel that the queue accepted allows the head to be taken: it is COMPLETE, or with CONC it is RUNNING or later (R288).
Indices that start over at EN or move at RESET do not change which kernel that was. -/
def State.previousAllows (s : State) (x : Queue) (conc : Bool) : Bool :=
  match x.last.bind (Table.get s.ker.kernels) with
  | none => true
  | some k => conc && (k.st == .running || k.st == .flushing)

/-- A record with a must-be-zero bit, DEP 3 or a misaligned address (R285). -/
def recordBad (b : List Byte) : Bool :=
  let fl := bytesField b 56 2
  fl / 8 != 0 || bytesField b 58 2 != 0 || fl % 4 == 3 || bytesField b 8 8 % 8 != 0 || bytesField b 16 8 % 8 != 0 ||
  bytesField b 32 8 % 8 != 0 || bytesField b 48 8 % 16 != 0

/-- Take a record that has been read: RDIDX moves on, and its kernel is ACCEPTED (R284, R285). -/
def State.takeRecord (s : State) (q : Nat) (x : Queue) (b : List Byte) : State :=
  let fl := bytesField b 56 2
  let f (o : Nat) : DWord := BitVec.ofNat 64 (bytesField b o 8)
  let bad := recordBad b
  let join := if f 48 = 0 ∨ bytesField b 48 8 % 16 ≠ 0 then none else some (f 48)
  let cpla := if bytesField b 32 8 % 8 = 0 then f 32 else 0
  let l : Launch := ⟨q, x.rd, if fl % 4 = 2 then some (f 16, f 24) else none, cpla, f 40⟩
  (s.setQueue q { x with st := .active, rd := x.rd + 1, asked := false, record := none, last := some s.sch.nextId }).accept x.ctx (f 0) join
    (List.replicate 6 0) (if bad ∨ f 8 = 0 then none else some (f 8)) false (some l) (if bad then some .illegalEncoding else none)

/-- The address of the counter that a record depends on, malformed or not; a misaligned one names no counter that could be read, and the
record is then refused without it (R284, R285, R288; DESIGN CHOICE, log 62). -/
def recordDep (b : List Byte) : Option DWord :=
  if bytesField b 56 2 % 4 ≠ 1 ∨ bytesField b 16 8 % 8 ≠ 0 then none else some (BitVec.ofNat 64 (bytesField b 16 8))

/-- The record's dependency is met, its counter read. -/
def State.depMet (s : State) (ctx : Nat) (b : List Byte) : Bool :=
  match recordDep b with
  | none => true
  | some a => match s.vload ctx a 8 with
    | .ok v => decide (bytesField b 24 8 ≤ leNat v)
    | .error _ => false

/-- The head record is read, once: the queue keeps it when its SEQ matches. A page fault is a service request, and in an orphan
suspends the context (R283, R285, R290, R304). -/
def State.readRecord (s : State) (q : Nat) (x : Queue) : State :=
  let va := x.base + BitVec.ofNat 64 (64 * (x.rd.toNat % x.size))
  let wait (t : State) (asked : Bool) : State := t.setQueue q { x with st := .waiting, asked := asked }
  if s.loadWaits x.ctx va then wait (s.startPull x.ctx va) x.asked
  else match s.vload x.ctx va 64 with
  | .error c =>
    let t := s.noteMalformed x.ctx va
    if c == .pageNotPresent || c == .pageLost then
      (if x.asked then wait t true else (wait t true).raise x.ctx 3 2 0 0 (BitVec.ofNat 64 q) x.rd).needService x.ctx
    else wait t x.asked
  | .ok b =>
    let t := s.touched x.ctx va
    if bytesField b 60 4 = x.rd.toNat % 2 ^ 32 then t.setQueue q { x with record := some b, asked := false } else wait t false

/-- The dispatcher looks at a queue's head record: it takes it when every condition of R288 holds; else the queue waits. -/
def execRecordTake (q : Nat) (s : State) : Out :=
  let x := s.queue q
  if !(x.st == .active || x.st == .waiting) ∨ x.pending = 0 ∨ x.size < x.pending ∨ !s.dispatches x.ctx then .next s
  else
    let t := if x.record.isSome then s else s.readRecord q x
    let y := t.queue q
    let wait (s : State) : State := s.setQueue q { y with st := .waiting }
    match y.record with
    | none => .next t
    | some b =>
      if !t.previousAllows y (bytesField b 56 2 / 4 % 2 == 1) then .next (wait t)
      else match (recordDep b).filter fun a => t.loadWaits y.ctx a with
        | some a => .next (wait (t.startPull y.ctx a))
        | none =>
          let u := match recordDep b with | some a => t.touched y.ctx a | none => t
          if t.depMet y.ctx b then .next (u.takeRecord q y b) else .next (wait u)

/-- Every 100 µs: c ← c × M / (P − Pidle), between ¼ and 4; `measured` is M in 1/256 W (R295). Without a resident team the
quotient has no value and c stays. The idle draw is measured anew: a free value (log 7). -/
def execEnergyCorrection (part measured : Nat) (s : State) : Out :=
  let e := s.energyOf part
  let sum := (s.residentEnergy part).sum
  let c : Nat × Nat := if sum = 0 then (e.cNum, e.cDen) else if 4 * measured < sum then (1, 4)
    else if 4 * sum < measured then (4, 1) else (measured, sum)
  let (n, t) := s.draw
  .next { t with ker := { t.ker with energy := Table.set t.ker.energy part ⟨n, c.1, c.2, measured⟩ } }

/-! ### QPOST (R296, R297) -/

/-- An imprecise fault of an instruction that executes once for its bundle (R98): the guarded lanes have the code and address. -/
def State.parkOnce (s : State) (i : Issue) (g : Group) (h : Hd) (c : Code) (a : DWord) : State :=
  ((s.noteMalformed (s.ctxOf g) a).parkImprecise i.gid i.lanes ((i.guarded g h).map fun k => (k, c, a)) 0).setIssue
    fun j => { j with trapped := true }

/-- The queue takes a record from a context's device code (R297). -/
def Queue.takes (x : Queue) (ctx : Nat) : Bool :=
  x.cfg.getLsbD 7 && x.ctx == ctx && (x.st == .active || x.st == .waiting) && x.pending != x.size

/-- A QPOST locks a queue's index page, and waits with it (R297). -/
def State.lockQueue (s : State) (q : Nat) (i : Issue) (g : Group) : State :=
  s.setQueue q { s.queue q with lock := some (g.team, g.gidx, i.lanes) }

/-- It unlocks the page, and waits at no page any more. -/
def State.unlockQueue (s : State) (q : Nat) (i : Issue) : State :=
  if (s.queue q).lock.isNone then s else (s.setQueue q { s.queue q with lock := none }).unstall i.gid

def execQpost (h : Hd) (sc : Scope) (d a b e : Opnd) (s : State) : Out :=
  .next (s.once h fun s i g k =>
    let src := i.source g
    let l := src.lane k
    let q := match a with | .imm x => x.toNat | _ => srcN32 src l a
    let rec' := readOp src l true b
    let ctx := s.ctxOf g
    if 1024 ≤ q then s.trapGuarded i g h .resourceBound 0
    else if rec'.toNat % 64 ≠ 0 then s.trapGuarded i g h .alignment rec'
    else if !s.reached i.gid sc (s.earlier i g) then s.waitAtIssue i 2
    else
      let x := s.queue q
      if s.locked x && !x.lockedBy g i.lanes then s.waitAtIssue i 11
      else
      let finish (t : State) (ok : Bool) (n : DWord) : State :=
        let (t1, r) := (t.unlockQueue q i).settleResult g k (leBytes 8 (if ok then n else -1).toNat ++ [if ok then 1 else 0])
        t1.lanes h fun _ _ _ => { regs := [(e, true, BitVec.ofNat 64 (bytesField r 0 8))], preds := [(d, bytesField r 8 1 == 1)] }
      if !x.takes ctx then finish s false 0
      else
        let slot := x.base + BitVec.ofNat 64 (64 * (x.wr.toNat % x.size))
        let park (c : Code) (a : DWord) : State := (s.unlockQueue q i).parkOnce i g h c a
        if s.overdue ctx slot i.gid then park .pageHeld slot
        else match s.engineRead ctx rec' 64, s.engineWrite ctx slot 64 (some i.gid) with
        | .fault c, _ => park c rec'
        | _, .fault c => park c slot
        | .wait, _ => ((s.startPull ctx rec').lockQueue q i g).waitAtIssue i 15
        | _, .wait => ((s.stallHeld ctx slot i.gid).lockQueue q i g).waitAtIssue i 11
        | .ok t1, .ok t2 =>
          let (s1, b) := s.readAt ctx t1 rec' 64
          let s2 := s1.writeAt ctx t2 slot (b.take 60 ++ leBytes 4 (x.wr.toNat % 2 ^ 32))
          finish (s2.setQueue q { x with wr := x.wr + 1 }) true x.wr)

end Sys2Proof.Machine
end

