-- ==== Sys2Proof/Machine/Call.lean ====
section
/-! DEFINITION. Machine/Call.lean: vector system calls and CTXQ (17_context.md, R311 to R314). -/

namespace Sys2Proof.Machine

/-! ### SVC (R311) -/

/-- The records of the call area that are FREE, lowest first. -/
def State.freeRecords (s : State) (ctx : Nat) : List Nat :=
  (List.range 256).filter fun n => match s.callRec ctx n with | some r => r.st == 0 | none => false

/-- The j-th argument pair of a lane, vN+2j with its partner. -/
def argBytes (l : Lane) (base j : Nat) : List Byte :=
  leBytes 8 (l.readV (base + 2 * j + 1) ++ l.readV (base + 2 * j) : DWord).toNat

/-- Post one call for lanes that name one number: the record's fields, then STATE, then the event. The handle is GEN × 256 and
the record's index. `src` holds the lanes as the instruction reads them. -/
def State.postCall (s : State) (gid : Nat) (src : Group) (base nargs num r : Nat) (ks : List Nat) : State × Nat :=
  let ctx := s.ctxOf src
  let wid := s.wid src 0
  let gen := match s.callRec ctx r with | some x => (x.gen + 1) % 2 ^ 24 | none => 0
  let s1 := ks.foldl (fun t k =>
    t.setRec ctx r (64 + 48 * k) ((List.range nargs).flatMap fun j => argBytes (src.lane k) base j)) s
  let s2 := s1.setRec ctx r 24 (leBytes 4 gen ++ leBytes 4 nargs)
  let s3 := (s2.setRec ctx r 0 (leBytes 4 num)).setRec ctx r 8 (leBytes 8 (laneMask ks).toNat ++ leBytes 8 wid.toNat)
  let s4 := (s3.setRec ctx r 4 [1, 0]).noteCaller ctx r gid
  let s5 := (s4.raise ctx 2 0 0 wid (s.recordVa ctx r) (BitVec.ofNat 64 (r + gen * 256))).needService ctx
  (s5, gen * 256 + r)

/-- Post the calls of a bundle by ascending number, each as there is a FREE record for it: the numbers that are left, and the handles of
the lanes whose calls are posted (R311). -/
def State.postCalls (s : State) (gid : Nat) (src : Group) (base nargs : Nat) :
    List (Nat × Mask) → State × List (Nat × Mask) × List (Nat × Nat)
  | [] => (s, [], [])
  | (n, m) :: rest =>
    match s.freeRecords (s.ctxOf src) with
    | [] => (s, (n, m) :: rest, [])
    | r :: _ =>
      let (s1, h) := s.postCall gid src base nargs n r (maskLanes m)
      let (s2, left, hs) := State.postCalls s1 gid src base nargs rest
      (s2, left, (maskLanes m).map (fun k => (k, h)) ++ hs)

/-- The result of each lane, recorded or taken from the log (R408, R410). -/
def State.settleEach (s : State) (g : Group) (n : Nat) : List (Nat × Nat) → State × List (Nat × Nat)
  | [] => (s, [])
  | (k, v) :: r =>
    let (s1, b) := s.settleResult g k (leBytes n v)
    let (s2, vs) := State.settleEach s1 g n r
    (s2, (k, leNat b) :: vs)

/-- Numbers in ascending order. -/
def ascendingInsert (x : Nat) : List Nat → List Nat
  | [] => [x]
  | y :: r => if x ≤ y then x :: y :: r else y :: ascendingInsert x r

def ascending (ns : List Nat) : List Nat := ns.foldr ascendingInsert []

/-- The call number of a lane. -/
def callNumber (g : Group) (l : Lane) (a : Opnd) : Nat := match a with | .imm x => x.toNat | _ => srcN32 g l a

/-- What a lane of SVC receives. -/
def handleEff (d : Opnd) (vs : List (Nat × Nat)) (k : Nat) : Eff :=
  { regs := [(d, false, BitVec.ofNat 64 (((vs.find? fun p => p.1 == k).map (·.2)).getD 0))] }

/-- SVC posts its calls when every earlier access of the group has ended; for each number it waits for a FREE record. A replay
posts nothing (R311, R410). -/
def execSvc (h : Hd) (d a b c : Opnd) (s : State) : Out :=
  .next (s.once h fun s i g _ =>
    let src := i.source g
    let nargs := match c with | .imm x => x.toNat | _ => 0
    let base := match b with | .v x => x.toNat | _ => 0
    let ks := i.guarded g h
    let num (k : Nat) : Nat := callNumber src (src.lane k) a
    let nums := ascending (ks.map num).eraseDups
    let calls := nums.map fun n => (n, laneMask (ks.filter fun k => num k == n))
    if nargs ≠ 0 ∧ (s.declared g).1 ≤ base + 2 * nargs - 1 then s.trapGuarded i g h .resourceBound 0
    else if !s.reached i.gid .sys (s.earlier i g) then s.waitAtIssue i 2
    else
      let (s1, left, hs) := if s.replaying (s.ctxOf g) then (s, [], ks.map fun k => (k, 0)) else s.postCalls i.gid src base nargs calls
      if left.isEmpty then
        let (s2, vs) := s1.settleEach g 4 hs
        s2.later h fun _ k _ => handleEff d vs k
      else s1.stallBundle i g h ⟨.posting d base nargs left hs, 15, none, .absent, i.word, false, false⟩)

/-! ### SVCW (R312, R313) -/

/-- What a lane finds behind its handle. -/
inductive Reply where
  | stale
  | waits
  | replied (v : DWord)
  | refused (va : DWord)
  deriving DecidableEq, Repr

/-- Look at the record behind a handle. A replay takes the reply, or the refusal, from the log (R408, R410). A lane that waits already (`late`)
has had its handle checked: it looks at STATE alone (R312). -/
def State.replyFor (s : State) (g : Group) (k : Nat) (handle : Nat) (late : Bool := false) : Reply :=
  let ctx := s.ctxOf g
  let n := handle % 256
  match s.logged ctx 7 (s.wid g k) (g.lane k).retired, s.logged ctx 2 (s.wid g k) (g.lane k).retired with
  | some r, _ => .replied (BitVec.ofNat 64 (leNat r.data))
  | none, some _ => .refused (s.recordVa ctx n)
  | none, none =>
    match s.callRec ctx n with
    | none => if late then .waits else .stale
    | some r =>
      if !late && (r.gen != handle / 256 || r.st == 0 || !hasBit r.mask k) then .stale
      else if r.st = 3 then
        (match s.vload ctx (s.recordVa ctx n + BitVec.ofNat 64 (3136 + 8 * k)) 8 with
        | .ok b => .replied (BitVec.ofNat 64 (leNat b))
        | .error _ => .replied 0)
      else if r.st = 4 then .refused (s.recordVa ctx n)
      else .waits

/-- A lane has its reply or its refusal: it is struck, and the outcome is recorded. -/
def State.takeReply (s : State) (g : Group) (k handle : Nat) (r : Reply) : State :=
  let ctx := s.ctxOf g
  match r with
  | .replied v =>
    let s1 := (s.settleResult g k (leBytes 8 v.toNat)).1
    if s.replaying ctx then s1 else s1.strike ctx (handle % 256) (laneMask [k])
  | .refused _ =>
    if s.replaying ctx then s
    else (s.log ctx ⟨2, 0, 0, s.wid g k, (g.lane k).retired, []⟩).strike ctx (handle % 256) (laneMask [k])
  | _ => s

/-- The record has been answered: the lane acquires (R312). -/
def Reply.answered (r : Reply) : Bool := match r with | .replied _ | .refused _ => true | _ => false

/-- The fault of a lane: a stale handle, or a refusal (R312). -/
def Reply.fault (r : Reply) (handle : Nat) : Option (Code × DWord) :=
  match r with
  | .stale => some (.resourceBound, BitVec.ofNat 64 handle)
  | .refused va => some (.serviceRequired, va)
  | _ => none

def execSvcw (h : Hd) (d a : Opnd) (s : State) : Out :=
  .next (s.once h fun s i g _ =>
    let src := i.source g
    let handle (k : Nat) : Nat := srcN32 src (src.lane k) a
    let rs := (i.guarded g h).map fun k => (k, s.replyFor g k (handle k))
    let fs := rs.filterMap fun p => (p.2.fault (handle p.1)).map fun f => (p.1, f.1, f.2)
    if !fs.isEmpty then
      let s1 := rs.foldl (fun t p => match p.2 with | .refused _ => t.takeReply g p.1 (handle p.1) p.2 | _ => t) s
      (if rs.any fun p => p.2 matches .refused _ then s1.acquire g.core .sys else s1).takeTrap i fs
    else
      let s1 := rs.foldl (fun t p => t.takeReply g p.1 (handle p.1) p.2) s
      (if rs.any fun p => p.2.answered then s1.acquire g.core .sys else s1).turns i g (rs.map fun p => (p.1, match p.2 with
        | .replied v => .now { regs := [(d, true, v)] }
        | _ => .wait ⟨.svcw d (BitVec.ofNat 32 (handle p.1)), 15, none, .absent, i.word, false, false⟩)))

/-! ### CTXQ (R314) -/

/-- A lease in ns: LEASE ms, 0 means 100 (R298). -/
def Record.leaseNs (r : Record) : Nat := (if r.lease = 0 then 100 else r.lease) * 1000000

/-- The orphan limit in ns: OLIM s, 0 means 60, all ones means unlimited (R298). -/
def Record.limitNs (r : Record) : Option Nat :=
  if r.olim = 0xFFFFFFFF then none else some ((if r.olim = 0 then 60 else r.olim) * 1000000000)

def CtxState.num : CtxState → Nat
  | .building => 0
  | .guarded => 1
  | .shared => 2
  | .orphaned => 3
  | .suspended => 4
  | .tornDown => 5

/-- Groups of a context. -/
def State.groupsOf (s : State) (ctx : Nat) : List (Nat × Group) := s.run.groups.filter fun p => s.ctxOf p.2 == ctx

/-- Sub-state PARK: a group is debug-parked, or the interval is REPLAYING or STOPPED (R302, R406). -/
def State.parkState (s : State) (ctx : Nat) : Bool := s.replaying ctx || (s.groupsOf ctx).any fun p => p.2.debugParked

/-- Sub-state SNAPSHOT (R399). -/
def State.snapState (s : State) (ctx : Nat) : Bool :=
  match Table.get s.ckp.ints ctx with | some x => x.st == .snapshot | none => false

def allOnes : DWord := 0xFFFFFFFFFFFFFFFF

/-- The value of an item. -/
def State.ctxItem (s : State) (ctx : Nat) (c : Context) (item : Nat) : DWord :=
  if item = 0 then
    let hosts := (c.guardians.map fun g => g.host).eraseDups
    BitVec.ofNat 64 (ctx * 2 ^ 48 + c.record.part * 2 ^ 32 + (hosts.map fun h => 2 ^ (16 + h)).sum + c.guardians.length * 2 ^ 8 +
      (if s.snapState ctx then 16 else 0) + (if s.parkState ctx then 8 else 0) + c.st.num)
  else if item = 1 then
    (match c.st == .orphaned, c.record.limitNs with
    | true, some n => BitVec.ofNat 64 (n - c.orphan)
    | _, _ => allOnes)
  else if item = 2 then
    (match c.guardians with
    | [] => allOnes
    | g :: r => BitVec.ofNat 64 (r.foldl (fun n x => Nat.min n (c.record.leaseNs - x.age)) (c.record.leaseNs - g.age)))
  else BitVec.ofNat 64 ((List.range 256).filter fun n =>
    match s.callRec ctx n with | some r => r.st == 1 || r.st == 2 | none => false).length

def execCtxq (h : Hd) (d a : Opnd) (s : State) : Out :=
  .next (s.once h fun s i g k =>
    let item := match a with | .imm x => x.toNat | _ => 0
    let ctx := s.ctxOf g
    let v := match Table.get s.ctx.contexts ctx with | some c => s.ctxItem ctx c item | none => 0
    let (s1, b) := s.settleResult g k (leBytes 8 v.toNat)
    let _ := i
    s1.lanes h fun _ _ _ => { regs := [(d, true, BitVec.ofNat 64 (leNat b))] })

end Sys2Proof.Machine
end

