-- ==== Sys2Proof/Machine/Link.lean ====
section
/-! DEFINITION. Machine/Link.lean: die links, the time counter, ports and routes, DRAIN, MIGRATE and LKQ (20_link.md, R333 to R352,
R436; 01_device.md, R17, R19 to R22). -/

namespace Sys2Proof.Machine

/-! ### Glen's codes for links are the model's (log 15): source 2 -/

def Config.glenLink : Nat := 2

/-! ### Routes change (R334, R341, R346, R347) -/

/-- An access of a fabric page that a peer's end of reach ends: its answer has not come (R340, R341). -/
def Access.endsWith (a : Access) (f : Nat) : Bool :=
  !a.sp && a.fault.isNone && (match a.tr with | some t => t.cls == 2 && t.num == f | none => false)

/-- How an access ends without an answer: a store is dropped, another faults REMOTE_TIMEOUT (R340, R341). -/
def Access.timeOut (a : Access) : Access :=
  if a.kind = .store then { a with st := .refused } else { a with fault := some .remoteTimeout }

/-- VALID, DOM and PKG of %tskew (R21). -/
def skewWord (valid : Bool) (dom pkg : Nat) : DWord :=
  BitVec.ofNat 64 ((if valid then 2 ^ 63 else 0) + dom * 2 ^ 16 + pkg)

/-- Alignment is lost, or not yet reached: VALID is clear until the exchange restores it (R21, R22). -/
def Sched.lost (c : Sched) : Sched := { c with skew := c.skew &&& 0x7FFFFFFFFFFFFFFF, inDomain := false }

/-- The greatest copy of the time counter in the package. -/
def Sched.latest (c : Sched) : DWord := c.clocks.foldl (fun m x => if m.toNat < x.toNat then x else m) 0

/-- A device joins the domain: every copy steps to the greatest counter among the devices, of which the others' is a free value, and Glen
records the step (R20, R347). Whether DOM holds is not known before the next exchange. -/
def State.stepTime (s : State) : State :=
  let (n, s1) := s.draw
  let v : DWord := BitVec.ofNat 64 (Nat.max s.sch.latest.toNat (n % 2 ^ 64))
  ({ s1 with sch := { s1.sch with
      clocks := s1.sch.clocks.map fun _ => v, slews := s1.sch.slews.map fun _ => ⟨0, 0⟩ }.lost } : State).glen Config.glenLink 5 v

/-- Put links in place: each route that changes adds one to the domain generation; accesses to a peer that has become unreachable
end; a domain that loses a member clears VALID, and with a new member the counter steps forward (R20, R334, R341, R347). -/
def State.setLinks (s : State) (l : Links) : State :=
  let changed := (List.range 16).filter fun f => s.lnk.route f != l.route f
  let gone := changed.filter fun f => l.route f == .none
  let joined := changed.filter fun f => s.lnk.route f == .none
  let accs := s.run.accs.map fun p => (p.1, if gone.any fun f => p.2.endsWith f then p.2.timeOut else p.2)
  let s1 := { s with
    lnk := { l with generation := s.lnk.generation + BitVec.ofNat 64 changed.length }
    run := { s.run with accs := accs }
    sch := if gone.isEmpty then s.sch else s.sch.lost }
  if joined.isEmpty then s1 else s1.stepTime

def State.port (s : State) (n : Nat) : Port := (Table.get s.lnk.ports n).getD portReset

def State.setPort (s : State) (n : Nat) (p : Port) : State :=
  s.setLinks { s.lnk with ports := Table.set s.lnk.ports n p }

/-- A command that the port's state does not allow is ignored and reported (R344). -/
def State.ignored (s : State) (n : Nat) : State := s.glen Config.glenLink 2 (BitVec.ofNat 64 n)

/-! ### Die links (R17, R333) -/

/-- A frame has been replayed `count` times and is uncorrectable still: after three replays the link retrains, after fewer it waits. -/
def execDieFrameReplay (link count : Nat) (s : State) : Out :=
  match Table.get s.lnk.dieLinks link with
  | none => .next s
  | some x =>
    if x.st = .locked ∧ 3 ≤ count then
      .next { s with lnk := { s.lnk with dieLinks := Table.set s.lnk.dieLinks link ⟨.retraining, 0⟩ } }
    else .next s

def execDieLinkTrained (link : Nat) (s : State) : Out :=
  match Table.get s.lnk.dieLinks link with
  | none => .next s
  | some x =>
    if x.st = .retraining then .next { s with lnk := { s.lnk with dieLinks := Table.set s.lnk.dieLinks link ⟨.locked, 0⟩ } }
    else .next s

/-- The Steppe link of a die has gone DOWN: its groups, and the accesses homed in its stack, raise MACHINE_CHECK (R333). -/
def State.loseDie (s : State) (die : Nat) : State :=
  let phys := s.lnk.physical die
  let hit (a : Access) : Bool := !a.sp && a.fault.isNone && (match a.tr with
    | some t => !t.remote && decide (t.key a.va / Config.stackBytes = phys) | none => false)
  let s1 : State := { s with run := { s.run with
    accs := s.run.accs.map fun p => (p.1, if hit p.2 then { p.2 with fault := some .machineCheck } else p.2) } }
  s1.run.groups.foldl (fun t p =>
    if dieOf p.2.core = die ∧ p.2.st = .resident then
      t.parkFault p.1 p.2.liveMask ((maskLanes p.2.liveMask).map fun k => (k, Code.machineCheck, 0)) 0
    else t) s1

/-- A training of a die link fails; after four the link is DOWN. -/
def execDieLinkTrainingFailed (link : Nat) (s : State) : Out :=
  match Table.get s.lnk.dieLinks link with
  | none => .next s
  | some x =>
    if x.st ≠ .retraining then .next s
    else if x.fails < 3 then
      .next { s with lnk := { s.lnk with dieLinks := Table.set s.lnk.dieLinks link { x with fails := x.fails + 1 } } }
    else
      let s1 := { s with lnk := { s.lnk with dieLinks := Table.set s.lnk.dieLinks link ⟨.down, 4⟩ } }.glen Config.glenLink 3
        (BitVec.ofNat 64 link)
      .next (if link < 8 then s1.loseDie link else s1)

/-! ### Time (R19 to R22) -/

/-- All copies of the counter within a bound of each other. -/
def Sched.aligned (c : Sched) (bound : Nat) : Bool :=
  c.clocks.all fun x => c.clocks.all fun y => decide ((x.toNat - y.toNat) ≤ bound)

/-- Both bounds of %tskew hold: PKG between the copies, and in a domain DOM as the last exchange over the ports found it. -/
def Sched.bounded (c : Sched) : Bool := c.aligned (field c.skew 15 0) && (field c.skew 31 16 == 0xFFFF || c.inDomain)

/-- The time master compares a copy with the counter that it should show, which is slewed from now on: it moves by 1 ns in 10,000, and
never backwards. The exchange of Steppe's own copy runs over the Avryn ports, and finds whether the device is within DOM. Where both bounds
hold, VALID is set again; where the exchange finds one broken, VALID is cleared, and Glen hears of it if it was set (R21, R22). -/
def execTimeAlign (die : Nat) (v : DWord) (s : State) : Out :=
  let gap : Int := (v.toNat : Int) - ((s.sch.time die).toNat : Int)
  let c := { s.sch with
    slews := s.sch.slews.modify die fun x => { x with left := gap }
    inDomain := if die = 8 then decide (gap.natAbs ≤ field s.sch.skew 31 16) else s.sch.inDomain }
  if c.bounded then .next { s with sch := { c with skew := c.skew ||| 0x8000000000000000 } }
  else if c.skew.getLsbD 63 then
    .next ({ s with sch := { c with skew := c.skew &&& 0x7FFFFFFFFFFFFFFF } }.glen Config.glenLink 4 (BitVec.ofNat 64 die))
  else .next { s with sch := c }

/-- dt ns of the clock that all copies run by pass on every copy, with its correction. -/
def Sched.pass (c : Sched) (dt : Nat) : Sched :=
  let gain (x : Slew) : Nat := Nat.min x.left.natAbs ((x.run + dt) / 10000)
  { c with
    clocks := c.clocks.mapIdx fun d t =>
      let x := c.slews.getD d ⟨0, 0⟩
      t + BitVec.ofNat 64 (if 0 ≤ x.left then dt + gain x else dt - gain x)
    slews := c.slews.map fun x =>
      let left := if 0 ≤ x.left then x.left - gain x else x.left + gain x
      ⟨left, if left = 0 then 0 else (x.run + dt) % 10000⟩ }

/-- What the timers that run by a copy have yet to count: what the copy has gained, by its clock, its correction and its steps (R3). -/
def Sched.gained (c : Sched) (die : Nat) : Nat := (c.time die - c.counted.getD die 0).toNat

/-- A die that finds its skew beyond the bound clears VALID (R22). -/
def State.checkSkew (s : State) : State :=
  if s.sch.skew.getLsbD 63 && !s.sch.aligned (field s.sch.skew 15 0) then
    { s with sch := { s.sch with skew := s.sch.skew &&& 0x7FFFFFFFFFFFFFFF } }.glen Config.glenLink 4 8
  else s

/-- A die finds its skew beyond the bound. -/
def execSkewDetected (die : Nat) (s : State) : Out :=
  .next ({ s with sch := { s.sch with skew := s.sch.skew &&& 0x7FFFFFFFFFFFFFFF } }.glen Config.glenLink 4 (BitVec.ofNat 64 die))

/-! ### Link registers (R344) -/

/-- FABCFG: FDEV changes only while every port is DOWN. DOM of %tskew reads 0xFFFF outside a domain; a device that enters one has not yet
reached its alignment (R21). -/
def execFabcfgWrite (host : Nat) (v : DWord) (s : State) : Out :=
  if !s.authority host then .next s
  else
    let down := s.lnk.ports.all fun p => p.2.st == .down
    let fen := v.getLsbD 4
    let s1 := s.setLinks { s.lnk with fen := fen, fdev := if down then field v 3 0 else s.lnk.fdev }
    let (dom, valid) := if fen then (40, s.lnk.fen && s1.sch.skew.getLsbD 63) else (0xFFFF, s.sch.skew.getLsbD 63)
    .next { s1 with sch := { s1.sch with
      skew := skewWord valid dom (field s1.sch.skew 15 0), inDomain := fen && s.lnk.fen && s1.sch.inDomain } }

/-- A write to LNKCTLn sets DARKLIM and gives a command. -/
def State.linkWrite (s : State) (host n : Nat) (v : DWord) (f : State → Port → State) : State :=
  if !s.authority host ∨ 16 ≤ n then s
  else
    let p := { s.port n with darklim := field v 31 16 }
    f { s with lnk := { s.lnk with ports := Table.set s.lnk.ports n p } } p

def execPortTrain (host n : Nat) (v : DWord) (s : State) : Out :=
  .next (s.linkWrite host n v fun s p => if p.st = .down then s.setPort n { p with st := .training, train := 0 } else s.ignored n)

/-- DARKEN: a port that is DARK already ignores it without a report (R436). -/
def execPortDarken (host n : Nat) (v : DWord) (s : State) : Out :=
  .next (s.linkWrite host n v fun s p =>
    if p.st = .locked ∨ p.st = .degraded then s.setPort n { p with st := .dark, dark := 0 }
    else if p.st = .dark then s else s.ignored n)

def execPortRelock (host n : Nat) (v : DWord) (s : State) : Out :=
  .next (s.linkWrite host n v fun s p => if p.st = .dark then s.setPort n { p with st := .relocking, train := 0 } else s.ignored n)

/-- A port that is DOWN knows no peer and holds nothing; DARKLIM stays. -/
def Port.goDown (p : Port) : Port := { portReset with darklim := p.darklim }

def execPortDown (host n : Nat) (v : DWord) (s : State) : Out :=
  .next (s.linkWrite host n v fun s p => s.setPort n p.goDown)

/-! ### What happens to ports (R335, R336, R338, R436) -/

/-- Every buffer of the receiver: requests, responses, set-aside, control (R338). -/
def fullGrant : List Nat := [128, 128, 32, 8]

/-- Markers that wait for a control allowance of a port are sent, in order, while it holds one (R338, R342). -/
def State.sendMarkers (s : State) (n : Nat) : State :=
  (s.lnk.markers.filter fun p => p.2.port == n && !p.2.sent).foldl (fun t p =>
    if t.lnk.holds n 3 then
      let l := t.lnk.pay n 3
      { t with lnk := { l with markers := Table.set l.markers p.1 { p.2 with sent := true } } }
    else t) s

/-- A port's training succeeds. From TRAINING, or with another peer, its allowances are granted afresh; a port that finds its own
device goes DOWN (R334, R336, R338, R346). -/
def execPortTrainingDone (n peer lat : Nat) (s : State) : Out :=
  let p := s.port n
  if 16 ≤ n ∨ 16 ≤ peer ∨ !(p.st == .training || p.st == .relocking) then .next s
  else if peer = s.lnk.fdev then .next ((s.setPort n p.goDown).glen Config.glenLink 1 (BitVec.ofNat 64 n))
  else
    let keep := p.st == .relocking && p.peer == some peer
    .next ((s.setPort n { p with
      st := .locked, peer := some peer, lat := lat, alw := if keep then p.alw else fullGrant
      repl := 0, replays := [], laneLost := false, clean := 0, blocked := 0 }).sendMarkers n)

/-- Training fails, or 10 ms pass: the port goes DOWN; after TRAINING Glen is told. -/
def execPortTrainingFailed (n : Nat) (s : State) : Out :=
  let p := s.port n
  if 16 ≤ n ∨ !(p.st == .training || p.st == .relocking) then .next s
  else if p.st = .training then .next ((s.setPort n p.goDown).glen Config.glenLink 1 (BitVec.ofNat 64 n))
  else .next (s.setPort n p.goDown)

/-- A frame fails three replays. -/
def execPortFrameFail (n : Nat) (s : State) : Out :=
  let p := s.port n
  .next (if n < 16 ∧ (p.st = .locked ∨ p.st = .degraded) then s.setPort n { p with st := .relocking, train := 0 } else s)

/-- More than 64 replays in a millisecond, or a lost lane, degrade a LOCKED port. On a DEGRADED port the report of its lanes is
kept. -/
def execPortDegrade (n : Nat) (laneLost : Bool) (s : State) : Out :=
  let p := s.port n
  if 16 ≤ n then .next s
  else if p.st = .locked ∧ (laneLost ∨ 64 < p.repl) then
    .next (s.setPort n { p with st := .degraded, laneLost := laneLost, clean := 0 })
  else if p.st = .degraded then .next (s.setPort n { p with laneLost := laneLost })
  else .next s

/-- A DEGRADED port with all lanes and fewer than 5 replays in each 1 ms for 100 ms locks again. -/
def execPortRecover (n : Nat) (s : State) : Out :=
  let p := s.port n
  .next (if n < 16 ∧ p.st = .degraded ∧ !p.laneLost ∧ 100000000 ≤ p.clean then s.setPort n { p with st := .locked } else s)

/-- A darken flit from the far end. -/
def execDarkenFlit (n : Nat) (s : State) : Out :=
  let p := s.port n
  .next (if n < 16 ∧ (p.st = .locked ∨ p.st = .degraded) then s.setPort n { p with st := .dark, dark := 0 } else s)

/-- DARKLIM in ns; 0 means 1,000 ms (R344). -/
def Port.limitNs (p : Port) : Nat := (if p.darklim = 0 then 1000 else p.darklim) * 1000000

/-- The dark clock reaches DARKLIM. -/
def execDarkLimit (n : Nat) (s : State) : Out :=
  let p := s.port n
  .next (if n < 16 ∧ p.st = .dark ∧ p.limitNs ≤ p.dark then s.setPort n p.goDown else s)

/-- The far end returns an allowance of a class. -/
def execAllowanceReturn (n cls : Nat) (s : State) : Out :=
  let p := s.port n
  if n < 16 ∧ (p.st = .locked ∨ p.st = .degraded) ∧ p.alw.getD cls 0 < fullGrant.getD cls 0 then
    let t : State := { s with lnk := { s.lnk with ports := Table.set s.lnk.ports n { p with alw := p.alw.modify cls (· + 1) } } }
    .next (if cls = 3 then t.sendMarkers n else t)
  else .next s

/-- An Avryn frame is replayed (R335, R352). -/
def execPortFrameReplay (n count : Nat) (s : State) : Out :=
  let p := s.port n
  if n < 16 ∧ (p.st = .locked ∨ p.st = .degraded) then
    let p := { p with repl := p.repl + count, replays := (0, count) :: p.replays }
    .next { s with lnk := { s.lnk with ports := Table.set s.lnk.ports n p } }
  else .next s

/-- A control flit reports the devices that another device's LOCKED ports reach (R337). -/
def execPortStateControlFlit (dev : Nat) (peers : List Nat) (s : State) : Out :=
  .next (s.setLinks { s.lnk with remote := Table.set s.lnk.remote dev peers })

/-! ### Flows (R339) -/

/-- The stack to which an access of a fabric page goes, and the port. -/
def State.heading (s : State) (a : Access) : Option (Nat × Nat × Nat) :=
  match a.tr with
  | some t => if !a.sp && t.cls == 2 && a.fault.isNone && (a.st == .queued || a.st == .combined) then
      (s.lnk.portFor t.num a.va).map fun p => (p, t.num, t.peerDie a.va) else none
  | none => none

/-- Requests that stand in a port's queues, each of one flit, by the flow they belong to: the peer and its die (R339; log 92). -/
def State.queued (s : State) (port : Nat) : List (Nat × Nat) :=
  s.run.accs.filterMap fun p => (s.heading p.2).bind fun x => if x.1 = port then some x.2 else none

/-- Flits of a flow of this device at a port. -/
def State.flits (s : State) (port dst die : Nat) : Nat := ((s.queued port).filter fun x => x == (dst, die)).length

/-- Flits of the flows of this device in a set-aside queue. -/
def State.asideFlits (s : State) (port q : Nat) : Nat :=
  ((s.lnk.flows.filter fun f => f.port == port && f.queue == q && f.src == s.lnk.fdev).map fun f => s.flits port f.dst f.die).sum

/-- Flows of a port in a set-aside queue. -/
def Links.inQueue (l : Links) (port q : Nat) : Nat := (l.flows.filter fun f => f.port == port && f.queue == q).length

/-- The set-aside queue that a new flow joins: one not in use, else the one with the fewest flits. -/
def State.setAside (s : State) (port : Nat) : Nat :=
  let key (q : Nat) : Nat := if s.lnk.inQueue port q = 0 then 0 else s.asideFlits port q + 1
  (pick (fun a b => decide (key a ≤ key b)) (List.range 8)).getD 0

def State.moveFlow (s : State) (port src dst die : Nat) : State :=
  if 16 ≤ port ∨ s.lnk.flows.any (fun f => f.port == port && f.src == src && f.dst == dst && f.die == die) then s
  else { s with lnk := { s.lnk with flows := s.lnk.flows ++ [⟨port, src, dst, die, s.setAside port, 0⟩] } }

/-- A port's queue is blocked: it holds requests, and no allowance for them (R339). -/
def State.egressBlocked (s : State) (port : Nat) : Bool :=
  (s.port port).st == .locked && !(s.queued port).isEmpty && !s.lnk.holds port 0

/-- A flow of this device is congesting: the queue has been blocked for 2 µs, and the flow holds more than a quarter of it (R339). -/
def State.congesting (s : State) (port dst die : Nat) : Bool :=
  decide (2000 ≤ (s.port port).blocked) && decide ((s.queued port).length < 4 * s.flits port dst die)

/-- Tell a device of congestion: a control flit on the port to it, if that holds an allowance (R338, R339). -/
def State.notice (s : State) (dev : Nat) : State :=
  match s.lnk.portFor dev 0 with | some p => if s.lnk.holds p 3 then { s with lnk := s.lnk.pay p 3 } else s | none => s

/-- A flow is congesting at this device's egress: it goes to a set-aside queue, and another device's flow is told of there. What queues up of
other devices' flows that pass through, this device's own accesses do not show: it comes from outside. -/
def execFlowCongested (port src dst die : Nat) (s : State) : Out :=
  .next (if src = s.lnk.fdev then (if s.congesting port dst die then s.moveFlow port src dst die else s)
    else (s.moveFlow port src dst die).notice src)

/-- A notice from another device. -/
def execCongestionNotice (port src dst die : Nat) (s : State) : Out := .next (s.moveFlow port src dst die)

/-- A flow leaves its set-aside queue: one of this device's once it has held fewer than 16 flits there for 20 µs. -/
def execFlowReleased (port src dst die : Nat) (s : State) : Out :=
  .next { s with lnk := { s.lnk with
    flows := s.lnk.flows.filter fun f =>
      !(f.port == port && f.src == src && f.dst == dst && f.die == die && (src != s.lnk.fdev || decide (20000 ≤ f.calm))) } }

/-! ### The reply timer (R340) -/

/-- The reply timer of an access has run 1 ms. -/
def execReplyTimerExpiry (id : Nat) (s : State) : Out :=
  match Table.get s.run.accs id with
  | none => .next s
  | some a =>
    let remote : Bool := match a.tr with | some t => a.endsWith t.num | none => false
    if remote = true ∧ 1000000 ≤ a.waited ∧ a.st ≠ .refused then .next (s.setAccess id a.timeOut) else .next s

/-! ### Drain markers and DRAIN (R342, R343) -/

/-- Does a port carry, or hold, the traffic for an address of a device: also what takes its detour (R342). -/
def Links.carries (l : Links) (port f : Nat) (va : DWord) : Bool :=
  l.portFor f va == some port ||
  (match l.route f with
    | .direct _ | .none => false
    | _ => (l.portsTo f .dark).contains port || (l.portsTo f .degraded).contains port || (l.portsTo f .relocking).contains port)

/-- An access stands ahead of a marker that is placed on a port now: it went by the port, or waits for it (R342). -/
def State.standsOn (s : State) (port : Nat) (a : Access) : Bool :=
  match a.tr with
  | some t => !a.sp && t.cls == 2 && (match a.via with | some p => p == port | none => s.lnk.carries port t.num a.va)
  | none => false

/-- An engine's access to an address waits for a port. -/
def State.engineQueued (s : State) (port ctx : Nat) (va : DWord) (m : Meet) : Bool :=
  m == .wait && (match s.walk ctx va with | .found t => t.cls == 2 && s.lnk.carries port t.num va | _ => false)

/-- Units of block transfers, and pieces of streamer work, that wait for a port. -/
def State.queuedUnits (s : State) (port : Nat) : List (Nat × Nat) :=
  (s.eng.transfers.flatMap fun p => (List.range (p.2.rows * p.2.units)).filterMap fun u =>
    if s.unitRuns p.1 p.2 u && s.engineQueued port p.2.ctx (p.2.memAt u) (s.unitMeet p.1 p.2 u) then some (p.1, u) else none) ++
  (s.eng.streams.flatMap fun p => (List.range p.2.count).filterMap fun k =>
    if s.streamTurn p.1 p.2 && s.pieceRuns p.2 k && (match s.pieceEnd p.1 p.2 k with | .wait _ a => s.engineQueued port p.2.ctx a .wait | _ => false)
    then some (p.1, k) else none)

/-- An engine's unit or piece has not been performed, and its operation has not ended or met a fault. -/
def State.unitLeft (s : State) (x : Nat × Nat) : Bool :=
  match Table.get s.eng.transfers x.1, Table.get s.eng.streams x.1 with
  | some t, _ => !t.done.contains x.2 && t.fault.isNone
  | none, some t => !t.done.contains x.2 && t.fault.isNone
  | none, none => false

/-- A marker placed on a port now, behind all that the port carries or holds (R342). Its control flit is still to be sent. -/
def State.marker (s : State) (port : Nat) : Marker :=
  ⟨port, (s.run.accs.filter fun p => s.standsOn port p.2).map (·.1), s.queuedUnits port, false, false⟩

/-- Nothing stands ahead of a marker any more: each access has been acknowledged, dropped or has faulted, on whichever port it went at last
(R342). On a port that is DOWN, or that had nothing ahead, it completes at once; else its own flit must have been sent (R338). -/
def State.markerDone (s : State) (m : Marker) : Bool :=
  (s.port m.port).st == .down || (m.ahead.isEmpty && m.units.isEmpty) ||
  (m.sent && !(m.units.any s.unitLeft) && m.ahead.all fun id => match Table.get s.run.accs id with | some a => a.fault.isSome | none => true)

/-- A marker's port has nothing ahead of it: it completes. -/
def execDrainMarkerComplete (id : Nat) (s : State) : Out :=
  match Table.get s.lnk.markers id with
  | none => .next s
  | some m =>
    .next (if s.markerDone m then { s with lnk := { s.lnk with markers := Table.set s.lnk.markers id { m with done := true } } } else s)

/-- Place a marker on each port of a list, numbered from the next object number. -/
def State.placeMarkers (s : State) (ports : List Nat) : State × Nat :=
  let n0 := s.sch.nextId
  let ms := ports.mapIdx fun k p =>
    let m := s.marker p
    (n0 + k, { m with done := s.markerDone m })
  let t : State := { s with
    lnk := { s.lnk with markers := s.lnk.markers ++ ms }
    sch := { s.sch with nextId := n0 + ports.length } }
  ((ms.filter fun p => !p.2.done).foldl (fun u p => u.sendMarkers p.2.port) t, n0)

/-- Every marker of a DRAIN has completed, at the latest when nothing stands ahead of it (R342, R343). -/
def State.drained (s : State) (first count : Nat) : Bool :=
  (List.range count).all fun k => match Table.get s.lnk.markers (first + k) with | some m => m.done || s.markerDone m | none => true

/-- Withdraw the markers of a DRAIN. -/
def State.withdraw (s : State) (first count : Nat) : State :=
  { s with lnk := { s.lnk with markers := s.lnk.markers.filter fun p => !(decide (first ≤ p.1) && decide (p.1 < first + count)) } }

/-- Every fabric access that the group issued before a number has been sent; one that is not translated yet may be such (R343). -/
def State.sentAll (s : State) (gid before : Nat) : Bool :=
  s.run.accs.all fun p => !(p.2.gid == gid && decide (p.1 < before) && !p.2.sp && p.2.fault.isNone && (match p.2.tr with
    | none => true
    | some t => t.cls == 2 && (p.2.st == .queued || p.2.st == .combined)))

/-- DRAIN: the limit runs from its issue (R175, R343). -/
def execDrain (h : Hd) (d a b : Opnd) (s : State) : Out :=
  .next (s.once h fun s i g k =>
    let src := i.source g
    let mask := readOp src (src.lane k) true a
    let lim := limitOf src (src.lane k) b
    let ports := (List.range 16).filter fun p => mask.getLsbD p
    if !s.sentAll i.gid (s.earlier i g) then s.stallBundle i g h ⟨.drainSend (s.earlier i g) ports, 2, lim, d, i.word, false, false⟩
    else
      let (s1, first) := s.placeMarkers ports
      if s1.drained first ports.length then
        (s1.withdraw first ports.length).lanes h fun _ _ _ => { preds := [(d, true)] }
      else s1.stallBundle i g h ⟨.drain first ports, 2, lim, d, i.word, false, false⟩)

/-! ### MIGRATE (R348 to R350) -/

/-- The virtual die that homes an address of a context: device, deferred and held pages have one. -/
def State.homeDie (s : State) (ctx : Nat) (va : DWord) : Option (Nat × Trans) :=
  match s.walk ctx va with
  | .found t =>
    if t.cls = 0 ∨ t.cls = 4 ∨ t.cls = 5 then some (s.lnk.virtual (t.key va / Config.stackBytes), t) else none
  | _ => none

/-- The landing slots 60 to 63 of a core that are free. -/
def State.landingSlots (s : State) (core : Nat) : List Nat :=
  (List.range 4).filterMap fun n => if (s.onCore core).any fun g => g.slot == 60 + n then none else some (60 + n)

/-- Can a team's one group land on a core: a landing slot, a quadrant and the team's goods (R272, R349). -/
def State.landable (s : State) (core : Nat) (h : Header) : Bool :=
  !(s.landingSlots core).isEmpty && decide (1 ≤ s.teamGoods core h) && (List.range 4).any fun q => decide (1 ≤ s.quadRoom core q h)

/-- Cores of a partition on a die. -/
def State.coresOn (s : State) (part die : Nat) : List Nat :=
  ((s.clusters part).filter fun c => c / 6 == die).flatMap clusterCores

/-- Another bundle may issue again. -/
def State.unhold (s : State) (gid : Nat) : State := s.updGroup gid fun x => { x with only := 0 }

/-- The group leaves for a core of a die: a free landing slot and a quadrant with room, the scheduler's choice. -/
def State.depart (s : State) (gid team : Nat) (cores : List Nat) (h : Header) : State :=
  let (core, s1) := s.oneOf cores
  let (quad, s2) := s1.oneOf ((List.range 4).filter fun q => decide (1 ≤ s.quadRoom core q h))
  let slot := (s.landingSlots core).headD 60
  { s2 with run := { s2.run with
    groups := Table.upd s2.run.groups gid fun g =>
      { g.leaving s with st := .inTransit, core := core, quad := quad, slot := slot, only := 0, flags := g.flags ||| 2, bundles := [] }
    teams := Table.upd s2.run.teams team fun t => { t with core := core } } }

/-- The group's work on its core has ended, and the stores of other groups that it has read from the buffer are performed (R327). -/
def State.groupQuiet (s : State) (gid team : Nat) : Bool :=
  ((s.group gid).map fun g => s.observedDone g s.sch.nextId).getD true &&
  !(s.run.accs.any fun p => p.2.gid == gid) && !(s.run.pend.any fun p => p.2.gid == gid) &&
  !(s.eng.transfers.any fun p => p.2.gid == gid) && !(s.eng.tileOps.any fun p => p.2.team == team)

def execMigrate (h : Hd) (tr : Bool) (d a : Opnd) (s : State) : Out :=
  .next (s.once h fun s i g k =>
    let src := i.source g
    let va := readOp src (src.lane k) true a
    let ctx := s.ctxOf g
    match s.kernelOf g with
    | none => s
    | some kn =>
      let done (t : State) (ok : Bool) : State :=
        let (t1, b) := t.settleResult g k [if ok then 1 else 0]
        t1.lanes h fun _ _ _ => { preds := [(d, b != [0])] }
      if 1 < kn.hdr.x1 ∨ 64 < kn.hdr.scratch then s.trapGuarded i g h .resourceBound 0
      else
        let s := match s.walk ctx va with | .found t => if t.cls = 7 then s else (s.setAccessed t false).1 | _ => s
        match s.homeDie ctx va with
        | none => done (s.unhold i.gid) false
        | some (die, _) =>
          let cores := s.coresOn kn.part die
          if die = dieOf g.core ∨ cores.isEmpty then done (s.unhold i.gid) false
          else
            if !s.groupQuiet i.gid g.team then (s.waitAtIssue i 11).updGroup i.gid fun x => { x with only := i.lanes }
            else
              let free := cores.filter fun c => s.landable c kn.hdr
              if free.isEmpty then
                (if tr then done (s.unhold i.gid) false
                 else (s.waitAtIssue i 11).updGroup i.gid fun x => { x with only := i.lanes })
              else (done (s.unhold i.gid) true).depart i.gid g.team free kn.hdr)

/-! ### LKQ (R351, R352) -/

def PortState.num : PortState → Nat
  | .training => 0
  | .locked => 1
  | .degraded => 2
  | .dark => 3
  | .relocking => 4
  | .down => 5

def LinkState.num : LinkState → Nat
  | .locked => 0
  | .retraining => 1
  | .down => 2

/-- Item 0: a port. -/
def State.portWord (s : State) (n : Nat) : DWord :=
  let p := s.port n
  let via := if p.st = .degraded ∨ p.st = .relocking then (p.peer.bind s.lnk.between).getD 0 else 0
  BitVec.ofNat 64 (Nat.min p.lat 0xFFFF * 2 ^ 40 + Nat.min (s.lnk.flows.filter fun f => f.port == n).length 255 * 2 ^ 32 +
    Nat.min (p.alw.getD 0 0) 128 * 2 ^ 24 + Nat.min p.repl 255 * 2 ^ 16 + via * 2 ^ 12 + p.peer.getD 0 % 16 * 2 ^ 8 +
    (if p.peer.isSome then 0x80 else 0) + p.st.num)

/-- Item 1: which devices are reached. -/
def State.reachWord (s : State) : DWord :=
  let bits (f : Nat → Bool) : Nat := (((List.range 16).filter f).map fun k => 2 ^ k).sum
  BitVec.ofNat 64 (bits (fun f => match s.lnk.route f with | .direct _ => true | _ => false) * 2 ^ 32 +
    bits (fun f => f == s.lnk.fdev || s.lnk.route f != .none) * 2 ^ 16 + s.lnk.fdev % 16 * 2 ^ 4 + (if s.lnk.fen then 1 else 0))

/-- Item 3: the die links. -/
def State.dieWord (s : State) : DWord :=
  BitVec.ofNat 64 ((List.range 20).map fun n =>
    (match Table.get s.lnk.dieLinks n with | some x => x.st.num | none => 0) * 4 ^ n).sum

def State.linkItem (s : State) (item idx : Nat) : DWord :=
  if item = 0 then s.portWord idx else if item = 1 then s.reachWord else if item = 2 then s.lnk.generation else s.dieWord

def execLkq (h : Hd) (d a b : Opnd) (s : State) : Out :=
  .next (s.once h fun s i g k =>
    let src := i.source g
    let item := match a with | .imm x => x.toNat | _ => 0
    let idx := match b with | .imm x => x.toNat | .absent => 0 | _ => srcN32 src (src.lane k) b
    if item = 0 ∧ 15 < idx then s.trapGuarded i g h .resourceBound 0
    else
      let (s1, r) := s.settleResult g k (leBytes 8 (s.linkItem item idx).toNat)
      s1.lanes h fun _ _ _ => { regs := [(d, true, BitVec.ofNat 64 (leNat r))] })

end Sys2Proof.Machine
end

