-- ==== Sys2Proof/Machine/Stub.lean ====
section
/-! DEFINITION. Machine/Stub.lean: class changes of pages, holds, stubs and the instructions DSEND, DDROP, DPULL and DSTAT
(22_stub.md, R356 to R371; 10_page.md, R210; 26_checkpoint_debug.md, R405; 01_device.md, R435). -/

namespace Sys2Proof.Machine

/-! ### Ranges that the device keeps for contexts (R435) -/

/-- Ranges of contexts, each with its partition: save pools, L4 tables, staging pools, checkpoint reserves and log areas. -/
def State.keptRanges (s : State) : List (Nat × Nat × Nat) :=
  s.ctx.contexts.flatMap fun p =>
    let r := p.2.record
    let part := r.part
    let own := if p.2.st = .building ∨ p.2.st = .tornDown then []
      else [(part, r.root.toNat, 32768), (part, r.saveA.toNat, r.saveSz.toNat)]
    let stage := match Table.get s.sum.regs p.1 with
      | some x => if x.ctl.getLsbD 0 then [(part, x.stage.toNat, x.stageSz.toNat)] else []
      | none => []
    let ck := match Table.get s.ckp.regs p.1 with
      | some x => if x.ctl.getLsbD 0 then [(part, x.res.toNat, x.resSz.toNat), (part, x.log.toNat, x.logSz.toNat)] else []
      | none => []
    own ++ stage ++ ck

/-- A range lies in a partition: in the memory of present dies, outside the flash tables, which belong to none (R428), and, if the device keeps it, clear of other partitions' ranges. -/
def State.rangeOk (s : State) (part base len : Nat) (kept : Bool) : Bool :=
  s.present base len && !(s.sys.module && decide (0 < len) && overlap base len s.sys.tables (8 * 2 ^ 30)) && (!kept || s.keptRanges.all fun r => r.1 == part || !overlap base len r.2.1 r.2.2)

/-! ### Class changes (R208, R210) -/

/-- A leaf in another class: FRAME, W and X stay where the class allows them; NUM and CXLA are cleared where it does not use
them. -/
def reclass (e : DWord) (cls : Nat) : DWord :=
  let keep : Nat := field e 51 16 * 65536 + (if e.getLsbD 5 then 0x20 else 0) + (if e.getLsbD 4 then 0x10 else 0) + 3 +
    (if e.getLsbD 3 && (cls == 0 || cls == 4 || cls == 5) then 8 else 0) + (if e.getLsbD 2 && cls != 6 then 4 else 0) +
    (if cls = 1 ∧ e.getLsbD 6 then 0x40 else 0) + (if cls = 1 ∨ cls = 2 ∨ cls = 3 then field e 15 11 * 2048 else 0)
  BitVec.ofNat 64 (keep + cls * 256)

def State.setClass (s : State) (t : Trans) (cls : Nat) : State :=
  s.store t.entry (leBytes 8 (reclass (BitVec.ofNat 64 (s.mem.le t.entry 8)) cls).toNat)

/-! ### Holds (R356, R361) -/

/-- The pages of a range become held; the change is invalidated under R212. -/
def State.holdPages (s : State) (ctx : Nat) (base : DWord) (len : Nat) : State :=
  let s1 := (pieces base.toNat len).foldl (fun x va => match x.walk ctx va with
    | .found t => if t.cls = 4 then x.setClass t 5 else x
    | _ => x) s
  s1.postInval ctx (base &&& ~~~0xFFFF#64) (BitVec.ofNat 64 ((base.toNat % 65536 + len + 65535) / 65536 * 65536)) none

/-- Add a hold entry: its lease runs already. No entry has had its number before, so that a message for an entry that has cleared
reaches no other (R361). -/
def State.addHold (s : State) (h : Hold) : State × Nat :=
  let n := s.sum.holds.foldl (fun m p => Nat.max m (p.1 + 1)) s.sch.nextId
  (({ s with
      sum := { s.sum with holds := Table.set s.sum.holds n h }
      sch := { s.sch with nextId := n + 1 } } : State).holdPages h.octx h.base h.len.toNat, n)

/-- Pages of a range that nothing holds any more are deferred again. -/
def State.freePages (s : State) (ctx : Nat) (base : DWord) (len : Nat) : State :=
  let s1 := (pieces base.toNat len).foldl (fun x va => match x.walk ctx va with
    | .found t => if t.cls = 5 ∧ !x.pageHeld ctx t va then x.setClass t 4 else x
    | _ => x) s
  s1.postInval ctx (base &&& ~~~0xFFFF#64) (BitVec.ofNat 64 ((base.toNat % 65536 + len + 65535) / 65536 * 65536)) none

/-- An entry clears: each page of its range loses one hold. -/
def State.clearHold (s : State) (n : Nat) : State :=
  match Table.get s.sum.holds n with
  | none => s
  | some h =>
    ({ s with sum := { s.sum with holds := Table.del s.sum.holds n } }).freePages h.octx h.base h.len.toNat

/-! ### Stubs (R358 to R360, R363) -/

/-- Put a message on the agenda: it arrives next. -/
def State.message (s : State) (i : Due) : State := { s with sch := { s.sch with agenda := s.sch.agenda ++ [i] } }

/-- The origin of a stub is this device. -/
def State.local (s : State) (dev : Nat) : Bool := dev == s.lnk.fdev

def State.stub (s : State) (n : Nat) : Option Stub := Table.get s.sum.stubs n

def State.setStub (s : State) (n : Nat) (x : Stub) : State := { s with sum := { s.sum with stubs := Table.set s.sum.stubs n x } }

/-- Tiles in the range: first, and one past the last. -/
def Stub.first (x : Stub) : Nat := x.tile x.va
def Stub.past (x : Stub) : Nat := x.tile x.va + x.len.toNat / 4096

def Stub.unpulled (x : Stub) : List Nat :=
  ((List.range (x.past - x.first)).map fun k => x.first + k).filter fun k => !x.pulled.contains k

/-- The live stub of a context whose range holds an address. -/
def State.liveStub (s : State) (ctx : Nat) (va : DWord) : Option (Nat × Stub) :=
  s.sum.stubs.find? fun p =>
    p.2.ctx == ctx && p.2.inval.isNone && decide (p.2.va.toNat ≤ va.toNat) && decide (va.toNat < p.2.va.toNat + p.2.len.toNat)

/-- Pages of a context's window that its stubs hold: first page and number of pages. -/
def State.windowUsed (s : State) (ctx : Nat) : List (Nat × Nat) :=
  s.sum.stubs.filterMap fun p => if p.2.ctx = ctx then some (p.2.firstPage, p.2.frames.length) else none

/-- The lowest free run of n whole pages of a window: it starts at the window's base or where a stub ends. -/
def State.freeRun (s : State) (ctx n : Nat) : Option Nat :=
  let r := s.swRegs ctx
  let lo := r.base.toNat / 65536
  let hi := lo + r.size.toNat / 65536
  let used := s.windowUsed ctx
  pick (fun a b => decide (a ≤ b)) ((lo :: used.map fun u => u.1 + u.2).filter fun k =>
    decide (lo ≤ k) && decide (k + n ≤ hi) && used.all fun u => !overlap k n u.1 u.2)

/-- The first n free 64 KiB frames of a staging pool. -/
def State.freeFrames (s : State) (ctx n : Nat) : List Nat :=
  let r := s.swRegs ctx
  let used := s.sum.stubs.flatMap fun p => if p.2.ctx = ctx then p.2.frames else []
  (((List.range (r.stageSz.toNat / 65536)).map fun k => r.stage.toNat + 65536 * k).filter fun f => !used.contains f).take n

/-- The L0 entry of a window page: the tables are built down to L0 (R357). -/
def State.leafSlot (s : State) (va : Nat) : List (Nat × Nat) → Nat → Option Nat
  | [], _ => none
  | (sh, n) :: r, table =>
    let ea := table + 8 * (va / 2 ^ sh % 2 ^ n)
    let e : DWord := BitVec.ofNat 64 (s.mem.le ea 8)
    if r.isEmpty then some ea
    else if !e.getLsbD 0 || e.getLsbD 1 then none
    else s.leafSlot va r (field e 51 7 * 128)

/-- Write the L0 leaf of a window page. -/
def State.writeLeaf (s : State) (ctx page : Nat) (e : DWord) : State :=
  match s.leafSlot (page * 65536 % 2 ^ 57) pageLevels (s.rootOf ctx) with
  | some ea => s.store ea (leBytes 8 e.toNat)
  | none => s

/-- Class stub, V, LEAF and ACC set, W and X clear, FRAME naming the staging frame. -/
def stubLeaf (frame : Nat) : DWord := BitVec.ofNat 64 (frame + 0x613)

/-- The inbox slot that the next stub takes, and what stands against it (R359): none if it translates as class device with W. -/
def State.inboxSlot (s : State) (ctx : Nat) : DWord × Option Code :=
  let r := s.swRegs ctx
  let va := r.inbox + BitVec.ofNat 64 (64 * (r.h % 2 ^ field r.ctl 7 4))
  (va, match s.translate ctx .store va with
    | .error c => some c
    | .ok t => if t.cls = 0 then none else some .pageProtection)

/-- A free stub number. -/
def State.freeStub (s : State) : Nat :=
  ((List.range (s.sum.stubs.length + 1)).find? fun k => (Table.get s.sum.stubs k).isNone).getD 0

/-- Pages that a range covers, its offset within the first page kept. -/
def coverPages (base : DWord) (len : DWord) : Nat := (base.toNat % 65536 + len.toNat + 65535) / 65536

/-- The lowest code whose cause holds at the receiver (R368); 0 where a stub can be received. -/
def State.receiveCode (s : State) (handle : BitVec 32) (len base : DWord) : Nat :=
  let ctx := handle.toNat / 2 ^ 20
  let r := s.swRegs ctx
  let n := coverPages base len
  match Table.get s.ctx.contexts ctx with
  | none => 2
  | some c =>
    let slot := s.inboxSlot ctx
    if !r.ctl.getLsbD 0 ∨ field r.ctl 63 44 ≠ handle.toNat % 2 ^ 20 then 2
    else if c.st = .building ∨ c.st = .tornDown then 3
    else if slot.2 = none ∧ (match s.vload ctx (slot.1 + 60) 4 with | .ok b => leNat b | .error _ => 0) ≠ 0 then 4
    else if (s.freeRun ctx n).isNone then 5
    else if (s.freeFrames ctx n).length < n then 6
    else if 65536 ≤ s.sum.stubs.length then 7
    else if slot.2.isSome then 9
    else 0

/-- The inbox record without VALID (R359). -/
def inboxBytes (va len tag : DWord) (stub origin sender octx : Nat) : List Byte :=
  leBytes 8 va.toNat ++ leBytes 8 len.toNat ++ leBytes 8 tag.toNat ++ leBytes 2 stub ++ leBytes 1 (origin % 16) ++
  leBytes 1 (sender % 16) ++ leBytes 2 (octx % 4096) ++ leBytes 30 0

/-- Receive a stub: window, staging, number and inbox slot; the leaves; the record, then VALID (R358, R359). -/
def State.receive (s : State) (handle : BitVec 32) (len tag : DWord) (origin sender octx : Nat) (base : DWord) (hold : Nat) :
    State × Nat :=
  let ctx := handle.toNat / 2 ^ 20
  let n := coverPages base len
  let page := (s.freeRun ctx n).getD 0
  let frames := s.freeFrames ctx n
  let num := s.freeStub
  let va : DWord := BitVec.ofNat 64 (page * 65536 + base.toNat % 65536)
  let slot := (s.inboxSlot ctx).1
  let x : Stub := ⟨ctx, va, len, origin, octx, base, hold, .active, page, frames, [], [], 0, 0, none, s.sum.serial⟩
  let s1 := (frames.mapIdx fun k f => (page + k, f)).foldl (fun t p => t.writeLeaf ctx p.1 (stubLeaf p.2)) (s.setStub num x)
  let s2 := (s1.vstore ctx slot (inboxBytes va len tag num origin sender octx)).toOption.getD s1
  let s3 := (s2.vstore ctx (slot + 60) (leBytes 4 1)).toOption.getD s2
  ({ s3 with sum := { s3.sum with serial := s3.sum.serial + 1, regs := Table.upd s3.sum.regs ctx fun r => { r with h := r.h + 1 } } }, num)

/-- The receiver's guardian learns of an inbox that does not translate (R368, R424). -/
def State.inboxFault (s : State) (handle : BitVec 32) : State :=
  let ctx := handle.toNat / 2 ^ 20
  match s.inboxSlot ctx with
  | (va, some c) => s.raise ctx 11 c.num 0 0 va 0
  | _ => s

/-- A stub arrives from another device. -/
def execStubReceipt (handle : BitVec 32) (len tag : DWord) (origin sender octx : Nat) (base : DWord) (hold : Nat) (s : State) :
    Out :=
  let code := s.receiveCode handle len base
  if len.toNat = 0 ∨ 2 ^ 36 < len.toNat ∨ len.toNat % 4096 ≠ 0 ∨ base.toNat % 4096 ≠ 0 then .next s
  else if code = 9 then .next (s.inboxFault handle)
  else if code ≠ 0 then .next s
  else .next (s.receive handle len tag origin sender octx base hold).1

/-- The lowest tile of a range that a LOST stub will never have, by its address. -/
def Stub.missing (x : Stub) (lo hi : Nat) : Option DWord :=
  (x.unpulled.find? fun k => decide (lo ≤ k) && decide (k < hi)).map fun k =>
    BitVec.ofNat 64 (x.va.toNat / 65536 * 65536 + 4096 * k)

/-- A lane that waits for tiles of a stub that is lost learns which it will never have (R370). -/
def Lane.missStub (l : Lane) (n : Nat) (x : Stub) : Lane :=
  match l.st with
  | .stalled w => (match w.kind with
    | .pulled m q lo hi none => if m = n ∧ q = x.serial then { l with st := .stalled { w with kind := .pulled m q lo hi (x.missing lo hi) } } else l
    | _ => l)
  | _ => l

/-- A stub becomes LOST: renewals and pulls end, and the touches that wait for a tile in the range fault (R363). -/
def State.loseStub (s : State) (n : Nat) : State :=
  match s.stub n with
  | none => s
  | some x =>
    if x.st ≠ .active then s
    else
      let s1 := s.setStub n { x with st := .lost, pulling := [] }
      let hit (a : Access) : Bool := !a.sp && a.ctx == x.ctx && a.kind.loads && a.st == .queued && a.fault.isNone &&
        (match a.tr with | some t => t.cls == 6 | none => false) &&
        (match s1.stubAt a.ctx a.va with | some (m, y) => m == n && y.inRange (y.tile a.va) && !y.pulled.contains (y.tile a.va) | none => false)
      { s1 with run := { s1.run with
        groups := s1.run.groups.map fun (p : Nat × Group) => (p.1, { p.2 with lanes := p.2.lanes.map fun l => l.missStub n x })
        accs := s1.run.accs.map fun (p : Nat × Access) => (p.1, if hit p.2 then { p.2 with fault := some .stubLost } else p.2) } }

/-- The origin of a stub on this device serves a pull: the tile's 4 KiB at the coherence point; a range that no longer translates,
or an entry that has cleared, is answered LOST (R360, R361). -/
def execPullServe (hold tile : Nat) (s : State) : Out :=
  match Table.get s.sum.holds hold with
  | none => .next s
  | some h =>
    if !s.local h.dev then .next s
    else match s.vload h.octx (BitVec.ofNat 64 (h.base.toNat / 65536 * 65536 + 4096 * tile)) 4096 with
      | .ok b => .next (s.message (.tilePulled h.stub tile b))
      | .error _ => .next (s.message (.lostMessage h.stub))

/-- The stub's origin is told: on this device at once, on another the message leaves the device. -/
def State.tellOrigin (s : State) (x : Stub) (i : Due) : State := if s.local x.origin then s.message i else s

/-- A tile lands in staging; with the last tile in the range the stub is COMPLETE (R360, R363). -/
def execTilePulled (n tile : Nat) (data : List Byte) (s : State) : Out :=
  match s.stub n with
  | none => .next s
  | some x =>
    if !x.pulling.contains tile ∨ data.length ≠ 4096 then .next s
    else
      let s1 := s.store (x.frames.getD (tile / 16) 0 + 4096 * (tile % 16)) data
      let y := { x with pulled := x.pulled ++ [tile], pulling := x.pulling.filter (· != tile) }
      if x.st = .active ∧ y.unpulled.isEmpty then
        .next ((s1.setStub n { y with st := .complete }).tellOrigin x (.stubCompletionMessage x.hold))
      else .next (s1.setStub n y)

/-- Every 100 ms an ACTIVE stub renews its entry (R361). -/
def execHoldRenewal (n : Nat) (s : State) : Out :=
  match s.stub n with
  | none => .next s
  | some x =>
    if x.st = .active ∧ 100000000 ≤ x.renew then
      .next ((s.setStub n { x with renew := 0 }).tellOrigin x (.renewalReachesOrigin x.hold))
    else .next s

/-- A renewal reaches the origin: the lease starts again, and is acknowledged; an expiry that falls together comes first (R364). -/
def execRenewalReachesOrigin (hold : Nat) (s : State) : Out :=
  match Table.get s.sum.holds hold with
  | none => .next s
  | some h =>
    let s1 := { s with sum := { s.sum with holds := Table.set s.sum.holds hold { h with age := 0 } } }
    .next (if 1000000000 ≤ h.age then s.clearHold hold else if s.local h.dev then s1.message (.renewalAcknowledgement h.stub) else s1)

def execRenewalAcknowledgement (n : Nat) (s : State) : Out :=
  match s.stub n with
  | none => .next s
  | some x => .next (s.setStub n { x with quiet := 0 })

/-- A hold entry's lease has run 1 s. -/
def execHoldExpiry (hold : Nat) (s : State) : Out :=
  match Table.get s.sum.holds hold with
  | none => .next s
  | some h => .next (if 1000000000 ≤ h.age then s.clearHold hold else s)

def execDropMessage (hold : Nat) (s : State) : Out := .next (s.clearHold hold)

def execStubCompletionMessage (hold : Nat) (s : State) : Out := .next (s.clearHold hold)

def execLostMessage (n : Nat) (s : State) : Out := .next (s.loseStub n)

/-- No renewal has been acknowledged for 1 s. -/
def execRenewalTimeout (n : Nat) (s : State) : Out :=
  match s.stub n with
  | none => .next s
  | some x => .next (if 1000000000 ≤ x.quiet then s.loseStub n else s)

/-- A write, a transfer or a stream has waited HOLDLIM on a held page (R230, R237, R362, R364). A host's store that has is not performed; it
has no bundle to park, and R425 gives its host no answer (DESIGN CHOICE, log 48). -/
def execHoldLimit (id : Nat) (s : State) : Out :=
  match Table.get s.run.accs id, Table.get s.eng.transfers id, Table.get s.eng.streams id with
  | some a, _, _ =>
    let held : Bool := match a.tr with | some t => t.cls == 5 && s.heldOn a.ctx a.va | none => false
    if a.kind.writes ∧ held = true ∧ a.fault.isNone ∧ (a.st = .queued ∨ a.st = .combined) ∧ s.holdLimNs a.ctx ≤ a.waited then
      .next (s.setAccess id { a with fault := some .pageHeld })
    else .next s
  | none, some x, _ =>
    let stuck := (List.range (x.rows * x.units)).find? fun k => !x.done.contains k && s.heldOn x.ctx (x.memAt k)
    (match stuck with
    | some k => .next (if !x.load ∧ s.holdLimNs x.ctx ≤ x.waited then s.failTransfer id x .pageHeld (x.memAt k) else s)
    | none => .next s)
  | none, none, some x =>
    (match x.heldAt (s.heldOn x.ctx) with
    | some a => .next (if s.holdLimNs x.ctx ≤ x.waited then s.endStream id x .pageHeld a else s)
    | none => .next s)
  | none, none, none =>
    .next (if s.mem.stalls.any fun x => x.id == id && s.overdue x.ctx (BitVec.ofNat 64 x.page) id then
      (({ s with sch := { s.sch with held := s.sch.held.filter fun d => d.waiter != some id } } : State).unstall id)
      else s)

/-- 1 s after a restore, the pages it kept held keep only the holds that have been granted (R405). -/
def execRestoredHoldWindow (ctx : Nat) (s : State) : Out :=
  match Table.get s.sum.restoredLeft ctx with
  | some 0 =>
    let mine := s.sum.restored.filter fun r => r.1 == ctx
    let s1 := { s with sum := { s.sum with
      restored := s.sum.restored.filter fun r => r.1 != ctx
      restoredLeft := Table.del s.sum.restoredLeft ctx } }
    .next (mine.foldl (fun t r => t.freePages ctx (BitVec.ofNat 64 r.2) 65536) s1)
  | _ => .next s

/-- Every page of a range is deferred or held in a context (R356). -/
def State.sendable (s : State) (ctx : Nat) (base : DWord) (len : Nat) : Bool :=
  (pieces base.toNat len).all fun va => match s.walk ctx va with | .found t => t.cls == 4 || t.cls == 5 | _ => false

/-- A request to add a hold entry for a re-sent or a restored stub: granted where the origin context holds the range in class
deferred or held, else answered LOST (R366, R405). -/
def execHoldEntryRequest (octx : Nat) (base len : DWord) (dev stub : Nat) (restored : Bool) (s : State) : Out :=
  let _ := restored
  if s.sendable octx base len.toNat ∧ s.sum.holds.length < 65536 ∧ 0 < len.toNat then
    let (s1, n) := s.addHold ⟨octx, base, len, dev, stub, 0⟩
    .next (if s.local dev then (match s1.stub stub with
      | some x => s1.setStub stub { x with hold := n }
      | none => s1) else s1)
  else .next (if s.local dev then s.message (.lostMessage stub) else s)

/-! ### SWCTL (R357) -/

/-- A write of SWCTLn. Setting EN is checked; while EN is set only EN changes. -/
def execSumacEnable (host ctx : Nat) (ctl : DWord) (s : State) : Out :=
  match Table.get s.ctx.contexts ctx with
  | none => .next s
  | some c =>
    let r := s.swRegs ctx
    let put (x : SwRegs) : State := { s with sum := { s.sum with regs := Table.set s.sum.regs ctx x } }
    let fields := ctl &&& 0xFFFFFFFFF00000F0#64
    if c.st = .tornDown ∨ !s.privileged host c.record.part then .next s
    else if r.ctl.getLsbD 0 then .next (if ctl.getLsbD 0 then s else put { r with ctl := r.ctl &&& ~~~1#64 })
    else if !ctl.getLsbD 0 then .next (put { r with ctl := fields })
    else
      let k := field ctl 7 4
      let good := (c.st == .building || c.st == .guarded || c.st == .shared) && decide (4 ≤ k) && decide (k ≤ 12) &&
        r.base.toNat % 65536 == 0 && r.size.toNat % 65536 == 0 && decide (r.size.toNat ≤ 2 ^ 46) &&
        r.inbox.toNat % (64 * 2 ^ k) == 0 && r.stage.toNat % 65536 == 0 && r.stageSz.toNat % 65536 == 0 &&
        s.rangeOk c.record.part r.stage.toNat r.stageSz.toNat true
      if good then .next (put { r with ctl := fields ||| 1, h := 0 })
      else .next ((put { r with ctl := fields }).glen 3 1 (BitVec.ofNat 64 ctx))

/-! ### DSEND (R356, R366 to R368) -/

/-- What a DSEND finds of its range. -/
inductive Range where
  | fault (c : Code) (a : DWord)
  | bad
  | own
  | resend (n : Nat) (x : Stub)

/-- The first page of a range that does not translate. -/
def State.rangeFault (s : State) (ctx : Nat) (base : DWord) (len : Nat) : Option (Code × DWord) :=
  (pieces base.toNat len).findSome? fun va => match s.walk ctx va with
    | .found t => if t.cls = 7 then some (.pageLost, va) else none
    | _ => some (.pageNotPresent, va)

/-- Translate and judge a range (R356, R368). -/
def State.rangeOf (s : State) (ctx : Nat) (base : DWord) (len : Nat) : Range :=
  let r := s.swRegs ctx
  match s.liveStub ctx base with
  | some (n, x) => if base.toNat + len ≤ x.va.toNat + x.len.toNat then .resend n x else .bad
  | none =>
    if r.base.toNat ≤ base.toNat ∧ base.toNat < r.base.toNat + r.size.toNat then .bad
    else match s.rangeFault ctx base len with
      | some (c, a) => .fault c a
      | none => if s.sendable ctx base len then .own else .bad

/-- What another device answers to a reservation: 0 or a code, and its stub number. It decides that (log 11). -/
def State.remoteAnswer (s : State) : State × Nat × Nat :=
  let (n, t) := s.draw
  (t, if n % 10 = 8 then 0 else n % 10, n / 10 % 65536)

/-- What the origin of a re-sent stub answers to the request for a hold entry: 0, NO_HOLD, or ORIGIN_LOST where the stub is COMPLETE and
the origin context holds the range no more in class deferred or held (R366; log 11). On another device it decides. -/
def State.originAnswer (s : State) (x : Stub) (base len : DWord) : State × Nat :=
  if s.local x.origin then (s, if s.sendable x.octx base len.toNat then 0 else 8)
  else
    let (n, t) := s.draw
    (t, (if x.st = .complete then [0, 7, 8] else [0, 7] : List Nat).getD (n % 3) 0)

/-- The pages that a send translates have been accessed (R207, R368). -/
def State.touchRange (s : State) (ctx : Nat) (base : DWord) (len : Nat) : State :=
  (pieces base.toNat len).foldl (fun t va => match t.walk ctx va with | .found l => (t.setAccessed l false).1 | _ => t) s

/-- The result of DSEND: the state, and D. -/
def State.sendRange (s : State) (ctx : Nat) (base len dest tag : DWord) (re : Option Stub) : State × DWord :=
  let dev := field dest 35 32
  let handle : BitVec 32 := dest.setWidth 32
  let (origin, octx, obase) := match re with
    | some x => (x.origin, x.octx, x.obase + (base - x.va))
    | none => (s.lnk.fdev, ctx, base)
  let fail (t : State) (c : Nat) : State × DWord := (t, BitVec.ofNat 64 (2 ^ 63 + c))
  let lost : Bool := match re with
    | some x => x.st == .lost || (!s.local x.origin && s.lnk.route x.origin == .none)
    | none => false
  let full := s.local origin && decide (65536 ≤ s.sum.holds.length)
  let least (a b : Nat) : Nat := if a = 0 then b else if b = 0 then a else Nat.min a b
  let (s, granted) := match re with | some x => s.originAnswer x obase len | none => (s, 0)
  let mine := least (least (if full then 7 else 0) (if lost then 8 else 0)) granted
  if s.local dev then
    let code := least (s.receiveCode handle len obase) mine
    if code = 9 then fail (s.inboxFault handle) 9
    else if code ≠ 0 then fail s code
    else
      let (s1, hold) := if s.local origin then s.addHold ⟨octx, obase, len, dev, s.freeStub, 0⟩ else (s, 0)
      let (s2, n) := s1.receive handle len tag origin dev octx obase hold
      (s2, BitVec.ofNat 64 (dev * 2 ^ 16 + n))
  else if s.lnk.route dev = .none then fail s 1
  else
    let (s1, c, n) := s.remoteAnswer
    let code := least c mine
    if code ≠ 0 then fail s1 code
    else
      let s2 := if s.local origin then (s1.addHold ⟨octx, obase, len, dev, n, 0⟩).1 else s1
      (s2, BitVec.ofNat 64 (dev * 2 ^ 16 + n))

def execDsend (h : Hd) (d a b c e : Opnd) (s : State) : Out :=
  .next (s.once h fun s i g k =>
    let src := i.source g
    let l := src.lane k
    let base := readOp src l true a
    let len := readOp src l true b
    let dest := readOp src l true c
    let tag := readOp src l true e
    let ctx := s.ctxOf g
    let finish (t : State) (v : DWord) : State :=
      let (t1, r) := t.settleResult g k (leBytes 8 v.toNat)
      t1.later h fun _ _ _ => { regs := [(d, true, BitVec.ofNat 64 (leNat r))] }
    if len.toNat = 0 ∨ 2 ^ 36 < len.toNat then s.trapGuarded i g h .resourceBound 0
    else if base.toNat % 4096 ≠ 0 ∨ len.toNat % 4096 ≠ 0 then s.trapGuarded i g h .alignment base
    else if !s.reached i.gid .dom (s.earlier i g) then s.waitAtIssue i 2
    else if s.replaying ctx then finish s 0
    else match s.rangeOf ctx base len.toNat with
      | .fault x y => s.parkOnce i g h x y
      | .bad => s.trapGuarded i g h .stubInvalid base
      | .own => let r := (s.touchRange ctx base len.toNat).sendRange ctx base len dest tag none; finish r.1 r.2
      | .resend _ x => let r := s.sendRange ctx base len dest tag (some x); finish r.1 r.2)

/-! ### DDROP, DPULL and DSTAT (R369 to R371) -/

/-- Drop a stub: its leaves become not valid, and an ACTIVE one sends a drop message. -/
def State.unmapStub (s : State) (x : Stub) : State :=
  let s1 := (List.range x.frames.length).foldl (fun t k => t.writeLeaf x.ctx (x.firstPage + k) 0) s
  if x.st = .active then s1.tellOrigin x (.dropMessage x.hold) else s1

/-- Begin a drop once the stub's pulls have ended: it awaits the invalidation. -/
def State.beginDrop (s : State) (n : Nat) (x : Stub) : State :=
  let s1 := s.unmapStub x
  let id := s1.sch.nextId
  let s2 := s1.postInval x.ctx (BitVec.ofNat 64 (x.firstPage * 65536)) (BitVec.ofNat 64 (x.frames.length * 65536)) none
  s2.setStub n { x with inval := some id }

def execDdrop (h : Hd) (a : Opnd) (s : State) : Out :=
  .next (s.once h fun s i g k =>
    let va := readOp (i.source g) ((i.source g).lane k) true a
    match s.liveStub (s.ctxOf g) va with
    | none => s.trapGuarded i g h .stubInvalid va
    | some (n, x) =>
      let s1 := if x.pulling.isEmpty then s.beginDrop n x else s
      s1.stallBundle i g h ⟨.dropped n x.serial, 15, none, .absent, i.word, false, false⟩)

/-- Start the pulls of an ACTIVE stub's unpulled tiles from lo below hi, in ascending order. -/
def Stub.pull (x : Stub) (lo hi : Nat) : Stub :=
  if x.st = .active then
    { x with pulling := x.pulling ++ x.unpulled.filter fun k => decide (lo ≤ k) && decide (k < hi) && !x.pulling.contains k }
  else x

def execDpull (h : Hd) (wait : Bool) (a b : Opnd) (s : State) : Out :=
  .next (s.once h fun s i g k =>
    let src := i.source g
    let va := readOp src (src.lane k) true a
    match s.liveStub (s.ctxOf g) va with
    | none => s.trapGuarded i g h .stubInvalid va
    | some (n, x) =>
      let rest := x.va.toNat + x.len.toNat - va.toNat
      let len := if b.isAbsent then rest else Nat.min (readOp src (src.lane k) true b).toNat rest
      let lo := x.tile va
      let hi := if len = 0 then lo else x.tile (va + BitVec.ofNat 64 (len - 1)) + 1
      let s1 := s.setStub n (x.pull lo hi)
      match wait, x.missing lo hi with
      | false, _ => s1.lanes h fun _ _ _ => {}
      | true, none => s1.lanes h fun _ _ _ => {}
      | true, some y =>
        if x.st = .lost then s.parkOnce i g h .stubLost y
        else s1.stallBundle i g h ⟨.pulled n x.serial lo hi none, 15, none, .absent, i.word, false, false⟩)

/-- The word that DSTAT writes. -/
def State.stubWord (s : State) (ctx : Nat) (va : DWord) : DWord :=
  match s.liveStub ctx va with
  | some (n, x) =>
    let st := match x.st with | .active => 0 | .complete => 1 | .lost => 2
    BitVec.ofNat 64 (2 ^ 62 + st * 2 ^ 60 + x.origin % 16 * 2 ^ 56 + n * 2 ^ 40 + x.unpulled.length)
  | none =>
    match s.walk ctx va with
    | .found t =>
      if t.cls = 4 then BitVec.ofNat 64 (2 * 2 ^ 62)
      else if t.cls = 5 then BitVec.ofNat 64 (2 * 2 ^ 62 + 2 ^ 60 + Nat.min (s.holdCount ctx t va) 0xFFFF)
      else 0
    | _ => 0

def execDstat (h : Hd) (d a : Opnd) (s : State) : Out :=
  .next (s.once h fun s i g k =>
    let va := readOp (i.source g) ((i.source g).lane k) true a
    let (s1, r) := s.settleResult g k (leBytes 8 (s.stubWord (s.ctxOf g) va).toNat)
    s1.later h fun _ _ _ => { regs := [(d, true, BitVec.ofNat 64 (leNat r))] })

/-! ### Teardown (R363, R365) -/

/-- A context's teardown: its stubs vanish, its entries are discarded and their receivers told, its block is cleared. -/
def State.tearSumac (s : State) (ctx : Nat) : State :=
  let s1 := s.sum.stubs.foldl (fun t p => if p.2.ctx = ctx then t.unmapStub p.2 else t) s
  let s2 := s.sum.holds.foldl (fun t p =>
    if p.2.octx = ctx ∧ s.local p.2.dev then t.message (.lostMessage p.2.stub) else t) s1
  { s2 with sum := { s2.sum with
    stubs := s2.sum.stubs.filter fun p => p.2.ctx != ctx
    holds := s2.sum.holds.filter fun p => p.2.octx != ctx
    regs := Table.del s2.sum.regs ctx
    restored := s2.sum.restored.filter fun r => r.1 != ctx
    restoredLeft := Table.del s2.sum.restoredLeft ctx } }

end Sys2Proof.Machine
end

