-- ==== Sys2Proof/Machine/Clove.lean ====
section
/-! DEFINITION. Machine/Clove.lean: sequences, rules, iterations and the instructions 0xE0 to 0xE5 (24_sequence.md, R375 to R390). -/

namespace Sys2Proof.Machine

/-! ### Rule records (R378) -/

/-- 32-bit saturating increment (R375). -/
def satInc (x : Word) : Word := if x = 0xFFFFFFFF then x else x + 1

/-- The rule that 128 bytes describe; none if the record is malformed. -/
def ruleOf (b : List Byte) : Option Rule :=
  let tok (o j : Nat) : Word := BitVec.ofNat 32 (bytesField b (o + 4 * j) 4)
  let ctl := bytesField b 64 4
  let len := ctl % 16
  let act := ctl / 2 ^ 8 % 8
  let ninj := ctl / 2 ^ 11 % 16
  let csel := ctl / 2 ^ 16 % 128
  let n := bytesField b 68 4
  let bad := decide (8 < len) || act == 0 || act == 6 || act == 7 ||
    (if act = 3 then decide (ninj < 1) || decide (8 < ninj) else ninj != 0) ||
    (if len = 0 then decide (79 < csel) && csel != 127 else csel != 0 || n != 0) ||
    ctl / 2 ^ 23 != 0 || bytesField b 72 56 != 0 ||
    ((List.range 8).any fun j => (decide (len ≤ j) && tok 0 j != 0) || (decide (ninj ≤ j) && tok 32 j != 0))
  if bad || b.length != 128 then none
  else some ⟨(List.range len).map (tok 0), (List.range ninj).map (tok 32), ctl / 16 % 16, act, ctl / 2 ^ 15 % 2 == 1,
    if len = 0 then some csel else none, n⟩

/-! ### Handles and sequences (R376, R382, R384) -/

def State.seqHandle (s : State) (n : Nat) : Word := BitVec.ofNat 32 ((Sparse.get s.clv.gens n).toNat * 2 ^ 16 + n)

/-- The sequence that a handle of a context names. -/
def State.seqOf (s : State) (ctx : Nat) (handle : Word) : Option (Nat × Sequence) :=
  let n := handle.toNat % 2 ^ 16
  match Table.get s.clv.seqs n with
  | some q => if q.ctx = ctx ∧ s.seqHandle n = handle then some (n, q) else none
  | none => none

def State.setSeq (s : State) (n : Nat) (q : Sequence) : State := { s with clv := { s.clv with seqs := Table.set s.clv.seqs n q } }

/-- Sequences that a partition holds. -/
def State.seqsHeld (s : State) (part : Nat) : Nat := (s.clv.seqs.filter fun p => p.2.part == part).length

/-- A FREE sequence for a partition: none once its share is used up. -/
def State.freeSeq (s : State) (part : Nat) : Option Nat :=
  if s.seqsHeld part < (Sparse.get s.clv.shares part).toNat then
    (List.range (s.clv.seqs.length + 1)).find? fun k => decide (k < 65536) && (Table.get s.clv.seqs k).isNone
  else none

/-- Free a sequence: the generation rises by one. -/
def State.freeSequence (s : State) (n : Nat) : State :=
  { s with clv := { s.clv with
    seqs := Table.del s.clv.seqs n
    gens := Sparse.set s.clv.gens n (Sparse.get s.clv.gens n + 1) } }

/-- The rules that apply to a sequence, by rule index: its own, then the shared ones that its mask selects (R375). -/
def State.rulesFor (s : State) (q : Sequence) : List (Nat × Rule) :=
  ((List.range 16).filterMap fun k => (Table.get q.rules k).map fun r => (k, r)) ++
  ((List.range 64).filterMap fun i => if q.mask.getLsbD i then ((Table.get s.clv.shared (q.part * 64 + i)).bind ruleOf).map fun r => (16 + i, r) else none)

/-! ### Evaluating a position (R379 to R381) -/

/-- A pattern hits at the end of a stream; 0xFFFF_FFFF matches any token. -/
def Rule.matches (r : Rule) (stream : List Word) : Bool :=
  r.en && r.csel.isNone && decide (r.pat.length ≤ stream.length) &&
  ((r.pat.zip (stream.drop (stream.length - r.pat.length))).all fun p => p.1 == 0xFFFFFFFF || p.1 == p.2)

/-- Pattern rules that hit, by index. -/
def patternHits (rules : List (Nat × Rule)) (stream : List Word) : List Nat :=
  (rules.filter fun r => r.2.matches stream).map (·.1)

def raiseHits (hits : Sparse 32) (l : List Nat) : Sparse 32 := l.foldl (fun h k => Sparse.set h k (satInc (Sparse.get h k))) hits

/-- Budget rules that hit: the selected counter reaches N between the two positions. -/
def budgetHits (rules : List (Nat × Rule)) (conf seenConf : Word) (hits seenHits : Sparse 32) : List Nat :=
  (rules.filter fun r => r.2.en && match r.2.csel with
    | some c =>
      let now := if c = 127 then conf else Sparse.get hits c
      let before := if c = 127 then seenConf else Sparse.get seenHits c
      decide (r.2.n ≤ now.toNat) && decide (before.toNat < r.2.n)
    | none => false).map (·.1)

/-- The rule with the highest PRIO, then the lowest index. -/
def bestRule (l : List (Nat × Rule)) : Option (Nat × Rule) :=
  pick (fun a b => decide (b.2.prio < a.2.prio) || (a.2.prio == b.2.prio && decide (a.1 ≤ b.1))) l

/-- What a confirmed position has done so far in its instruction. -/
structure Confirmed where
  seq : Sequence
  emitted : Word
  rule : Nat
  notified : List Nat
  fork : Bool
  inject : Bool
  disc : Nat
  /-- STOP.TRAP: the token and the rule index. -/
  trap : Option (Word × Nat)

/-- Keep the last 32 tokens. -/
def lastTokens (l : List Word) : List Word := l.drop (l.length - 32)

/-- A confirmed position takes a token: counters rise, rules hit, and the actions chosen are applied. -/
def confirmAt (rules : List (Nat × Rule)) (q : Sequence) (tok : Word) (forced : Bool) : Confirmed :=
  let pats := if forced then [] else patternHits rules (q.hist ++ [tok])
  let conf := satInc q.conf
  let hits := raiseHits q.hits pats
  let buds := budgetHits rules conf q.seenConf hits q.seenHits
  let h := rules.filter fun r => pats.contains r.1 || buds.contains r.1
  let q1 := { q with conf := conf, hits := raiseHits hits buds, seenConf := conf, seenHits := hits }
  let notified := (h.filter fun r => r.2.act == 5).map (·.1)
  match bestRule (h.filter fun r => r.2.act == 1 || r.2.act == 2), bestRule (h.filter fun r => r.2.act == 3 || r.2.act == 4) with
  | some (k, r), _ =>
    ⟨{ q1 with hist := lastTokens (q.hist ++ [tok]), drafts := [], run := [], stopped := true }, tok, k, notified, false, false,
      q.drafts.length, if r.act = 2 then some (tok, k) else none⟩
  | none, some (k, r) =>
    if r.act = 3 then
      ⟨{ q1 with hist := lastTokens (q.hist ++ [r.inj.headD 0]), drafts := [], run := r.inj.drop 1 }, r.inj.headD 0, k, notified,
        false, true, q.drafts.length, none⟩
    else ⟨{ q1 with hist := lastTokens (q.hist ++ [tok]) }, tok, k, notified, true, false, 0, none⟩
  | none, none => ⟨{ q1 with hist := lastTokens (q.hist ++ [tok]) }, tok, 0x7F, notified, false, false, 0, none⟩

/-! ### Notify and fork (R384, R385) -/

/-- Clove's store of 8 bytes: a release at system scope. An iteration meets a held page only past HOLDLIM, and fails there (R362, R385). -/
def State.notifyStore (s : State) (ctx : Nat) (a : DWord) (b : List Byte) : Except Code State :=
  if s.heldOn ctx a then .error .pageHeld
  else (s.vstore ctx a b).map fun t => match s.translate ctx .store a 8 with
    | .ok x => t.mark (x.key a) 8 [⟨.package, .sys, t.mem.ver, t.sch.nextId⟩]
    | .error _ => t

/-- Write a notify record; a write that faults tells the guardian. A replay suppresses it (R410). -/
def State.notify (s : State) (n : Nat) (q : Sequence) (low : Nat) : State :=
  match q.notify with
  | none => s
  | some a =>
    s.outside q.ctx (engineEffect a) fun u => match u.notifyStore q.ctx a (leBytes 8 (q.conf.toNat * 2 ^ 32 + low)) with
      | .ok t => t
      | .error c => (u.noteMalformed q.ctx a).raise q.ctx 10 c.num 0 0 a ((u.seqHandle n).setWidth 64)

/-- Put a position's outcome in place: notify records, then the fork. The word that reports the fork: none, made, failed. -/
def State.place' (s : State) (n : Nat) (c : Confirmed) : State × Option Bool :=
  let s1 := c.notified.foldl (fun t k => t.notify n c.seq k) (s.setSeq n c.seq)
  if !c.fork then (s1, none)
  else match s1.freeSeq c.seq.part with
    | none => (s1.notify n c.seq 0xFFFFFFFF, some false)
    | some m =>
      let s2 := s1.setSeq m { c.seq with drafts := [], run := [], stopped := false }
      (s2.notify n c.seq (2 ^ 31 + (s2.seqHandle m).toNat), some true)

/-! ### The status word (R386) -/

structure Status where
  nconf : Nat := 0
  ndisc : Nat := 0
  rule : Nat := 0x7F
  dfull : Bool := false
  forkfail : Bool := false
  forked : Bool := false
  notified : Bool := false
  prov : Bool := false
  inj : Bool := false
  stopped : Bool := false

def Status.word (x : Status) : Word :=
  BitVec.ofNat 32 (x.nconf * 2 ^ 24 + x.ndisc * 2 ^ 16 + x.rule * 2 ^ 8 + (if x.dfull then 128 else 0) + (if x.forkfail then 64 else 0) +
    (if x.forked then 32 else 0) + (if x.notified then 16 else 0) + (if x.prov then 8 else 0) + (if x.inj then 4 else 0) +
    (if x.stopped then 2 else 0))

/-- Add a position's outcome to a status. -/
def Status.add (x : Status) (c : Confirmed) (fork : Option Bool) : Status :=
  { x with
    ndisc := x.ndisc + c.disc
    rule := if c.rule = 0x7F then x.rule else c.rule
    forkfail := x.forkfail || fork == some false
    forked := x.forked || fork == some true
    notified := x.notified || !c.notified.isEmpty
    inj := x.inj || c.inject
    stopped := x.stopped || c.seq.stopped }

/-- %faddr of SEQ_TRAP (R387). -/
def trapWord (n : Nat) (t : Word × Nat) : DWord := BitVec.ofNat 64 (t.1.toNat + t.2 * 2 ^ 32 + n * 2 ^ 39)

/-! ### Iterations (R383, R388, R390) -/

/-- An iteration's answer: emitted token, status, predicate, and the fault that it ends in. -/
abbrev Answer := Word × Word × Bool × Option (Code × DWord)

def stoppedWord : Word := ({ stopped := true } : Status).word

/-- SQTOK: drafts held are discarded first. -/
def State.iterTok (s : State) (n : Nat) (q : Sequence) (t : Word) : State × Answer :=
  if q.stopped then (s, 0xFFFFFFFF, stoppedWord, false, none)
  else
    let q0 := { q with drafts := [] }
    let forced := !q.run.isEmpty
    let tok := q.run.headD t
    let c := confirmAt (s.rulesFor q0) { q0 with run := q0.run.drop 1 } tok forced
    let (s1, f) := s.place' n c
    let x := ({ ndisc := q.drafts.length, inj := forced } : Status).add c f
    (s1, c.emitted, x.word, false, c.trap.map fun y => (.seqTrap, trapWord n y))

/-- SQTOK.d: one draft, with its provisional hits. -/
def State.iterDraft (s : State) (n : Nat) (q : Sequence) (t : Word) : State × Answer :=
  if q.stopped then (s, 0xFFFFFFFF, stoppedWord, false, none)
  else if 16 ≤ q.drafts.length ∨ !q.run.isEmpty then (s, 0xFFFFFFFF, ({ dfull := true } : Status).word, false, none)
  else
    let hits := patternHits (s.rulesFor q) (q.hist ++ q.drafts.map (·.1) ++ [t])
    (s.setSeq n { q with drafts := q.drafts ++ [(t, hits)] }, t, ({ prov := !hits.isEmpty } : Status).word, false, none)

/-- Confirm drafts in turn, until a terminal hit or an INJECT ends it. -/
def State.confirmDrafts (s : State) (n : Nat) : Nat → Status → State × Status × Option (Word × Nat)
  | 0, x => (s, x, none)
  | m + 1, x =>
    match Table.get s.clv.seqs n with
    | none => (s, x, none)
    | some q =>
      match q.drafts with
      | [] => (s, x, none)
      | d :: r =>
        let c := confirmAt (s.rulesFor q) { q with drafts := r } d.1 false
        let (s1, f) := s.place' n c
        let y := { x.add c f with nconf := x.nconf + 1 }
        if c.seq.stopped ∨ c.inject then (s1, y, c.trap) else State.confirmDrafts s1 n m y

def State.iterConf (s : State) (n : Nat) (q : Sequence) (k : Nat) : State × Answer :=
  if q.stopped then (s, 0, stoppedWord, false, none)
  else
    let (s1, x, t) := s.confirmDrafts n (Nat.min k q.drafts.length) {}
    (s1, 0, x.word, false, t.map fun y => (.seqTrap, trapWord n y))

def State.iterRej (s : State) (n : Nat) (q : Sequence) : State × Answer :=
  if q.stopped then (s, 0, stoppedWord, false, none)
  else (s.setSeq n { q with drafts := [] }, 0, ({ ndisc := q.drafts.length } : Status).word, false, none)

/-- SQRULE: a good record replaces the rule and clears its counter. -/
def State.iterRule (s : State) (n : Nat) (q : Sequence) (idx : Nat) (r : Option Rule) : State × Answer :=
  match r with
  | none => (s, 0, 0, false, none)
  | some x => (s.setSeq n { q with rules := Table.set q.rules idx x, hits := Sparse.set q.hits idx 0 }, 0, 0, true, none)

/-- The work of one iteration. -/
def State.iterate (s : State) (ctx : Nat) (handle : Word) (k : IterKind) : State × Answer :=
  match s.seqOf ctx handle with
  | none => (s, 0, 0, false, some (.resourceBound, handle.setWidth 64))
  | some (n, q) =>
    match k with
    | .tok false t => s.iterTok n q t
    | .tok true t => s.iterDraft n q t
    | .conf m => s.iterConf n q m
    | .rej => s.iterRej n q
    | .rule idx r => s.iterRule n q idx r
    | .close => (s.freeSequence n, 0, 0, false, none)

/-- The context of an iteration's group. -/
def State.iterCtx (s : State) (x : Iter) : Nat := match s.group x.gid with | some g => s.ctxOf g | none => 4096

/-- %wid of the lowest lane of an iteration. -/
def State.iterWid (s : State) (x : Iter) : DWord := match s.group x.gid with | some g => s.wid g (lowest x.lanes) | none => 0

/-- An answer whose status reports a notification, a fork or a failed fork (R386). -/
def Answer.notifies (a : Answer) : Bool := a.2.1.toNat / 16 % 8 != 0

/-- Can a notify store of a sequence be performed now; one past HOLDLIM fails (R362, R385). -/
def State.notifyOpen (s : State) (ctx : Nat) (handle : Word) (id : Nat) : Bool :=
  match s.seqOf ctx handle with
  | some (_, q) => (match q.notify with | some a => !s.writeWaits ctx a id || s.overdue ctx a id | none => true)
  | none => true

/-- The notify store of a sequence takes its place where its page is held. -/
def State.stallNotify (s : State) (ctx : Nat) (handle : Word) (id : Nat) : State :=
  match s.seqOf ctx handle with
  | some (_, q) => (match q.notify with | some a => s.stallHeld ctx a id | none => s)
  | none => s

/-- Clove takes the next iteration of a sequence: the first that reached it and is not answered. It waits while a notify store of its
own cannot be performed (R383, R385). -/
def execCloveIteration (seq : Nat) (s : State) : Out :=
  match s.clv.iters.find? fun p => p.2.answer.isNone && p.2.handle.toNat % 2 ^ 16 == seq &&
      s.orderAllows (s.iterCtx p.2) 2 seq (s.iterWid p.2) 0 with
  | none => .next s
  | some (id, x) =>
    let ctx := s.iterCtx x
    let (s1, a) := s.iterate ctx x.handle x.kind
    if a.notifies && !s.notifyOpen ctx x.handle id then .next (s.stallNotify ctx x.handle id)
    else
      let s2 := (s1.noteOrder ctx 2 seq (s.iterWid x) 0 []).unstall id
      .next { s2 with clv := { s2.clv with iters := Table.set s2.clv.iters id { x with answer := some a } } }

/-! ### The instructions (R389, R390) -/

/-- SQBIND in one lane: the sequence is taken at once. -/
def State.bind (s : State) (ctx : Nat) (notify : Option DWord) (mask : DWord) : State × Word :=
  let part := s.partOf ctx
  match s.freeSeq part with
  | none => (s, 0xFFFFFFFF)
  | some n => (s.setSeq n ⟨ctx, part, [], [], [], 0, [], 0, [], [], mask, notify, false⟩, s.seqHandle n)

def State.bindLanes (s : State) (g src : Group) (a b : Opnd) : List Nat → State × List (Nat × Nat)
  | [] => (s, [])
  | k :: r =>
    let l := src.lane k
    let (s1, h) := s.bind (s.ctxOf g) (if a.isAbsent then none else some (readOp src l true a)) (readOp src l true b)
    let (s2, b2) := s1.settleResult g k (leBytes 4 h.toNat)
    let (s3, hs) := State.bindLanes s2 g src a b r
    (s3, (k, leNat b2) :: hs)

/-- The lanes for which a sequence instruction runs: each guarded lane, or the lowest for the bundle. -/
def seqLanes (ks : List Nat) (once : Bool) : List Nat := if once then ks.take 1 else ks

/-- A destination that holds one value for the bundle. -/
def onceDest (d : Opnd) : Bool := d.isS || d.isAbsent

def execSqbind (h : Hd) (d a b : Opnd) (s : State) : Out :=
  .next (s.once h fun s i g _ =>
    let src := i.source g
    let one := onceDest d && a.uniform && b.uniform
    let ks := seqLanes (i.guarded g h) one
    let bad := ks.filter fun k => !a.isAbsent && (readOp src (src.lane k) true a).toNat % 8 != 0
    if !bad.isEmpty then s.takeTrap i (bad.map fun k => (k, .alignment, readOp src (src.lane k) true a))
    else
      let (s1, hs) := s.bindLanes g src a b ks
      s1.later h fun _ k _ =>
        { regs := [(d, false, BitVec.ofNat 64 (((hs.find? fun p => one || p.1 == k).map (·.2)).getD 0))] })

/-- An iteration reaches Clove no later than another: by cycle, then by core and group slot (R383). -/
def Iter.notAfter (x y : Iter) : Bool := decide (x.cycle < y.cycle) || (x.cycle == y.cycle && decide (x.place ≤ y.place))

/-- Clove's iterations in the order in which they reached it: those of one instruction, by lane number, follow all that came no later than
they (R383). -/
def arrived (l its : Table Iter) : Table Iter :=
  match its with
  | [] => l
  | p :: _ => l.takeWhile (fun q => q.2.notAfter p.2) ++ its ++ l.dropWhile (fun q => q.2.notAfter p.2)

/-- Send iterations to Clove, one for each lane or one for the bundle; the bundle waits for their answers. -/
def State.sendIters (s : State) (i : Issue) (g : Group) (h : Hd) (rel one : Bool) (handle d e : Opnd) (kind : Nat → IterKind) : State :=
  if rel && !s.reached i.gid .sys (s.earlier i g) then s.waitAtIssue i 2
  else
    let src := i.source g
    let ks := i.guarded g h
    let ls := seqLanes ks one
    let inst := s.sch.nextId
    let its := ls.mapIdx fun n k =>
      (inst + n, (⟨inst, i.gid, if one then laneMask ks else laneMask [k], BitVec.ofNat 32 (srcN32 src (src.lane k) handle), kind k, d, e, none,
        s.sch.cycle, 64 * g.core + g.slot⟩ : Iter))
    let s1 := { s with
      clv := { s.clv with iters := arrived s.clv.iters its }
      sch := { s.sch with nextId := inst + ls.length } }
    s1.stallBundle i g h ⟨.clove inst, 15, none, .absent, i.word, false, false⟩

def execSqtok (h : Hd) (draft rel : Bool) (d a b e : Opnd) (s : State) : Out :=
  .next (s.once h fun s i g _ =>
    let src := i.source g
    s.sendIters i g h rel (a.uniform && b.uniform && d.isAbsent && e.isAbsent) a d e fun k =>
      .tok draft ((readOp src (src.lane k) false b).setWidth 32))

def execSqconf (h : Hd) (rel : Bool) (d a b : Opnd) (s : State) : Out :=
  .next (s.once h fun s i g _ =>
    let src := i.source g
    s.sendIters i g h rel (a.uniform && b.uniform && d.isAbsent) a .absent d fun k =>
      .conf (Nat.min 16 (match b with | .imm x => x.toNat | _ => srcN32 src (src.lane k) b)))

def execSqrej (h : Hd) (d a : Opnd) (s : State) : Out :=
  .next (s.once h fun s i g _ => s.sendIters i g h false (a.uniform && d.isAbsent) a .absent d fun _ => .rej)

/-- SQRULE: the index, the address and the handle are checked first, then the record is read as two lines. -/
def execSqrule (h : Hd) (d a b c : Opnd) (s : State) : Out :=
  .next (s.once h fun s i g _ =>
    let src := i.source g
    let ctx := s.ctxOf g
    let one := a.uniform && b.uniform && c.uniform && d.isAbsent
    let ks := seqLanes (i.guarded g h) one
    let idx (k : Nat) : Nat := match b with | .imm x => x.toNat | _ => srcN32 src (src.lane k) b
    let va (k : Nat) : DWord := readOp src (src.lane k) true c
    let big := ks.filter fun k => decide (15 < idx k)
    let bad := ks.filter fun k => (va k).toNat % 128 != 0
    let handle (k : Nat) : Word := BitVec.ofNat 32 (srcN32 src (src.lane k) a)
    let stale := ks.filter fun k => (s.seqOf ctx (handle k)).isNone
    let faults := ks.filterMap fun k => match s.engineRead ctx (va k) with | .fault x => some (k, x, va k) | _ => none
    let waits := ks.filter fun k => s.engineRead ctx (va k) == .wait
    if !big.isEmpty then s.takeTrap i (big.map fun k => (k, .resourceBound, 0))
    else if !bad.isEmpty then s.takeTrap i (bad.map fun k => (k, .alignment, va k))
    else if !stale.isEmpty then s.takeTrap i (stale.map fun k => (k, .resourceBound, (handle k).setWidth 64))
    else if !faults.isEmpty then (s.parkImprecise i.gid i.lanes faults 0).setIssue fun j => { j with trapped := true }
    else if !waits.isEmpty then (waits.foldl (fun t k => t.startPull ctx (va k)) s).waitAtIssue i 15
    else s.sendIters i g h false one a d .absent fun k =>
      .rule (idx k) (match s.engineRead ctx (va k) with | .ok t => ruleOf (s.load (t.key (va k)) 128) | _ => none))

def execSqclose (h : Hd) (a : Opnd) (s : State) : Out :=
  .next (s.once h fun s i g _ => s.sendIters i g h false a.uniform a .absent .absent fun _ => .close)

/-- The iteration of an instruction that serves a lane. -/
def State.iterFor (s : State) (inst k : Nat) : Option Iter :=
  (s.clv.iters.find? fun p => p.2.inst == inst && hasBit p.2.lanes k).map (·.2)

/-- Every iteration of an instruction has been answered. -/
def State.answered (s : State) (inst : Nat) : Bool := s.clv.iters.all fun p => p.2.inst != inst || p.2.answer.isSome

/-- What a lane receives: emitted token or predicate in D, status in E. -/
def Iter.eff (x : Iter) (b : Answer) : Eff :=
  match x.kind with
  | .rule _ _ => { preds := [(x.d, b.2.2.1)] }
  | _ => { regs := [(x.d, false, b.1.setWidth 64), (x.e, false, b.2.1.setWidth 64)] }

/-- The bytes of an answer in the replay log. -/
def answerBytes (b : Answer) : List Byte := leBytes 4 b.1.toNat ++ leBytes 4 b.2.1.toNat ++ [if b.2.2.1 then 1 else 0]

/-! ### Clove registers (R377) -/

/-- SHARE of a partition: ignored and reported if the sum passes 65,536, or below what the partition holds. -/
def execCloveShareWrite (host p : Nat) (v : DWord) (s : State) : Out :=
  let n := field v 16 0
  let others := ((List.range 12).filter (· != p)).map fun k => (Sparse.get s.clv.shares k).toNat
  if !s.authority host ∨ 12 ≤ p then .next s
  else if 65536 < n + others.sum ∨ n < s.seqsHeld p then .next (s.glen 4 1 (BitVec.ofNat 64 p))
  else .next { s with clv := { s.clv with shares := Sparse.set s.clv.shares p (BitVec.ofNat 17 n) } }

/-- A shared rule; Clove takes a malformed record as disabled. -/
def execSharedRuleWrite (host p i : Nat) (bytes : List Byte) (s : State) : Out :=
  if !s.authority host ∨ 12 ≤ p ∨ 64 ≤ i then .next s
  else .next { s with clv := { s.clv with
    shared := Table.set s.clv.shared (p * 64 + i) ((bytes ++ List.replicate 128 0).take 128) } }

/-- A context's teardown frees its sequences (R382). -/
def State.tearClove (s : State) (ctx : Nat) : State :=
  let s1 := s.clv.seqs.foldl (fun t p => if p.2.ctx = ctx then t.freeSequence p.1 else t) s
  { s1 with clv := { s1.clv with iters := s1.clv.iters.filter fun p => s.iterCtx p.2 != ctx } }

end Sys2Proof.Machine
end

