-- ==== Sys2Proof/Machine/Waits.lean ====
section
/-! DEFINITION. Machine/Waits.lean: how a stalled lane's wait ends, by its condition or by its limit (05_lane.md R93; 08_barrier.md
R167, R170, R173 to R176; 12_transfer.md R228; 13_tile.md R253; 17_context.md R312; 20_link.md R343; 22_stub.md R369, R370;
24_sequence.md R389; 26_checkpoint_debug.md R408, R410, R417). -/

namespace Sys2Proof.Machine

/-! ### Ends -/

/-- One lane's wait ends. -/
def State.endLane (s : State) (g : Group) (gid lane : Nat) (ok : Bool) (e : Eff) : State :=
  (s.noteWait g lane ok).resumeLane gid lane e

/-- A whole bundle's wait ends. -/
def State.endBundle (s : State) (g : Group) (gid lane : Nat) (ok : Bool) (f : Nat → Wait → Eff) : State :=
  (s.noteWait g lane ok).resumeAll gid lane f

/-- The waiting lanes of a bundle whose guard holds. -/
def Group.guardedWaiters (g : Group) (lane : Nat) : List Nat :=
  (maskLanes (g.waitersWith lane)).filter fun k => match (g.lane k).st with | .stalled w => !w.muted | _ => false

/-- An imprecise fault ends a wait: its bundle parks (R98). -/
def State.parkWaiting (s : State) (g : Group) (gid lane : Nat) (ks : List Nat) (c : Code) (a : DWord) : State :=
  let t := s.log (s.ctxOf g) ⟨5, 0, c.num, s.wid g lane, (g.lane lane).retired, leBytes 8 a.toNat⟩
  (t.noteMalformed (s.ctxOf g) a).parkImprecise gid (g.waitersWith lane) (ks.map fun k => (k, c, a)) 0

/-! ### Each kind of wait -/

/-- WAITC tests its counter again (R174); `met` says that the target has been reached since it began to wait. -/
def State.testCounter (s : State) (g : Group) (gid lane : Nat) (va target : DWord) (acq : Bool) (sc : Scope) (met : Bool) : State :=
  let ctx := s.ctxOf g
  let go (t : State) : State := (if acq then t.acquireCounter g gid sc va else t).endLane g gid lane true {}
  if s.logGrants g lane true || met then go s
  else match s.engineRead ctx va with
    | .wait => s.startPull ctx va
    | .fault c => s.parkWaiting g gid lane [lane] c va
    | .ok t =>
      let (s1, b) := s.readAt ctx t va 8
      if target.toNat ≤ leNat b then go s1 else s1

/-- A tag wait ends once its condition holds, or at its limit (R228, R230). -/
def State.endTags (s : State) (g : Group) (gid lane : Nat) (w : Wait) (mask : DWord) (every expired : Bool) : State :=
  let ks := g.guardedWaiters lane
  let k0 := ks.headD lane
  match s.tagsSeen g k0 mask every expired with
  | none => s
  | some seen =>
    let s1 := (s.settleResult g k0 (leBytes 8 seen.toNat)).1
    (match tagFaultOf g seen mask every with
    | some (c, x) => s1.trapWaiting gid lane w (ks.map fun k => (k, c, x))
    | none => s1.endBundle g gid lane (!expired) fun _ w => match w.kind with
      | .tags d m e => tagEff seen m e d w.result
      | _ => {}).updGroup gid fun y => y.observe seen

/-- MWAIT: every commit group up to the one named is done (R253). -/
def State.endMwait (s : State) (g : Group) (gid lane : Nat) (w : Wait) (n : Nat) : State :=
  if g.mcdone.toNat < n then s
  else match g.unreported (BitVec.ofNat 64 n) with
    | some (m, c, off) => (s.trapWaiting gid lane w ((g.guardedWaiters lane).map fun k => (k, c, off))).updGroup gid fun x => x.report m
    | none => s.endBundle g gid lane true fun _ _ => {}

/-- SVC: further calls are posted as records are FREE; with the last one every lane has its handle (R311). -/
def State.endPosting (s : State) (g : Group) (gid lane : Nat) (d : Opnd) (base nargs : Nat) (calls : List (Nat × Mask))
    (handles : List (Nat × Nat)) : State :=
  let replay := s.replaying (s.ctxOf g)
  let (s1, left, hs) := if replay then (s, [], (g.guardedWaiters lane).map fun k => (k, 0)) else s.postCalls gid g base nargs calls
  let all := (if replay then [] else handles) ++ hs
  if left.isEmpty then
    let (s2, vs) := s1.settleEach g 4 all
    s2.resumeAll gid lane fun k _ => handleEff d vs k
  else
    let again (l : Lane) : Lane := match l.st with | .stalled w => { l with st := .stalled { w with kind := .posting d base nargs left all } } | _ => l
    s1.updGroup gid fun x => x.updLanes (g.waitersWith lane) again

/-- SVCW: the record behind the handle has a reply, or a refusal (R312). -/
def State.endSvcw (s : State) (g : Group) (gid lane : Nat) (w : Wait) (d : Opnd) (handle : Nat) : State :=
  let r := s.replyFor g lane handle true
  match r, r.fault handle with
  | _, some f => ((s.takeReply g lane handle r).acquire g.core .sys).trapWaiting gid lane w [(lane, f.1, f.2)]
  | .replied v, none => ((s.takeReply g lane handle r).acquire g.core .sys).resumeLane gid lane { regs := [(d, true, v)] }
  | _, none => s

/-- The stub that a wait names, if it is there still: a number is used again (R363). -/
def State.stubNamed (s : State) (n serial : Nat) : Option Stub := (s.stub n).filter fun x => x.serial == serial

/-- DPULL.wait: every tile named is pulled, or will never be (R370). -/
def State.endPulled (s : State) (g : Group) (gid lane n serial lo hi : Nat) (lost : Option DWord) : State :=
  match lost, s.stubNamed n serial with
  | some a, _ => s.parkWaiting g gid lane (g.guardedWaiters lane) .stubLost a
  | none, none => s.endBundle g gid lane true fun _ _ => {}
  | none, some x => if (x.missing lo hi).isNone then s.endBundle g gid lane true fun _ _ => {} else s

/-- DDROP: the pulls end, the pages become not valid; with the invalidation the stub is gone (R363, R369). -/
def State.endDropped (s : State) (g : Group) (gid lane n serial : Nat) : State :=
  match s.stubNamed n serial with
  | none => s.endBundle g gid lane true fun _ _ => {}
  | some x => if x.inval.isNone ∧ x.pulling.isEmpty then s.beginDrop n x else s

/-- What CKPT writes: all ones while checkpoints are off, else GEN (R417). -/
def State.genWord (s : State) (ctx : Nat) : DWord :=
  match Table.get s.ckp.ints ctx with
  | some x => if x.st = .off then allOnes else BitVec.ofNat 64 x.gen
  | none => allOnes

/-- CKPT.wait: GEN has reached the generation (R417). -/
def State.endCheckpoint (s : State) (g : Group) (gid lane : Nat) (want : DWord) : State :=
  let v := s.genWord (s.ctxOf g)
  let k0 := (g.guardedWaiters lane).headD lane
  if v.toNat < want.toNat ∧ (s.logged (s.ctxOf g) 7 (s.wid g k0) (g.lane k0).retired).isNone then s
  else
    let (s1, b) := s.settleResult g k0 (leBytes 8 v.toNat)
    s1.resumeAll gid lane fun _ w => match w.kind with
      | .checkpoint d _ => { regs := [(d, true, BitVec.ofNat 64 (leNat b))] }
      | _ => {}

/-- An answer as the replay log holds it. -/
def answerOf (b : List Byte) : Answer :=
  (BitVec.ofNat 32 (bytesField b 0 4), BitVec.ofNat 32 (bytesField b 4 4), bytesField b 8 1 == 1, none)

/-- The answers of a list of lanes, recorded or taken from the log. -/
def State.settleAnswers (s : State) (g : Group) : List (Nat × Iter) → State × List (Nat × Iter × Answer)
  | [] => (s, [])
  | (k, x) :: r =>
    let (s1, b) := s.settleResult g k (answerBytes (x.answer.getD (0, 0, false, none)))
    let (s2, as) := State.settleAnswers s1 g r
    (s2, (k, x, answerOf b) :: as)

/-- A sequence instruction has every answer: a fault of any lane traps the bundle, else results are written (R387, R389). -/
def State.endClove (s : State) (g : Group) (gid lane : Nat) (w : Wait) (inst : Nat) : State :=
  if !s.answered inst then s
  else
    let ks := g.guardedWaiters lane
    let its := ks.filterMap fun k => (s.iterFor inst k).map fun x => (k, x)
    let s0 := { s with clv := { s.clv with iters := s.clv.iters.filter fun p => p.2.inst != inst } }
    let fs := its.filterMap fun p => (p.2.answer.bind fun a => a.2.2.2).map fun f => (p.1, f.1, f.2)
    if !fs.isEmpty then s0.trapWaiting gid lane w fs
    else
      let (s1, as) := s0.settleAnswers g its
      s1.resumeAll gid lane fun k _ => match as.find? fun p => p.1 == k with
        | some (_, x, a) => x.eff a
        | none => {}

/-! ### The events -/

/-- The condition that a stalled lane waits for holds. Of a wait for the whole bundle, any of its lanes stands for all. -/
def execWaitSatisfied (gid lane : Nat) (s : State) : Out :=
  match s.waiting gid lane with
  | none => .next s
  | some (g, l, w) =>
    match w.kind with
    | .barrier b tok sc =>
      .next (if tokenDone (s.barrier g b).phase tok && !s.logDenies g lane true then
        (s.acquire g.core sc).endLane g gid lane true { preds := [(w.result, true)] } else s)
    | .monitor =>
      .next (if s.logGrants g lane true || (l.monitor.st == .fired && !s.logDenies g lane true) then
        s.endLane g gid lane true { preds := [(w.result, true)], upd := monitorIdle } else s)
    | .counter va target acq sc => .next (s.testCounter g gid lane va target acq sc w.met)
    | .tags _ mask every => .next (s.endTags g gid lane w mask every false)
    | .mwait n => .next (s.endMwait g gid lane w n)
    | .posting d base nargs left hs => .next (s.endPosting g gid lane d base nargs left hs)
    | .svcw d handle => .next (s.endSvcw g gid lane w d handle.toNat)
    | .drainSend before ports =>
      if !s.sentAll gid before then .next s
      else
        let (s1, first) := s.placeMarkers ports
        let sends (l : Lane) : Lane := match l.st with | .stalled w => { l with st := .stalled { w with kind := .drain first ports } } | _ => l
        .next (if s1.drained first ports.length && !s.logDenies g lane true then
          (s1.withdraw first ports.length).endBundle g gid lane true fun _ w => { preds := [(w.result, true)] }
        else s1.updGroup gid fun x => x.updLanes (g.waitersWith lane) sends)
    | .drain first ports =>
      .next (if s.drained first ports.length && !s.logDenies g lane true then
        (s.withdraw first ports.length).endBundle g gid lane true fun _ w => { preds := [(w.result, true)] } else s)
    | .pulled n serial lo hi lost => .next (s.endPulled g gid lane n serial lo hi lost)
    | .dropped n serial => .next (s.endDropped g gid lane n serial)
    | .checkpoint _ want => .next (s.endCheckpoint g gid lane want)
    | .clove inst => .next (s.endClove g gid lane w inst)
    | .arrive .. => .next s
    | .tile _ => .next s

/-- The limit of a wait has run out, and its condition does not hold: completion wins over expiry (R167, R170, R228, R343). -/
def execWaitLimitExpired (gid lane : Nat) (s : State) : Out :=
  match s.waiting gid lane with
  | none => .next s
  | some (g, l, w) =>
    let ended (live : Bool) : Bool := s.logGrants g lane false || (w.left == some 0 && !live && !s.logDenies g lane false)
    match w.kind with
    | .barrier b tok _ =>
      .next (if ended (tokenDone (s.barrier g b).phase tok) then s.endLane g gid lane false { preds := [(w.result, false)] } else s)
    | .monitor =>
      .next (if ended (l.monitor.st == .fired) then
        s.endLane g gid lane false { preds := [(w.result, false)], upd := monitorIdle } else s)
    | .tags _ mask every =>
      .next (if w.left == some 0 then s.endTags g gid lane w mask every true else s)
    | .drainSend _ _ =>
      .next (if ended false then s.endBundle g gid lane false fun _ w => { preds := [(w.result, false)] } else s)
    | .drain first ports =>
      .next (if ended (s.drained first ports.length) then
        (s.withdraw first ports.length).endBundle g gid lane false fun _ w => { preds := [(w.result, false)] } else s)
    | _ => .next s

end Sys2Proof.Machine
end

