-- ==== Sys2Proof/Machine/Context.lean ====
section
/-! DEFINITION. Machine/Context.lean: context commands, guardians and leases, events waiting for guardians, suspension, restore and
teardown (17_context.md, R298 to R309; 27_system.md, R422 to R424; 10_page.md, R210, R213; 20_link.md, R349). -/

namespace Sys2Proof.Machine

/-! ### Command pages and statuses (R300, R422) -/

def pageZero : CmdPage :=
  ⟨0, 0, 0, 0, 0, 0, 0, 0, 0, 0, 0, List.replicate 64 0, List.replicate 97 0, List.replicate 96 0⟩

def State.page (s : State) (host : Nat) : CmdPage := (Table.get s.ctx.pages host).getD pageZero

def State.setPage (s : State) (host : Nat) (p : CmdPage) : State :=
  { s with ctx := { s.ctx with pages := Table.set s.ctx.pages host p } }

def State.attached (s : State) (host : Nat) : Bool := (Table.get s.sys.hosts host).isSome

def State.context (s : State) (n : Nat) : Option Context := Table.get s.ctx.contexts n

def State.setContext (s : State) (n : Nat) (c : Context) : State :=
  { s with ctx := { s.ctx with contexts := Table.set s.ctx.contexts n c } }

def State.updContext (s : State) (n : Nat) (f : Context → Context) : State :=
  { s with ctx := { s.ctx with contexts := Table.upd s.ctx.contexts n f } }

/-- Run a host's command and put its status in CSTAT. Before bring-up has finished a command is refused by state (R423). -/
def State.command (s : State) (host : Nat) (f : State → CmdPage → State × Nat) : State :=
  if !s.attached host then s
  else
    let (t, st) := if s.sch.powered then f s (s.page host) else (s, 1)
    t.setPage host { t.page host with stat := BitVec.ofNat 64 st }

/-- A command on a context in use. -/
def State.onContext (s : State) (host ctx : Nat) (f : State → CmdPage → Context → State × Nat) : State :=
  s.command host fun s p => match s.context ctx with
    | some c => if c.st = .tornDown then (s, 1) else f s p c
    | none => (s, 1)

def Context.guards (c : Context) (host : Nat) : Bool := c.guardians.any fun g => g.host == host

/-- A command of a guardian. -/
def State.asGuardian (s : State) (host ctx : Nat) (f : State → CmdPage → Context → State × Nat) : State :=
  s.onContext host ctx fun s p c => if c.guards host then f s p c else (s, 2)

/-- The host that a command names in CARG. -/
def CmdPage.named (p : CmdPage) : Nat := field p.arg 2 0

/-! ### The context record (R298, R299) -/

/-- The copy of a record of 1,024 bytes. -/
def recordOf (b : List Byte) : Record :=
  { root := BitVec.ofNat 64 (bytesField b 0 8), callA := BitVec.ofNat 64 (bytesField b 8 8)
    saveA := BitVec.ofNat 64 (bytesField b 16 8), saveSz := BitVec.ofNat 64 (bytesField b 24 8)
    lease := bytesField b 32 4, olim := bytesField b 36 4, part := bytesField b 40 2, nadopt := bytesField b 42 2
    adopt := (List.range 8).map fun k => BitVec.ofNat 384 (bytesField b (64 + 48 * k) 48)
    dirty := bytesField b 44 20 != 0 || bytesField b 448 576 != 0 }

def leaseOk (n : Nat) : Bool := n == 0 || (decide (20 ≤ n) && decide (n ≤ 65535))

/-- Cores of a partition. -/
def State.partCores (s : State) (part : Nat) : Nat := 4 * (s.clusters part).length

/-- The conditions of R299. -/
def State.startable (s : State) (ctx : Nat) (r : Record) : Bool :=
  r.root != 0 && r.root.toNat % 32768 == 0 && s.rangeOk r.part r.root.toNat 32768 true &&
  r.saveA.toNat % 65536 == 0 && s.rangeOk r.part r.saveA.toNat r.saveSz.toNat true &&
  decide (1856 * 1024 * s.partCores r.part ≤ r.saveSz.toNat) && r.callA.toNat % 2 ^ 20 == 0 &&
  ((pieces r.callA.toNat (2 ^ 20)).all fun va => match s.walk ctx va with | .found t => t.cls == 0 && t.w | _ => false) &&
  leaseOk r.lease && decide (r.nadopt ≤ 8) && !r.dirty

/-- CREATE copies the record; nothing runs. -/
def execCreate (host ctx : Nat) (s : State) : Out :=
  .next (s.command host fun s p =>
    let a := p.arg.toNat
    let r := recordOf (s.load a 1024)
    if a % 1024 ≠ 0 ∨ !s.present a 1024 then (s, 6)
    else if (s.context ctx).isSome ∨ 4096 ≤ ctx ∨ 12 ≤ r.part ∨ !s.partEnabled r.part then (s, 1)
    else if !s.privileged host r.part then (s, 2)
    else
      let c : Context := ⟨r, host, .building, [], 0, Config.adoptionNonce s.sch.free, [], 0, false, false, [], [], []⟩
      (({ s with sch := { s.sch with free := s.sch.free + 1 } }).setContext ctx c, 0))

/-- START checks the record; the creator becomes the guardian. The first checkpoint interval is timed from here (R396). -/
def execStart (host ctx : Nat) (s : State) : Out :=
  .next (s.onContext host ctx fun s _ c =>
    if c.st ≠ .building then (s, 1)
    else if c.creator ≠ host then (s, 2)
    else if !s.startable ctx c.record then (s, 6)
    else
      let s1 := s.setContext ctx { c with st := .guarded, guardians := [⟨host, 0⟩] }
      ({ s1 with ckp := { s1.ckp with ints := Table.upd s1.ckp.ints ctx fun x => { x with clock := 0, work := 0, allDirty := true } } }, 0))

/-! ### Events waiting for a guardian (R309, R424) -/

/-- Write what waits in a context's queue to the rings that have room, in order. -/
def State.pump (s : State) (ctx : Nat) : State :=
  match s.context ctx with
  | none => s
  | some c =>
    c.events.foldl (fun t e => match e.2 with
      | none => t.queueEvent e.1 none
      | some h => (t.writeEvent h e.1).getD (t.queueEvent e.1 (some h))) (s.setContext ctx { c with events := [] })

def State.pumpAll (s : State) : State := s.ctx.contexts.foldl (fun t p => t.pump p.1) s

/-- Queued events that satisfy a test go to a host. -/
def Context.redirect (c : Context) (f : Option Nat → Bool) (host : Option Nat) : Context :=
  { c with events := c.events.map fun e => if f e.2 then (e.1, host) else e }

/-! ### Leases and guardians (R301, R302) -/

def execAddg (host ctx : Nat) (s : State) : Out :=
  .next (s.asGuardian host ctx fun s p c =>
    if !(c.st == .guarded || c.st == .shared) ∨ !s.attached p.named ∨ c.guards p.named then (s, 1)
    else if 3 ≤ c.guardians.length then (s, 5)
    else (s.setContext ctx { c with st := .shared, guardians := c.guardians ++ [⟨p.named, 0⟩] }, 0))

/-- Guardians change, or a suspension stops the reads of the rings: a queue whose next ring read meets the fault again asks again (R290). -/
def State.askAgain (s : State) (ctx : Nat) : State :=
  { s with ker := { s.ker with queues := s.ker.queues.map fun (p : Nat × Queue) => (p.1, if p.2.ctx = ctx then { p.2 with asked := false } else p.2) } }

/-- HANDOVER: the old host's pages keep class host; events that waited for it go to the new one. -/
def execHandover (host ctx : Nat) (s : State) : Out :=
  .next (s.asGuardian host ctx fun s p c =>
    if c.st ≠ .guarded ∨ !s.attached p.named ∨ c.guards p.named then (s, 1)
    else
      let c1 := ({ c with guardians := [⟨p.named, 0⟩] } : Context).redirect (· == some host) (some p.named)
      (((s.setContext ctx c1).pump ctx).askAgain ctx, 0))

/-- The leaves of a context's tables: virtual address and entry. -/
def State.leaves (s : State) : List (Nat × Nat) → Nat → Nat → List (DWord × Trans)
  | [], _, _ => []
  | (sh, n) :: r, table, base =>
    (List.range (2 ^ n)).flatMap fun k =>
      let ea := table + 8 * k
      let e : DWord := BitVec.ofNat 64 (s.mem.le ea 8)
      let va := base + k * 2 ^ sh
      if !e.getLsbD 0 then []
      else if e.getLsbD 1 then (if sh = 45 then [] else [(BitVec.ofNat 64 va, ⟨e, sh, ea⟩)])
      else s.leaves r (field e 51 7 * 128) va

/-- A host's pages in a context become lost, and the change is invalidated; accesses of them that are not yet acknowledged end
FAULTED (R210, R303). -/
def State.loseHost (s : State) (ctx host : Nat) : State :=
  let mine (t : Trans) : Bool := t.cls == 1 && t.num == host
  let s1 := ((s.leaves pageLevels (s.rootOf ctx) 0).filter fun x => mine x.2).foldl (fun t x => t.setClass x.2 7) s
  let s2 := s1.postInval ctx 0 0 none
  let hit (a : Access) : Bool := !a.sp && a.ctx == ctx && a.fault.isNone && a.st != .bound &&
    (match a.tr with | some t => mine t | none => false)
  { s2 with run := { s2.run with
    accs := s2.run.accs.map fun p => (p.1, if hit p.2 then { p.2 with fault := some .pageLost } else p.2) } }

/-- Call records that a host has claimed return to POSTED, and their events are sent again (R310). -/
def State.returnClaims (s : State) (ctx host : Nat) : State :=
  (List.range 256).foldl (fun t n => match t.callRec ctx n with
    | some r =>
      if r.st = 2 ∧ r.claimer = host then
        let detail : DWord := BitVec.ofNat 64 (n + r.gen * 256)
        ((t.setRec ctx n 4 [1, 0]).raise ctx 9 2 0 r.wid (t.recordVa ctx n) detail).raise ctx 2 0 0 r.wid (t.recordVa ctx n) detail
      else t
    | none => t) s

/-- A guardian leaves: by expiry or RELEASE. -/
def State.endGuardian (s : State) (ctx host : Nat) (c : Context) (expired : Bool) : State :=
  let gs := c.guardians.filter fun g => g.host != host
  let st := if c.st = .suspended then .suspended else match gs.length with | 0 => .orphaned | 1 => .guarded | _ => .shared
  let c1 : Context := { c with guardians := gs, st := st, orphan := if gs.isEmpty then 0 else c.orphan }
  let c2 := if gs.isEmpty then c1.redirect (fun _ => true) none
    else { c1 with events := c1.events.filter fun e => e.2 != some host }
  let s1 := (((s.setContext ctx c2).loseHost ctx host).returnClaims ctx host).askAgain ctx
  if expired then s1.raise ctx 9 1 0 0 0 0 else s1

def execRelease (host ctx : Nat) (s : State) : Out :=
  .next (s.asGuardian host ctx fun s _ c => (s.endGuardian ctx host c false, 0))

/-- A lease expires LEASE ms after its last start. -/
def State.expireLease (s : State) (ctx host : Nat) : State :=
  match s.context ctx with
  | none => s
  | some c => if c.guardians.any (fun g => g.host == host && decide (c.record.leaseNs ≤ g.age)) then s.endGuardian ctx host c true else s

def execLeaseExpiry (ctx host : Nat) (s : State) : Out := .next (s.expireLease ctx host)

/-! ### ADOPT and NONCE (R305) -/

/-- The message of an ADOPT of a context is well formed (R305, check 0). -/
def adoptMessageOk (ctx : Nat) (m : List Byte) : Bool :=
  bytesField m 0 4 == 0x54504441 && bytesField m 4 2 == ctx && bytesField m 7 1 == 0 && bytesField m 28 36 == 0 &&
  leaseOk (bytesField m 24 4)

/-- The checks of R305 in their order: the status of the first that fails, 0 if all hold. -/
def adoptCheck (host ctx : Nat) (p : CmdPage) (c : Context) : Nat :=
  let m := p.msg
  if !adoptMessageOk ctx m then 6
  else if !(c.st == .orphaned || (c.st == .suspended && c.guardians.isEmpty)) then 1
  else if !((c.record.adopt.take c.record.nadopt).contains (keyHash p.key)) then 2
  else if bytesField m 6 1 ≠ host then 2
  else if BitVec.ofNat 128 (bytesField m 8 16) ≠ c.nonce then 4
  else if !signatureHolds p.key m p.sig then 3
  else 0

def execNonce (host ctx : Nat) (s : State) : Out :=
  .next (s.onContext host ctx fun s p c => (s.setPage host { p with nonce := c.nonce }, 0))

/-! ### INVAL, EVRING, EVVEC and the ring's head (R213, R424) -/

def execInval (host ctx : Nat) (s : State) : Out :=
  .next (s.onContext host ctx fun s p c =>
    let ctr := p.invCtr.toNat
    let key := ctr / 8 * 8
    if !(c.guards host || s.privileged host c.record.part) then (s, 2)
    else if p.invVa.toNat % 65536 ≠ 0 ∨ p.invLen.toNat % 65536 ≠ 0 ∨ ctr / 2 % 4 ≠ 0 ∨
       (ctr % 2 = 0 ∧ !s.rangeOk c.record.part key 8 false) then (s, 6)
    else if 64 ≤ (s.mem.invals.filter fun v => v.2.part == c.record.part).length then (s, 5)
    else (s.postInval ctx p.invVa p.invLen (some (if ctr % 2 = 1 then hostKey host key else key)), 0))

def execEvring (host ctx : Nat) (s : State) : Out :=
  let _ := ctx
  .next (s.command host fun s p =>
    let log := field p.arg 4 0
    let base := p.arg &&& ~~~0xFFF#64
    if log < 6 ∨ 16 < log ∨ base.toNat % (64 * 2 ^ log) ≠ 0 then (s, 6)
    else ((s.setPage host { p with evBase := base, evLog := log, evHead := 0, evTail := 0 }).pumpAll, 0))

def execEvvec (host ctx : Nat) (s : State) : Out :=
  .next (s.asGuardian host ctx fun s p c =>
    if 2047 < p.arg.toNat then (s, 6) else (s.setContext ctx { c with vecs := Table.set c.vecs host p.arg.toNat }, 0))

def execEventRingHeadWrite (host : Nat) (v : DWord) (s : State) : Out :=
  .next (if s.attached host then (s.setPage host { s.page host with evHead := v }).pumpAll else s)

/-! ### Suspension (R306) -/

def execSuspend (host ctx : Nat) (s : State) : Out :=
  .next (s.asGuardian host ctx fun s _ c =>
    if c.st == .guarded || c.st == .shared then (s.beginSuspend ctx, 0) else (s, 1))

/-- Teams of a context. -/
def State.teamsOf (s : State) (ctx : Nat) : List (Nat × Team) :=
  s.run.teams.filter fun p => match Table.get s.ker.kernels p.2.kernel with | some k => k.ctx == ctx | none => false

/-- A team has nothing to save: its groups have retired, and no engine has work of it (R239, R262). -/
def State.workless (s : State) (team : Nat) (t : Team) : Bool :=
  t.retiring && !(s.eng.transfers.any fun p => p.2.team == team) && !(s.eng.tileOps.any fun p => p.2.team == team)

/-- Every team's record has been written. -/
def State.allSaved (s : State) (ctx : Nat) : Bool := (s.teamsOf ctx).all fun p => p.2.saved || s.workless p.1 p.2

def execSuspensionComplete (ctx : Nat) (s : State) : Out :=
  match s.context ctx with
  | none => .next s
  | some c => .next (if c.suspending ∧ s.allSaved ctx ∧ s.streamsAtBoundary ctx then
      (s.saveStreams ctx).setContext ctx { c with suspending := false } else s)

/-- The queues of a resumed context take up their states; an overrun meanwhile is found (R290). -/
def State.resumeQueues (s : State) (ctx : Nat) : State :=
  s.ker.queues.foldl (fun t p =>
    if p.2.ctx = ctx ∧ p.2.st = .suspended then (t.setQueue p.1 { p.2 with st := p.2.prior }).overrun p.1 else t) s

/-- The place of a save record in its context's pool, in units of 64 bytes: a free value, but apart from those of every other record
(R306; log 14). -/
def State.saveSlot (s : State) (r : Record) (id : Nat) : Nat :=
  match Table.get s.ctx.slots id with
  | some n => n
  | none =>
    let n := r.saveSz.toNat / 64
    let first := (Config.saveOffset id).toNat % n
    let used := s.ctx.slots.map (·.2)
    (((List.range (used.length + 1)).map fun k => (first + k) % n).find? fun k => !used.contains k).getD first

/-- Take the place of a save record. -/
def State.takeSlot (s : State) (r : Record) (id : Nat) : State :=
  { s with ctx := { s.ctx with slots := Table.set s.ctx.slots id (s.saveSlot r id) } }

def State.freeSlot (s : State) (id : Nat) : State := { s with ctx := { s.ctx with slots := Table.del s.ctx.slots id } }

/-- The header of a group's save record. -/
def State.saveHeader (s : State) (r : Record) (g : Group) : SaveHeader :=
  let low := g.lane (lowest g.parkedMask)
  let parked := g.parkedMask != 0
  { wid := s.wid g 0, live := g.liveMask, parked := g.parkedMask, fcode := if parked then low.fcode else 0
    flags := g.headerFlags.setWidth 32, faddr := if parked then low.faddr else 0
    team := BitVec.ofNat 64 (64 * s.saveSlot r g.team) }

def SaveHeader.bytes (h : SaveHeader) : List Byte :=
  leBytes 8 h.wid.toNat ++ leBytes 8 h.live.toNat ++ leBytes 8 h.parked.toNat ++ leBytes 4 h.fcode.toNat ++ leBytes 4 h.flags.toNat ++
  leBytes 8 h.faddr.toNat ++ leBytes 8 h.team.toNat ++ List.replicate 16 0

/-- The header of a group's save record takes its place, and stands there in memory (R306). -/
def State.writeHeader (s : State) (r : Record) (gid : Nat) (g : Group) : State :=
  let s0 := (s.takeSlot r g.team).takeSlot r gid
  let h := s0.saveHeader r g
  let s1 := { s0 with ctx := { s0.ctx with headers := Table.set s0.ctx.headers gid h } }
  if r.saveSz.toNat < 64 then s1 else s1.store (r.saveA.toNat + 64 * s0.saveSlot r gid) h.bytes

/-- Write a group's save record: its header, and the rest in the group itself (R306). -/
def State.saveGroup (s : State) (r : Record) (gid : Nat) (g : Group) : State :=
  (s.writeHeader r gid g).setGroup gid
    { g.leaving s with st := .saved (g.st == .parked), flags := g.flags ||| 1, bundles := [], only := 0 }

/-- A team's outstanding work that a save waits for: accesses, results on the way, a transfer within a unit, operations that tiles have
started, answers of Clove, a QPOST that has its lock, a group in transit, and stores of other groups that its groups have read from the
buffer (R177, R239, R262, R297, R306, R327, R350). -/
def State.teamSettled (s : State) (team : Nat) (t : Team) : Bool :=
  !(s.run.accs.any fun p => p.2.team == team) && !(s.run.pend.any fun p => t.groups.contains p.2.gid) &&
  !(s.eng.transfers.any fun p => p.2.team == team && p.2.unitOpen) &&
  !(s.eng.tileOps.any fun p => p.2.team == team && p.2.started) &&
  !(s.clv.iters.any fun p => t.groups.contains p.2.gid) &&
  !(s.ker.queues.any fun p => s.locked p.2 && (match p.2.lock with | some x => x.1 == team | none => false)) &&
  t.groups.all fun gid => match s.group gid with | some g => g.st != .inTransit && s.observedDone g s.sch.nextId | none => true

/-- The engines' work for a saved team: its transfers stop at a unit boundary, its tile operations stay as descriptors, and neither holds an
entry of the core's queues (R239, R262). -/
def State.saveWork (s : State) (team : Nat) : State :=
  let drop (x : TileOp) : TileOp := { x with core := Config.cores, got := [] }
  { s with eng := { s.eng with
    transfers := s.eng.transfers.map fun (p : Nat × Transfer) => (p.1, if p.2.team = team then p.2.save else p.2)
    tileOps := s.eng.tileOps.map fun (p : Nat × TileOp) => (p.1, if p.2.team = team then drop p.2 else p.2) } }

/-- At restore the work is queued again, on the engines of the team's core, behind what stands there. -/
def State.restoreWork (s : State) (team core : Nat) : State :=
  let (mine, rest) := s.eng.transfers.partition fun p => p.2.team == team
  { s with eng := { s.eng with
    transfers := rest ++ mine.map fun (p : Nat × Transfer) => (p.1, { p.2 with core := core })
    tileOps := s.eng.tileOps.map fun (p : Nat × TileOp) => (p.1, if p.2.team = team then { p.2 with core := core } else p.2) } }

/-- The scheduler pre-empts a team: it issues no more, and once its work has ended its groups are saved, and what the engines still have to do
of it, a team whose groups have retired included. -/
def execTeamPreempt (team : Nat) (s : State) : Out :=
  match Table.get s.run.teams team, (Table.get s.run.teams team).bind fun t => Table.get s.ker.kernels t.kernel with
  | some t, some k =>
    if t.saved ∨ s.workless team t then .next s
    else if !s.teamSettled team t then .next (s.setTeam team { t with stopping := true })
    else match s.context k.ctx with
      | none => .next s
      | some c =>
        let s1 := t.groups.foldl (fun x gid => match x.group gid with | some g => x.saveGroup c.record gid g | none => x) s
        .next ((s1.saveWork team).setTeam team { t with saved := true, stopping := false, regs := [] })
  | _, _ => .next s

/-! ### Restore and landing (R143, R171, R176, R327, R343, R349) -/

/-- A parked lane goes on: at a PC, or with PC 0 where it stands, which after an imprecise fault is its region entry, whose TGT bit is
checked (R58, R98, R309). -/
def Lane.unpark (l : Lane) (pc : DWord) : Lane :=
  if l.st = .parked then Lane.arrive { l with st := .running, reenter := l.reenter && pc == 0 } (if pc = 0 then l.pc else pc) else l

/-- Parked lanes go on. -/
def Group.unpark (g : Group) (pc : DWord) : Group :=
  let woken := g.lanes.map fun l => l.unpark pc
  ({ g with lanes := woken, st := match g.st with | .parked => .resident | .saved _ => .saved false | x => x, debugParked := false,
            saveFlags := 0 } : Group).settle

/-- Resume a parked group. A debug-parked group passes the debugger once at the PCs where it stands (R414). -/
def State.resumeParked (s : State) (gid : Nat) (g : Group) (pc : DWord) : State :=
  let ctx := s.ctxOf g
  let goes (x : Interval) : Bool := x.st == .stopped && x.stopped == some gid
  let s1 := if (match Table.get s.ckp.ints ctx with | some x => goes x | none => false) then s.setDbg (s.partOf ctx) 0x58 1 else s
  let s2 : State := { s1 with ckp := { s1.ckp with
    passed := if pc = 0 then s1.ckp.passed else s1.ckp.passed.filter fun x => x.1 != gid
    ints := Table.upd s1.ckp.ints ctx fun x => if goes x then { x with st := .replaying, stopped := none } else x } }
  s2.setGroup gid (g.unpark pc)

/-- Resume the marked groups of a context that a suspension has not saved, and forget their marks (R309). -/
def State.resumeMarked (s : State) (ctx : Nat) : State :=
  match s.context ctx with
  | none => s
  | some c => c.marked.foldl (fun t m => match t.group m.1 with
    | some g => if g.st = .parked then
        (t.resumeParked m.1 g m.2).updContext ctx fun c => { c with marked := Table.del c.marked m.1 } else t
    | none => t) s

/-- Chain channels go on, unless the context is suspended or comes to a checkpoint boundary (R234, R239). -/
def State.chansGo (s : State) (ctx : Nat) : State := if s.streamsStopped ctx then s else s.mapChans ctx Channel.unsave

/-- RESUME: groups, queues, streamer work and chain channels resume; saved teams are restored as there is room. -/
def execResume (host ctx : Nat) (s : State) : Out :=
  .next (s.asGuardian host ctx fun s _ c =>
    if c.st ≠ .suspended then (s, 1)
    else
      let c1 : Context := { c with st := if c.guardians.length = 1 then .guarded else .shared, suspending := false }
      let mine := (s.teamsOf ctx).map (·.1)
      let teams := s.run.teams.map fun (p : Nat × Team) => (p.1, if mine.contains p.1 then { p.2 with stopping := false } else p.2)
      let s1 : State := { s with run := { s.run with teams := teams } }
      ((((s1.setContext ctx c1).resumeQueues ctx).chansGo ctx).resumeMarked ctx, 0))

/-- Stalled lanes stand in bundles again, by PC. -/
def Group.waitBundles (g : Group) : List Bundle :=
  let ks := (List.range g.width).filter fun k => match (g.lane k).st with | .stalled _ => true | _ => false
  let pcs := (ks.map fun k => (g.lane k).pc).eraseDups
  pcs.map fun pc => ⟨laneMask (ks.filter fun k => (g.lane k).pc == pc), 0, none, false⟩

/-- An armed monitor reads its address again (R171). -/
def State.rearm (s : State) (gid : Nat) : State :=
  match s.group gid with
  | none => s
  | some g =>
    let fire (l : Lane) : Lane := if s.monitorDiffers g l then { l with monitor := { l.monitor with st := .fired } } else l
    s.setGroup gid { g with lanes := g.lanes.map fire }

/-- The markers of waiting DRAINs are placed again (R343). -/
def State.redrain (s : State) (gid : Nat) : State :=
  match s.group gid with
  | none => s
  | some g =>
    let ds := (g.lanes.filterMap fun l => match l.st with
      | .stalled w => (match w.kind with | .drain a n => some (a, n) | _ => none)
      | _ => none).eraseDups
    ds.foldl (fun t d =>
      let (u, a) := (t.withdraw d.1 d.2.length).placeMarkers d.2
      u.updGroup gid fun g => { g with lanes := g.lanes.map fun l => match l.st with
        | .stalled w => if w.kind = .drain d.1 d.2 then { l with st := .stalled { w with kind := .drain a d.2 } } else l
        | _ => l }) s

/-- A saved wait is evaluated anew (R176). -/
def Lane.renewWait (l : Lane) : Lane := match l.st with | .stalled w => { l with st := .stalled { w with met := false } } | _ => l

/-- The service that a parked group waits for has been given: the pages that its lanes faulted on are there, and none of its lanes is parked
for another reason (R309, R316). The manual says that such a group resumes at restore; which faults are meant is read from R230 (DEDUCED,
log 84). -/
def State.serviceGiven (s : State) (ctx : Nat) (g : Group) : Bool :=
  let ks := maskLanes g.parkedMask
  let served (l : Lane) : Bool := l.fcode.toNat == Code.pageNotPresent.num || l.fcode.toNat == Code.pageLost.num
  let fs := (ks.filter fun k => served (g.lane k)).map fun k => (g.lane k).faddr
  g.saveFlags &&& 0b101 == 0 && !g.debugParked && !fs.isEmpty && (ks.all fun k => (g.lane k).fcode == 0 || served (g.lane k)) && fs.all fun a =>
    match s.translate ctx .load a with | .error c => !c.serviced | .ok _ => true

/-- Seat a group on a core: monitors, waits, meetings, resumption where it is marked or its service has been given, markers; then it
acquires at device scope. How long it counts as not having issued on its new quadrant R148 does not say: since its last issue on the old
one (DESIGN CHOICE, log 80). -/
def State.seat (s : State) (ctx gid : Nat) (core quad slot : Nat) (st : GroupState) : State :=
  match s.group gid with
  | none => s
  | some g =>
    let g1 : Group := { g with
      core := core, quad := quad, slot := slot, st := st, bundles := g.waitBundles, lanes := g.lanes.map Lane.renewWait }
    let s1 := (s.setGroup gid g1).rearm gid
    let s2 := s1.updGroup gid Group.settle
    let mark := match (s2.context ctx).bind fun c => Table.get c.marked gid with
      | some pc => some pc
      | none => if st = .parked ∧ s2.serviceGiven ctx g then some 0 else none
    let s3 : State := match mark, s2.group gid with
      | some pc, some x => (s2.resumeParked gid x pc).updContext ctx fun c => { c with marked := Table.del c.marked gid }
      | _, _ => s2
    ((s3.freeSlot gid).redrain gid).acquire core .dev

/-- A saved team is restored on a core of its partition with room, its groups in the named quadrants. -/
def execTeamRestore (team core : Nat) (quads : List Nat) (s : State) : Out :=
  match Table.get s.run.teams team, (Table.get s.run.teams team).bind fun t => Table.get s.ker.kernels t.kernel with
  | some t, some k =>
    let h : Header := { k.hdr with xs := t.groups.length :: k.hdr.xs.drop 1 }
    if !t.saved ∨ !s.dispatches k.ctx ∨ !(s.clusters k.part).contains (core / 4) ∨ s.teamRoom core h < 1 ∨ !s.quadsOk core h quads then
      .next s
    else
      let slots := s.freeSlots core
      let s1 := ((s.restoreWork team core).freeSlot team).setTeam team { t with saved := false, core := core }
      let s2 := (List.range t.groups.length).foldl (fun x j =>
        let gid := t.groups.getD j 0
        let st := match x.group gid with | some g => (match g.st with | .saved true => .parked | _ => .resident) | none => GroupState.resident
        x.seat k.ctx gid core (quads.getD j 0) (slots.getD j 0) st) s1
      .next (s2.recheck team)
  | _, _ => .next s

/-- A group in transit lands on its core. -/
def execMigrateLand (gid core quad : Nat) (s : State) : Out :=
  match s.group gid with
  | none => .next s
  | some g =>
    .next (if g.st = .inTransit ∧ g.core = core ∧ g.quad = quad then s.seat (s.ctxOf g) gid core quad g.slot .resident else s)

/-- RESUMEG: at once in GUARDED and SHARED; in SUSPENDED the group is marked. -/
def execResumeg (host ctx : Nat) (s : State) : Out :=
  .next (s.asGuardian host ctx fun s p c =>
    let named := (s.groupsOf ctx).find? fun x => s.wid x.2 0 == p.arg &&
      (match x.2.st with | .parked => true | .saved b => b | _ => false)
    match named with
    | none => (s, 1)
    | some (gid, g) =>
      if c.st == .guarded || c.st == .shared then
        (s.resumeParked gid g p.arg2, 0)
      else if c.st = .suspended then (s.setContext ctx { c with marked := Table.set c.marked gid p.arg2 }, 0)
      else (s, 1))

/-! ### Teardown (R307) -/

/-- Work of the context that is discarded: groups, teams, kernels, accesses not yet performed, transfers, streams, tiles, channels,
walks, queues. -/
def State.discard (s : State) (ctx : Nat) : State :=
  let gids := (s.groupsOf ctx).map (·.1)
  let teams := (s.teamsOf ctx).map (·.1)
  let kernel (k : Nat) : Bool := match Table.get s.ker.kernels k with | some x => x.ctx == ctx | none => false
  { s with
    run := { s.run with
      groups := s.run.groups.filter fun p => !gids.contains p.1
      teams := s.run.teams.filter fun p => !teams.contains p.1
      accs := s.run.accs.filter fun p => p.2.ctx != ctx || p.2.st == .performed
      pend := s.run.pend.filter fun p => !gids.contains p.2.gid }
    eng := { s.eng with
      transfers := s.eng.transfers.filter fun p => p.2.ctx != ctx
      streams := s.eng.streams.filter fun p => p.2.ctx != ctx
      channels := s.eng.channels.map fun p => (p.1, if p.2.ctx = ctx then chanIdle else p.2)
      tileOps := s.eng.tileOps.filter fun p => !teams.contains p.2.team }
    ker := { s.ker with
      kernels := s.ker.kernels.filter fun p => p.2.ctx != ctx
      queues := s.ker.queues.map fun p => (p.1,
        if p.2.ctx = ctx then { p.2 with
          cfg := p.2.cfg &&& ~~~0x80#64, st := .disabled, rd := p.2.wr, record := none, deficit := min p.2.deficit 0 } else p.2)
      records := s.ker.records.filter fun p => !kernel p.1 }
    mem := { s.mem with
      l1 := s.mem.l1.filter fun x => !(x.ro && kernel x.kernel)
      roCopies := s.mem.roCopies.filter fun x => !kernel x.kernel
      tlb := s.mem.tlb.filter fun e => e.ctx != ctx
      walks := s.mem.walks.filter fun w => w.2.ctx != ctx }
    ctx := { s.ctx with
      headers := s.ctx.headers.filter fun p => !gids.contains p.1
      slots := s.ctx.slots.filter fun p => !gids.contains p.1 && !teams.contains p.1 }
    sch := { s.sch with latch := s.sch.latch.filter fun p => !gids.contains p.1 }
    ckp := { s.ckp with
      ints := Table.del s.ckp.ints ctx
      regs := Table.upd s.ckp.regs ctx fun r => { r with ctl := r.ctl &&& ~~~1#64 }
      passed := s.ckp.passed.filter fun p => !gids.contains p.1 } }

/-- Tear a context down. -/
def State.tear (s : State) (ctx : Nat) (c : Context) : State :=
  (((s.tearClove ctx).tearSumac ctx).discard ctx).setContext ctx
    { c with st := .tornDown, tearing := true, guardians := [], events := [], marked := [], suspending := false }

def execTeardown (host ctx : Nat) (s : State) : Out :=
  .next (s.onContext host ctx fun s _ c =>
    if c.guards host || s.privileged host c.record.part then (s.tear ctx c, 0) else (s, 2))

/-- The orphan clock reaches OLIM. -/
def State.reachLimit (s : State) (ctx : Nat) : State :=
  match s.context ctx with
  | none => s
  | some c =>
    match c.record.limitNs with
    | some n => if (c.st == .orphaned || (c.st == .suspended && c.guardians.isEmpty)) ∧ n ≤ c.orphan then s.tear ctx c else s
    | none => s

def execOrphanLimit (ctx : Nat) (s : State) : Out := .next (s.reachLimit ctx)

/-- Teardown ends once the accesses that had been performed are acknowledged: the number is free again. -/
def execTeardownComplete (ctx : Nat) (s : State) : Out :=
  match s.context ctx with
  | none => .next s
  | some c =>
    .next (if c.tearing ∧ !(s.run.accs.any fun p => p.2.ctx == ctx) then
      { s with ctx := { s.ctx with contexts := Table.del s.ctx.contexts ctx } } else s)

/-! ### RENEW and ADOPT: what expires in the same nanosecond comes first (R301, R302) -/

/-- The leases of a context that have run out, and its orphan limit if reached, are applied. -/
def State.limitsFirst (s : State) (ctx : Nat) : State :=
  match s.context ctx with
  | none => s
  | some c => (c.guardians.foldl (fun t g => t.expireLease ctx g.host) s).reachLimit ctx

/-- RENEW restarts the lease, unless it has run out. -/
def execRenew (host ctx : Nat) (s : State) : Out :=
  .next ((s.limitsFirst ctx).asGuardian host ctx fun s _ c =>
    (s.setContext ctx { c with guardians := c.guardians.map fun g => if g.host = host then { g with age := 0 } else g }, 0))

/-- ADOPT. A new nonce is drawn whether it succeeds or not; a failure is recorded in Glen's log, for a context number that is not in use
too (log 15). -/
def execAdopt (host ctx : Nat) (s : State) : Out :=
  .next ((s.limitsFirst ctx).command host fun s p =>
    match s.context ctx with
    | none =>
      let st := if adoptMessageOk ctx p.msg then 1 else 6
      (s.glen 5 st (BitVec.ofNat 64 ctx), st)
    | some c =>
      let st := adoptCheck host ctx p c
      let s1 := { s with sch := { s.sch with free := s.sch.free + 1 } }
      let c1 : Context := { c with nonce := Config.adoptionNonce s.sch.free }
      if st ≠ 0 then ((s1.setContext ctx c1).glen 5 st (BitVec.ofNat 64 ctx), st)
      else
        let lease := bytesField p.msg 24 4
        let c2 : Context := { c1 with
          guardians := [⟨host, 0⟩], st := if c.st = .orphaned then .guarded else c.st, orphan := 0
          record := if lease = 0 then c.record else { c.record with lease := lease } }
        (((s1.setContext ctx (c2.redirect (· == none) (some host))).pump ctx).askAgain ctx, 0))

end Sys2Proof.Machine
end

