-- ==== Sys2Proof/Machine/Checkpoint.lean ====
section
/-! DEFINITION. Machine/Checkpoint.lean: boundaries, snapshots, commit, restore, replay and CKPT (26_checkpoint_debug.md, R394 to
R412, R417). -/

namespace Sys2Proof.Machine

/-! ### Registers and the job (R394) -/

def ckZero : CkRegs := ⟨0, 0, 0, 0, 0, 0, 0, 0⟩

def State.ck (s : State) (ctx : Nat) : CkRegs := (Table.get s.ckp.regs ctx).getD ckZero

def State.setCk (s : State) (ctx : Nat) (r : CkRegs) : State := { s with ckp := { s.ckp with regs := Table.set s.ckp.regs ctx r } }

def State.int (s : State) (ctx : Nat) : Option Interval := Table.get s.ckp.ints ctx

def State.setInt (s : State) (ctx : Nat) (x : Interval) : State := { s with ckp := { s.ckp with ints := Table.set s.ckp.ints ctx x } }

def CkRegs.en (r : CkRegs) : Bool := r.ctl.getLsbD 0
def CkRegs.byWork (r : CkRegs) : Bool := r.ctl.getLsbD 1
def CkRegs.logs (r : CkRegs) : Bool := r.ctl.getLsbD 2
def CkRegs.keep (r : CkRegs) : Nat := Nat.max 1 (field r.ctl 23 22)
def CkRegs.period (r : CkRegs) : Nat := field r.ctl 63 32
def CkRegs.jobId (r : CkRegs) : Nat := field r.job 63 32

/-- MEMBERS in ascending order. -/
def CkRegs.members (r : CkRegs) : List Nat := (List.range 16).filter fun f => r.job.getLsbD f

def CkRegs.ndev (r : CkRegs) : Nat := r.members.length

/-- This device's rank in a context's job. -/
def State.rank (s : State) (ctx : Nat) : Nat := ((s.ck ctx).members.filter fun f => decide (f < s.lnk.fdev)).length

/-- A trace record of a boundary: 0 cut, 1 commit, 2 discard (R415). -/
def State.traceBoundary (s : State) (ctx sub gen : Nat) : State :=
  s.trace ctx (traceBytes 3 sub ctx 0 (s.sch.time 8) 0 0 0 (BitVec.ofNat 64 gen) 0)

/-- DIR: the reserve offset of the first directory unit of GEN; of a generation that has none, the spec states none (log 93). -/
def Interval.directory (x : Interval) : DWord :=
  match x.units.find? fun u => u.gen == x.gen && !u.parity && u.granules.isEmpty with
  | some u => BitVec.ofNat 64 (u.slot * 2 ^ 20)
  | none => Config.directoryOffset x.gen

/-- The checkpoint root (R401). -/
def State.writeRoot (s : State) (ctx : Nat) (x : Interval) : State :=
  let r := s.ck ctx
  s.store r.root.toNat (leBytes 8 x.gen ++ leBytes 8 x.prep ++ leBytes 8 x.tcut.toNat ++ leBytes 4 r.jobId ++
    leBytes 2 (field r.job 15 0) ++ leBytes 2 0 ++ leBytes 8 x.directory.toNat ++ leBytes 8 x.flashGen ++ leBytes 16 0)

/-! ### EN (R395, R406) -/

def intervalZero : Interval where
  st := .running
  number := 0
  begun := 0
  prep := 0
  gen := 0
  tcut := 0
  flashGen := 0
  drained := []
  prepared := []
  acked := []
  instant := none
  allDirty := true
  dirty := []
  marked := []
  clock := 0
  work := 0
  wait := 0
  logs := [(0, [])]
  snaps := []
  parity := []
  stop := none
  replay := []
  out := false
  asked := false
  fence := none
  logAt := 0
  toLog := []
  units := []
  written := 0
  unacked := []
  drain := none
  made := []
  remade := []
  reached := []
  stopped := none

/-- The reserves and log areas of other contexts. -/
def State.otherReserves (s : State) (ctx : Nat) : List (Nat × Nat) :=
  s.ckp.regs.flatMap fun p =>
    if p.1 ≠ ctx ∧ p.2.en then [(p.2.res.toNat, p.2.resSz.toNat), (p.2.log.toNat, p.2.logSz.toNat)] else []

/-- The conditions for EN. -/
def State.ckptOk (s : State) (ctx : Nat) (c : Context) (r : CkRegs) : Bool :=
  let part := c.record.part
  let clear (b n : Nat) : Bool := (s.otherReserves ctx).all fun x => !overlap b n x.1 x.2
  (c.st == .building || c.st == .guarded || c.st == .shared) &&
  r.res.toNat % 2 ^ 20 == 0 && r.resSz.toNat % 2 ^ 20 == 0 && r.root.toNat % 64 == 0 && r.log.toNat % 65536 == 0 &&
  r.logSz.toNat % 65536 == 0 && s.rangeOk part r.res.toNat r.resSz.toNat true && s.rangeOk part r.root.toNat 64 false &&
  s.rangeOk part r.log.toNat r.logSz.toNat true && clear r.res.toNat r.resSz.toNat && clear r.log.toNat r.logSz.toNat &&
  r.members.contains s.lnk.fdev && (s.lnk.fen || r.members == [s.lnk.fdev]) && (!r.logs || decide (2 ^ 20 ≤ r.logSz.toNat))

/-- Setting EN. -/
def execCheckpointEnable (host ctx : Nat) (ctl : DWord) (s : State) : Out :=
  match s.context ctx with
  | none => .next s
  | some c =>
    let r := s.ck ctx
    let y := { r with ctl := ctl &&& 0xFFFFFFFF00C00006#64 }
    if !s.privileged host c.record.part ∨ r.en then .next s
    else if s.ckptOk ctx c y then
      .next ((s.setCk ctx { y with ctl := y.ctl ||| 1, cmd := 0 }).setInt ctx intervalZero)
    else .next ((s.setCk ctx y).glen 6 1 (BitVec.ofNat 64 ctx))

/-- A boundary is in progress: it has begun and is not yet committed or discarded. -/
def Interval.busy (x : Interval) : Bool :=
  x.st == .quiescing || x.st == .snapshot || (x.st == .running && x.instant.isSome)

/-- Clearing EN waits for a boundary in progress; then units and logs are freed. -/
def execCheckpointDisable (host ctx : Nat) (s : State) : Out :=
  match s.context ctx, s.int ctx with
  | some c, some x =>
    if !s.privileged host c.record.part then .next s
    else if x.busy then .next { s with sch := { s.sch with held := s.sch.held ++ [.checkpointOff host ctx] } }
    else
      .next { s with ckp := { s.ckp with
        regs := Table.upd s.ckp.regs ctx fun r => { r with ctl := r.ctl &&& ~~~1#64 }
        ints := Table.del s.ckp.ints ctx } }
  | _, _ => .next s

/-! ### A boundary begins (R396) -/

/-- The length of a log record, and its bytes (R409). -/
def LogRec.length (r : LogRec) : Nat := Nat.max 32 ((24 + r.data.length + 15) / 16 * 16)

def LogRec.bytes (r : LogRec) : List Byte :=
  leBytes 1 r.type ++ leBytes 1 r.size ++ leBytes 2 r.length ++ leBytes 4 r.aux ++ leBytes 8 r.wid.toNat ++ leBytes 8 r.rcnt.toNat ++
  r.data ++ List.replicate (r.length - 24 - r.data.length) 0

/-- Bytes left in the log area. -/
def State.logLeft (s : State) (ctx : Nat) (x : Interval) : Nat :=
  (s.ck ctx).logSz.toNat - (x.logs.map fun l => (l.2.map LogRec.length).sum).sum

/-- Has the interval reached its length, or the log area its end. -/
def State.boundaryDue (s : State) (ctx : Nat) (x : Interval) : Bool :=
  let r := s.ck ctx
  let n := r.period
  (if r.byWork then decide ((if n = 0 then 1024 else n) * 2 ^ 20 ≤ x.work) else decide ((if n = 0 then 10000 else n) * 1000 ≤ x.clock)) ||
  (r.logs && decide (s.logLeft ctx x < 65536))

/-- The oldest record that is not in the log area yet is written there: the area is a ring in which the held logs stand one after the other, and
a record that it has no room for is never written (R408; the places are the model's choice, log 93). -/
def execLogWrite (ctx : Nat) (s : State) : Out :=
  match s.int ctx with
  | none => .next s
  | some x =>
    match x.toLog with
    | [] => .next s
    | r :: rest =>
      let c := s.ck ctx
      let size := c.logSz.toNat
      let held := (x.logs.map fun l => (l.2.map LogRec.length).sum).sum - (rest.map LogRec.length).sum
      if size < held ∨ size = 0 then .next (s.setInt ctx { x with toLog := rest })
      else
        let b := r.bytes
        let here := b.take (size - x.logAt)
        let s1 := s.setInt ctx { x with toLog := rest, logAt := (x.logAt + b.length) % size }
        let s2 := s1.store (c.log.toNat + x.logAt) here
        .next (if here.length = b.length then s2 else s2.store c.log.toNat (b.drop here.length))

/-- Begin a boundary unless one has begun and not yet reached its cut: every member quiesces 200 µs later. In SNAPSHOT it waits. -/
def State.begin (s : State) (ctx : Nat) (x : Interval) : State :=
  if x.instant.isSome ∨ !(x.st == .running || x.st == .snapshot) then s
  else (s.setInt ctx { x with begun := x.number.toNat + 1, instant := some (s.sch.time 8 + 200000) }).count ctx 19 1

/-- A boundary is wanted: rank 0 begins it, and another member asks rank 0 (R396, R417). -/
def State.want (s : State) (ctx : Nat) (x : Interval) : State :=
  if s.rank ctx = 0 then s.begin ctx x
  else if x.instant.isSome ∨ x.out ∨ !(x.st == .running || x.st == .snapshot) then s
  else s.setInt ctx { x with asked := true }

/-- Rank 0 begins a boundary that is due; another member asks for one when its log area is full. -/
def execBoundaryBegin (ctx : Nat) (s : State) : Out :=
  match s.int ctx, s.context ctx with
  | some x, some c =>
    .next (if c.st ≠ .building ∧ x.st = .running ∧
        (if s.rank ctx = 0 then s.boundaryDue ctx x else (s.ck ctx).logs && decide (s.logLeft ctx x < 65536)) then s.want ctx x else s)
  | _, _ => .next s

/-- Another member's request reaches rank 0 (R396). -/
def execBoundaryRequest (ctx rank : Nat) (s : State) : Out :=
  match s.int ctx with
  | some x => .next (if s.rank ctx = 0 ∧ rank ≠ 0 ∧ rank < (s.ck ctx).ndev then s.begin ctx x else s)
  | none => .next s

/-- Another member takes the instant that rank 0 has sent. -/
def execBoundaryInstantReceipt (ctx : Nat) (t : DWord) (s : State) : Out :=
  match s.int ctx with
  | some x =>
    .next (if (x.st = .running ∨ x.st = .snapshot) ∧ s.rank ctx ≠ 0 ∧ x.instant.isNone ∧ !x.out then
      (s.setInt ctx { x with begun := x.number.toNat + 1, instant := some t, asked := false }).count ctx 19 1 else s)
  | none => .next s

/-- The instant comes with rank 0's registers: a member whose JOBID, MEMBERS, MODE, PERIOD or KEEP differ reports it, and takes no part until
privileged software has cleared EN and put them right (R395). -/
def execInstant (ctx : Nat) (t ctl job : DWord) (s : State) : Out :=
  match s.int ctx with
  | none => .next s
  | some x =>
    if s.rank ctx = 0 ∨ x.out then .next s
    else if ((s.ck ctx).ctl ^^^ ctl) &&& 0xFFFFFFFF00C00002 ≠ 0 ∨ (s.ck ctx).job ≠ job then
      .next ((s.setInt ctx { x with out := true, asked := false }).glen 6 2 (BitVec.ofNat 64 ctx))
    else execBoundaryInstantReceipt ctx t s

/-- REQ of CKCMD. In a job only rank 0 decides: elsewhere the request goes to it. -/
def execReq (host ctx : Nat) (s : State) : Out :=
  match s.context ctx, s.int ctx with
  | some c, some x =>
    if !s.privileged host c.record.part then .next s
    else
      let s1 := s.want ctx x
      .next (s1.setCk ctx { s1.ck ctx with cmd := 2 })
  | _, _ => .next s

/-- At the instant the member quiesces: dispatch, the streamer and chain channels stop, groups are pre-empted (R239, R397 step 1). -/
def execQuiesce (ctx : Nat) (s : State) : Out :=
  match s.int ctx with
  | some x =>
    (match x.instant with
    | some t =>
      .next (if x.st = .running ∧ t.toNat ≤ (s.sch.time 8).toNat then
        (s.mapChans ctx Channel.save).setInt ctx { x with st := .quiescing, wait := 0, drained := [], prepared := [], acked := [], fence := none }
        else s)
    | none => .next s)
  | none => .next s

/-- Steps 1 and 2 have ended on this member: every team saved, every access and exit record ended, the streamer's work at its boundary, the
ending interval's log written. -/
def State.fenced (s : State) (ctx : Nat) (x : Interval) : Bool :=
  s.allSaved ctx && s.streamsAtBoundary ctx && !(s.run.accs.any fun p => p.2.ctx == ctx) && x.toLog.isEmpty &&
  !(s.ker.records.any fun p => match Table.get s.ker.kernels p.1 with | some k => k.ctx == ctx | none => false)

/-- Step 3: a drain marker goes on every port (R342). -/
def execFencePlace (ctx : Nat) (s : State) : Out :=
  match s.int ctx with
  | none => .next s
  | some x =>
    if x.st ≠ .quiescing ∨ x.fence.isSome ∨ (s.ck ctx).ndev ≤ 1 ∨ !s.fenced ctx x then .next s
    else
      let (s1, n) := s.placeMarkers (List.range 16)
      .next (s1.setInt ctx { x with fence := some n })

/-- Steps 1 to 3 have ended: in a job, the markers placed have completed. -/
def State.quiesced (s : State) (ctx : Nat) (x : Interval) : Bool :=
  s.fenced ctx x && (decide ((s.ck ctx).ndev ≤ 1) || (match x.fence with | some n => s.drained n 16 | none => false))

/-- The markers of a boundary are withdrawn. -/
def State.unfence (s : State) (x : Interval) : State := match x.fence with | some n => s.withdraw n 16 | none => s

/-- Rank 0 holds a report from every member. -/
def State.everyRank (s : State) (ctx : Nat) (l : List Nat) : Bool := (List.range (s.ck ctx).ndev).all fun k => l.contains k

/-- A member reports DRAINED: this one once it is quiesced, another by its message. With every report rank 0 sends CUT. -/
def execDrained (ctx rank : Nat) (s : State) : Out :=
  match s.int ctx with
  | some x =>
    if x.st ≠ .quiescing ∨ (s.ck ctx).ndev ≤ rank ∨ x.drained.contains rank ∨ (rank = s.rank ctx ∧ !s.quiesced ctx x) then .next s
    else
      let l := rank :: x.drained
      let s1 := s.setInt ctx { x with drained := l }
      .next (if s.rank ctx = 0 ∧ s.everyRank ctx l then s1.message (.cut ctx) else s1)
  | none => .next s

/-! ### The cut and the snapshot (R397 to R399) -/

/-- Pages whose granules a snapshot holds: class device, deferred, held and stub. -/
def snapClass (t : Trans) : Bool := t.cls == 0 || t.cls == 4 || t.cls == 5

/-- Granules of a context: virtual and physical numbers. A stub page's granule is its staging frame. -/
def State.granules (s : State) (ctx : Nat) : List (Nat × Nat) :=
  (s.leaves pageLevels (s.rootOf ctx) 0).flatMap fun p =>
    if snapClass p.2 ∨ p.2.cls = 6 then
      (List.range (2 ^ (p.2.bits - 16))).map fun k => (p.1.toNat / 65536 + k, p.2.frame / 65536 + k)
    else []

/-- How far every lane of a context has come in its interval. -/
def State.retiredCounts (s : State) (ctx : Nat) : List (DWord × DWord) :=
  (s.groupsOf ctx).flatMap fun p => (List.range p.2.width).map fun k => (s.wid p.2 k, (p.2.lane k).retired)

/-- What a snapshot takes at the cut; granules start as the last generation left them, and those in `marks` are copied after it. -/
def State.snapshotNow (s : State) (ctx : Nat) (x : Interval) (maps : List (Nat × Nat)) (marks : List Nat) (counts : List (DWord × DWord)) :
    Snapshot :=
  let teams := s.teamsOf ctx
  let tids := teams.map (·.1)
  let last := match Table.get x.snaps x.number.toNat with | some y => y.granules | none => []
  { groups := s.groupsOf ctx, teams := teams
    queues := s.ker.queues.filter fun p => p.2.ctx == ctx && p.2.cfg.getLsbD 7
    kernels := s.ker.kernels.filter fun p => p.2.ctx == ctx
    streams := s.eng.streams.filter fun p => p.2.ctx == ctx
    channels := s.eng.channels.filter fun p => p.2.ctx == ctx && p.2.st != .idle
    seqs := (s.clv.seqs.filter fun p => p.2.ctx == ctx).map fun p => ((s.seqHandle p.1).toNat, p.2)
    stubs := s.sum.stubs.filter fun p => p.2.ctx == ctx && p.2.inval.isNone
    tileOps := s.eng.tileOps.filter fun p => tids.contains p.2.team
    transfers := s.eng.transfers.filter fun p => tids.contains p.2.team
    held := (s.leaves pageLevels (s.rootOf ctx) 0).filterMap fun p => if p.2.cls = 5 then some p.1.toNat else none
    granules := last.filter fun p => maps.any fun m => m.1 == p.1
    counts := counts
    callers := match s.context ctx with | some c => c.callers | none => []
    maps := maps
    fresh := (maps.filter fun m => marks.contains m.2).map (·.1)
    passed := s.ckp.passed.filter fun p => match s.group p.1 with | some g => s.ctxOf g == ctx | none => false }

/-- The cut: granules are marked copy-on-write, the next interval and its log begin, counts start over, and the groups may be
restored and dispatch go on. -/
def execCut (ctx : Nat) (s : State) : Out :=
  match s.int ctx with
  | none => .next s
  | some x =>
    if x.st ≠ .quiescing ∨ !x.drained.contains (s.rank ctx) then .next s
    else
      let maps := s.granules ctx
      let n := x.number.toNat + 1
      let marks := (maps.map (·.2)).eraseDups.filter fun g => x.allDirty || x.dirty.contains g
      let zero (g : Group) : Group := { g with lanes := g.lanes.map fun l => { l with retired := 0 } }
      let gids := (s.groupsOf ctx).map (·.1)
      let groups := s.run.groups.map fun (p : Nat × Group) => (p.1, if gids.contains p.1 then zero p.2 else p.2)
      let s0 := ((s.unfence x).saveStreams ctx).mapChans ctx Channel.save
      let s1 : State := { s0 with
        run := { s0.run with groups := groups }
        mem := { s0.mem with writers := s0.mem.writers.filter fun w => w.1 / 2 ^ 96 != ctx } }
      let snap := s1.snapshotNow ctx x maps marks (s.retiredCounts ctx)
      let y := { x with
        st := .snapshot, number := x.number + 1, tcut := s.sch.time 8, instant := none, allDirty := false, dirty := [], marked := marks
        clock := 0, work := 0, wait := 0, logs := Table.set x.logs n [], snaps := Table.set x.snaps n snap, parity := []
        fence := none, written := 0, unacked := [], made := Table.set x.made n [] }
      .next (((s1.setInt ctx y).chansGo ctx).traceBoundary ctx 0 n)

/-- The writer copies a marked granule into the snapshot. -/
def execGranuleCopy (ctx granule : Nat) (s : State) : Out :=
  match s.int ctx with
  | none => .next s
  | some x => .next (if x.marked.contains granule then s.setInt ctx (x.copy granule (s.mem.granule granule)) else s)

/-! ### Stripes and parity (R400) -/

/-- The bytes of a granule's cells. -/
def granuleBytes (cells : List Host.Cell) : List Byte :=
  (List.range 65536).map fun k => ((cells.find? fun c => c.1 == k).map (·.2)).getD 0

/-- Bytes brought to a length, with zeros behind. -/
def padTo (n : Nat) (b : List Byte) : List Byte := b.take n ++ List.replicate (n - b.length) 0

def xorBytes (a b : List Byte) : List Byte :=
  (List.range (Nat.max a.length b.length)).map fun k => a.getD k 0 ^^^ b.getD k 0

/-- How many units hold the granules of a generation that had changed, and how many its directory of their addresses. -/
def Snapshot.dataUnits (y : Snapshot) : Nat := (y.fresh.length + 15) / 16
def Snapshot.dirUnits (y : Snapshot) : Nat := (8 * y.fresh.length + 2 ^ 20 - 1) / 2 ^ 20
def Snapshot.unitCount (y : Snapshot) : Nat := y.dataUnits + y.dirUnits

/-- The granules of a member's k-th unit: none of a part of its directory. -/
def Snapshot.unitGranules (y : Snapshot) (k : Nat) : List Nat := (y.fresh.drop (16 * k)).take 16

/-- The 1 MiB of a member's k-th unit: sixteen granules, or a part of the directory, whose form the spec leaves open: eight bytes of virtual
address for each granule, in the order of the units (DESIGN CHOICE, log 93). -/
def Snapshot.unitBytes (y : Snapshot) (k : Nat) : List Byte :=
  padTo (2 ^ 20) (if k < y.dataUnits then
      (y.unitGranules k).flatMap fun va => granuleBytes ((Table.get y.granules va).getD [])
    else (((y.fresh.map fun va => leBytes 8 (va * 65536)).flatten).drop ((k - y.dataUnits) * 2 ^ 20)))

/-- The row of a member's k-th unit: the k-th in which it does not hold the parity. -/
def rowOf (ndev rank k : Nat) : Nat :=
  if ndev ≤ 1 then k else ((List.range (2 * k + 2)).filter fun r => ndev - 1 - r % ndev != rank).getD k 0

/-- A free 1 MiB slot of the reserve: the spec places no unit; the lowest is taken (DESIGN CHOICE, log 93). -/
def CkRegs.freeSlot (r : CkRegs) (units : List StripeUnit) : Option Nat :=
  ((List.range (units.length + 1)).find? fun k => !(units.any fun u => u.slot == k)).filter
    fun k => decide ((k + 1) * 2 ^ 20 ≤ r.resSz.toNat)

/-- Write a unit into the reserve, granule by granule. -/
def State.storeUnit (s : State) (base : Nat) (b : List Byte) : State :=
  (List.range 16).foldl (fun t j => t.store (base + 65536 * j) ((b.drop (65536 * j)).take 65536)) s

/-- The member writes its next unit into its own reserve, and sends it to its row's parity member. With no room in the reserve the generation
cannot be written, and is discarded in time (R401). -/
def execUnitWrite (ctx k : Nat) (s : State) : Out :=
  match s.int ctx with
  | none => .next s
  | some x =>
    let r := s.ck ctx
    match Table.get x.snaps x.number.toNat, r.freeSlot x.units with
    | some y, some slot =>
      if x.st ≠ .snapshot ∨ !x.marked.isEmpty ∨ k ≠ x.written ∨ y.unitCount ≤ k then .next s
      else
        let u : StripeUnit := ⟨x.number.toNat, rowOf r.ndev (s.rank ctx) k, slot, false, y.unitGranules k, 0⟩
        .next ((s.setInt ctx { x with
          units := x.units ++ [u], written := k + 1, unacked := if r.ndev ≤ 1 then [] else k :: x.unacked }).storeUnit
            (r.res.toNat + slot * 2 ^ 20) (y.unitBytes k))
    | _, _ => .next s

/-- The parity member has written the row with a unit of this member. -/
def execUnitAcknowledged (ctx k : Nat) (s : State) : Out :=
  match s.int ctx with
  | none => .next s
  | some x => .next (s.setInt ctx { x with unacked := x.unacked.filter (· != k) })

/-- A parity member accumulates another member's data unit, and writes the row's parity unit into its reserve. -/
def execDataUnitArrival (ctx rank row : Nat) (bytes : List Byte) (s : State) : Out :=
  match s.int ctx with
  | none => .next s
  | some x =>
    let r := s.ck ctx
    let n := r.ndev
    let old := x.units.find? fun u => u.gen == x.number.toNat && u.parity && u.row == row
    match (match old with | some u => some u.slot | none => r.freeSlot x.units) with
    | none => .next s
    | some slot =>
      if x.st ≠ .snapshot ∨ n ≤ 1 ∨ n ≤ rank ∨ rank = s.rank ctx ∨ s.rank ctx ≠ n - 1 - row % n then .next s
      else
        let p := xorBytes ((Table.get x.parity row).getD []) bytes
        let u : StripeUnit := ⟨x.number.toNat, row, slot, true, [], (old.map (·.covers)).getD 0 + 1⟩
        .next ((s.setInt ctx { x with
          parity := Table.set x.parity row p
          units := x.units.filter (fun v => !(v.gen == u.gen && v.parity && v.row == row)) ++ [u] }).storeUnit
            (r.res.toNat + slot * 2 ^ 20) (padTo (2 ^ 20) p))

/-- A member has freed a unit that a parity unit covers: it counts as zeros from now on, and a parity unit that covers none is freed (R400; how
members tell it is the model's choice, log 93). -/
def execUnitFreed (ctx gen row : Nat) (bytes : List Byte) (s : State) : Out :=
  match s.int ctx with
  | none => .next s
  | some x =>
    match x.units.find? fun u => u.gen == gen && u.parity && u.row == row with
    | none => .next s
    | some u =>
      let rest := x.units.filter (· != u)
      let base := (s.ck ctx).res.toNat + u.slot * 2 ^ 20
      if u.covers ≤ 1 then .next (s.setInt ctx { x with units := rest })
      else .next ((s.setInt ctx { x with units := rest ++ [{ u with covers := u.covers - 1 }] }).storeUnit base
        (xorBytes (s.mem.bytes base (2 ^ 20)) (padTo (2 ^ 20) bytes)))

/-- A unit is still needed by a held generation: it holds a granule's content as of that generation; a directory stays with its generation's
units, and a parity unit until the members have freed what it covers. -/
def Interval.unitNeeded (x : Interval) (u : StripeUnit) : Bool :=
  let data (v : StripeUnit) : Bool := x.snaps.any fun h => decide (v.gen ≤ h.1) && v.granules.any fun va =>
    (h.2.maps.any fun m => m.1 == va) &&
    !x.units.any fun w => decide (v.gen < w.gen) && decide (w.gen ≤ h.1) && w.granules.contains va
  u.parity || (if u.granules.isEmpty then (x.snaps.any fun h => h.1 == u.gen) || x.units.any fun v => v.gen == u.gen && data v else data u)

/-! ### Commit (R401) -/

/-- The member has written all its units, each acknowledged by its row's parity member once the parity is written: PREP, and its report to
rank 0. -/
def execPrepared (ctx : Nat) (s : State) : Out :=
  match s.int ctx with
  | none => .next s
  | some x =>
    let count := ((Table.get x.snaps x.number.toNat).map Snapshot.unitCount).getD 0
    if x.st ≠ .snapshot ∨ !x.marked.isEmpty ∨ x.written < count ∨ !x.unacked.isEmpty ∨ x.prep = x.number.toNat then .next s
    else
      let s1 := (s.setInt ctx { x with prep := x.number.toNat }).store ((s.ck ctx).root.toNat + 8) (leBytes 8 x.number.toNat)
      .next (if s.rank ctx = 0 then s1.message (.preparedReport ctx 0) else s1)

/-- Rank 0 receives a report; with every report it sends COMMIT. -/
def execPreparedReport (ctx rank : Nat) (s : State) : Out :=
  match s.int ctx with
  | none => .next s
  | some x =>
    if x.st ≠ .snapshot ∨ s.rank ctx ≠ 0 ∨ (s.ck ctx).ndev ≤ rank ∨ x.prepared.contains rank ∨ (rank = 0 ∧ x.prep ≠ x.number.toNat) then .next s
    else
      let l := rank :: x.prepared
      let s1 := s.setInt ctx { x with prepared := l }
      .next (if s.everyRank ctx l then s1.message (.commit ctx x.number.toNat) else s1)

/-- COMMIT: the root's line is written, and acknowledged. -/
def execCommit (ctx gen : Nat) (s : State) : Out :=
  match s.int ctx with
  | none => .next s
  | some x =>
    if x.st ≠ .snapshot ∨ x.number.toNat ≠ gen ∨ x.prep ≠ gen ∨ x.gen = gen then .next s
    else
      let y := { x with gen := gen }
      .next (((s.setInt ctx y).writeRoot ctx y).message (.commitAcknowledged ctx (s.rank ctx)))

/-- Every member has acknowledged: superseded units and logs are freed, and SNAPSHOT ends. -/
def execCommitAcknowledged (ctx rank : Nat) (s : State) : Out :=
  match s.int ctx with
  | none => .next s
  | some x =>
    if x.st ≠ .snapshot ∨ x.gen ≠ x.number.toNat ∨ (s.ck ctx).ndev ≤ rank then .next s
    else
      let l := rank :: x.acked.filter (· != rank)
      if !s.everyRank ctx l then .next (s.setInt ctx { x with acked := l })
      else
        let keep := (s.ck ctx).keep
        let y := { x with
          st := .running, acked := [], prepared := [], wait := 0
          snaps := x.snaps.filter fun p => decide (x.gen < p.1 + keep)
          logs := x.logs.filter fun p => decide (x.gen < p.1 + keep)
          made := x.made.filter fun p => decide (x.gen < p.1 + keep) }
        let y := { y with units := y.units.filter y.unitNeeded }
        .next (((s.setInt ctx y).count ctx 20 1).traceBoundary ctx 1 x.gen)

/-- A member or a message is lost, or a second passes without CUT or COMMIT: the generation is discarded, and groups that are
quiesced resume. It is written again under its number, by the boundary that has waited for its end if one has (R401, R406). -/
def execGenerationDiscard (ctx : Nat) (s : State) : Out :=
  match s.int ctx with
  | none => .next s
  | some x =>
    if !(x.st == .quiescing || x.st == .snapshot) ∨ (x.st = .snapshot ∧ x.gen = x.number.toNat) then .next s
    else
      let g := if x.st = .snapshot then x.number.toNat else x.number.toNat + 1
      let next := if x.st = .snapshot then x.instant else none
      let teams := (s.teamsOf ctx).map (·.1)
      let go := s.run.teams.map fun (p : Nat × Team) => (p.1, if teams.contains p.1 then { p.2 with stopping := false } else p.2)
      let size := (s.ck ctx).logSz.toNat
      let back := ((((Table.get x.logs g).getD []).map LogRec.length).sum - (x.toLog.map LogRec.length).sum) % size
      let y := { x with
        st := .running, begun := if next.isSome then g else g - 1, prep := if x.prep = g then g - 1 else x.prep
        number := BitVec.ofNat 64 (g - 1), instant := next, drained := [], prepared := [], acked := [], allDirty := true, marked := [], wait := 0
        snaps := Table.del x.snaps g, logs := Table.del x.logs g, made := Table.del x.made g, parity := [], fence := none
        units := x.units.filter fun u => u.gen != g, written := 0, unacked := []
        toLog := if x.st = .snapshot then [] else x.toLog
        logAt := if x.st = .snapshot then (x.logAt + size - back) % size else x.logAt }
      let s1 : State := { s.unfence x with run := { s.run with teams := go } }
      .next ((((s1.setInt ctx y).chansGo ctx).count ctx 21 1).traceBoundary ctx 2 g)

/-! ### The drain to flash (R404, R428) -/

/-- The service processor posts a launch record on an SVC queue of a partition, as QPOST does. -/
def State.servicePost (s : State) (part q : Nat) (record : List Byte) : Option State :=
  let x := s.queue q
  if !(x.cfg.getLsbD 6 && x.part == part && x.takes x.ctx) ∨ record.length ≠ 64 then none
  else
    let slot := x.base + BitVec.ofNat 64 (64 * (x.wr.toNat % x.size))
    match s.engineWrite x.ctx slot with
    | .ok t => some ((s.writeAt x.ctx t slot (record.take 60 ++ leBytes 4 (x.wr.toNat % 2 ^ 32))).setQueue q { x with wr := x.wr + 1 })
    | _ => none

/-- GEN is committed and not yet in flash. -/
def Interval.undrained (x : Interval) : Bool := decide (x.flashGen < x.gen) && !(x.gen == x.number.toNat && x.st == .snapshot)

/-- The service processor posts the drain of GEN; one that it overtakes is abandoned. -/
def execDrainPost (ctx q : Nat) (record : List Byte) (s : State) : Out :=
  match s.int ctx with
  | none => .next s
  | some x =>
    if !s.sys.module ∨ !x.undrained ∨ (x.drain.map (·.1)) = some x.gen then .next s
    else match s.servicePost (s.partOf ctx) q record with
      | some t => .next (t.setInt ctx { x with drain := some (x.gen, q, (s.queue q).wr.toNat) })
      | none => .next s

/-- The launch record of a drain has been taken, and what it launched has ended. -/
def State.drainRan (s : State) (q index : Nat) : Bool :=
  decide (index < (s.queue q).rd.toNat) && !s.ker.kernels.any fun k => match k.2.launch with | some l => l.queue == q | none => false

/-- The key of a context's generations in flash: the job, and which of its old ranks, by its root (log 93). -/
def CkRegs.flashKey (r : CkRegs) : Nat := r.jobId * 2 ^ 64 + r.root.toNat

/-- The drain of GEN has run: its units and the root stand in flash, and FLASHGEN says so. -/
def execFlashDrain (ctx : Nat) (s : State) : Out :=
  match s.int ctx with
  | none => .next s
  | some x =>
    match Table.get x.snaps x.gen, x.drain with
    | some y, some (g, q, i) =>
      if !s.sys.module ∨ !x.undrained ∨ g ≠ x.gen ∨ !s.drainRan q i then .next s
      else
        let s1 := s.setInt ctx { x with flashGen := x.gen, drain := none }
        let s2 : State := { s1 with ckp := { s1.ckp with flash := Table.set s1.ckp.flash (s.ck ctx).flashKey (x.gen, y) } }
        .next (s2.store ((s.ck ctx).root.toNat + 40) (leBytes 8 x.gen))
    | _, _ => .next s

/-! ### Restore (R402 to R405) -/

/-- Number a wait's tile operation and stub again. -/
def WaitKind.renumber (k : WaitKind) (o : Nat) (stub : Nat → Nat) : WaitKind :=
  match k with
  | .tile id => .tile (id + o)
  | .pulled n q a b x => .pulled (stub n) q a b x
  | .dropped n q => .dropped (stub n) q
  | x => x

def Lane.renumber (l : Lane) (o : Nat) (stub : Nat → Nat) : Lane :=
  match l.st with
  | .stalled w => { l with st := .stalled { w with kind := w.kind.renumber o stub } }
  | _ => l

/-- The greatest object number in a snapshot. -/
def Snapshot.top (x : Snapshot) : Nat :=
  (x.groups.map (·.1) ++ x.teams.map (·.1) ++ x.kernels.map (·.1) ++ x.streams.map (·.1) ++ x.tileOps.map (·.1) ++
    x.transfers.map (·.1)).foldl Nat.max 0

/-- Restore one stub: the lowest free number and free frames; its window page must lie in the context's window. -/
def State.restoreStub (s : State) (ctx : Nat) (x : Stub) : State × Nat :=
  let n := s.freeStub
  let frames := s.freeFrames ctx x.frames.length
  let s1 := s.setStub n { x with ctx := ctx, frames := frames, pulling := [], renew := 0, quiet := 0 }
  let s2 := (frames.mapIdx fun k f => (x.firstPage + k, f)).foldl (fun t p => t.writeLeaf ctx p.1 (stubLeaf p.2)) s1
  (if x.st = .active ∧ s.local x.origin then s2.message (.holdRequest n) else s2, n)

def State.restoreStubs (s : State) (ctx : Nat) : List (Nat × Stub) → State × List (Nat × Nat)
  | [] => (s, [])
  | (old, x) :: r =>
    let (s1, n) := s.restoreStub ctx x
    let (s2, m) := State.restoreStubs s1 ctx r
    (s2, (old, n) :: m)

/-- Write a granule's content at its virtual address, or none if it is not mapped for it: class device with W, or a restored
stub. -/
def State.putGranule (s : State) (ctx : Nat) (va : Nat) (cells : List Host.Cell) : Option State :=
  match s.walk ctx (BitVec.ofNat 64 (va * 65536)) with
  | .found t =>
    if (t.cls = 0 ∧ t.w) ∨ t.cls = 6 then
      some (s.store (t.frame + va * 65536 % 2 ^ t.bits) (granuleBytes cells))
    else none
  | _ => none

def State.putGranules (s : State) (ctx : Nat) : Table (List Host.Cell) → Option State
  | [] => some s
  | (va, c) :: r => match s.putGranule ctx va c with | some t => t.putGranules ctx r | none => none

/-- Load the objects of a snapshot under new numbers. The engines' work meets its pages anew: a request for service of before the cut is
no request to the guardian of the restored context (log 69). -/
def State.loadObjects (s : State) (ctx : Nat) (x : Snapshot) (stub : Nat → Nat) : State :=
  let o := s.sch.nextId
  let part := s.partOf ctx
  let groups := x.groups.map fun p => (p.1 + o, { p.2 with
    team := p.2.team + o, lanes := p.2.lanes.map fun l => l.renumber o stub, observed := []
    timeFloor := if p.2.timeFloor.toNat < s.sch.latest.toNat then s.sch.latest else p.2.timeFloor })
  let teams := x.teams.map fun p => (p.1 + o, { p.2 with kernel := p.2.kernel + o, groups := p.2.groups.map (· + o), saved := true })
  let kernels := x.kernels.map fun p => (p.1 + o, { p.2 with ctx := ctx, part := part })
  let streams := (x.streams.filter fun p => !p.2.reading).map fun p => (p.1 + o, { p.2 with ctx := ctx, kernel := p.2.kernel + o, fault := none, waited := 0 })
  let tileOps := x.tileOps.map fun p => (p.1 + o, { p.2 with
    team := p.2.team + o, gid := p.2.gid + o
    proto := { p.2.proto with gid := p.2.gid + o, ctx := ctx, kernel := p.2.proto.kernel + o, team := p.2.team + o } })
  let transfers := x.transfers.map fun p => (p.1 + o, { p.2 with
    gid := p.2.gid + o, team := p.2.team + o, ctx := ctx, fault := none, waited := 0 })
  let chans := x.channels.foldl
    (fun t p => Table.set t p.1 (Channel.unsave { p.2 with ctx := ctx, kernel := p.2.kernel + o })) s.eng.channels
  let ctxBits : DWord := BitVec.ofNat 64 (ctx * 2 ^ 36)
  let queues := x.queues.foldl (fun t p =>
    Table.set t p.1 { p.2 with
      cfg := (p.2.cfg &&& ~~~0x0000FFF000000000#64) ||| ctxBits, last := p.2.last.map (· + o), asked := false }) s.ker.queues
  let seqs := x.seqs.foldl (fun t p => Table.set t (p.1 % 65536) { p.2 with ctx := ctx, part := part }) s.clv.seqs
  let gens := x.seqs.foldl (fun t p => Sparse.set t (p.1 % 65536) (BitVec.ofNat 15 (p.1 / 65536))) s.clv.gens
  let callers : Table Nat := x.callers.map fun p => (p.1, p.2 + o)
  let s1 : State := { s with
    run := { s.run with groups := s.run.groups ++ groups, teams := s.run.teams ++ teams }
    ctx := { s.ctx with contexts := Table.upd s.ctx.contexts ctx fun c => { c with callers := callers } }
    ker := { s.ker with kernels := s.ker.kernels ++ kernels, queues := queues }
    eng := { s.eng with
      streams := s.eng.streams ++ streams, tileOps := s.eng.tileOps ++ tileOps, transfers := s.eng.transfers ++ transfers
      channels := chans }
    clv := { s.clv with seqs := seqs, gens := gens }
    ckp := { s.ckp with passed := s.ckp.passed ++ x.passed.map fun p => (p.1 + o, p.2) }
    sch := { s.sch with nextId := o + x.top + 1 } }
  match Table.get s.ctx.contexts ctx with
  | some c => groups.foldl (fun t p => t.writeHeader c.record p.1 p.2) s1
  | none => s1

/-- Pages that were held at the cut stay held for 1 s (R405). -/
def State.keepHeld (s : State) (ctx : Nat) (pages : List Nat) : State :=
  let s1 := pages.foldl (fun t a => match t.walk ctx (BitVec.ofNat 64 a) with
    | .found l => if l.cls = 0 ∨ l.cls = 4 then t.setClass l 5 else t
    | _ => t) s
  if pages.isEmpty then s1
  else { s1 with sum := { s1.sum with
    restored := s1.sum.restored ++ pages.map fun a => (ctx, a)
    restoredLeft := Table.set s1.sum.restoredLeft ctx 1000000000 } }

/-- Rebuild a snapshot in a context; none if a granule is not mapped for it. -/
def State.rebuild (s : State) (ctx : Nat) (x : Snapshot) : Option State :=
  let (s1, m) := s.restoreStubs ctx x.stubs
  let stub (n : Nat) : Nat := (Table.get m n).getD n
  (s1.putGranules ctx x.granules).map fun t => (t.loadObjects ctx x stub).keepHeld ctx x.held

/-- A generation in the reserve that the registers name, whichever context wrote it; else the one drained to flash. -/
def State.findGeneration (s : State) (ctx gen : Nat) : Option Snapshot :=
  let r := s.ck ctx
  let here := s.ckp.ints.findSome? fun p => if (s.ck p.1).res = r.res then Table.get p.2.snaps gen else none
  match here with
  | some x => some x
  | none => match Table.get s.ckp.flash r.flashKey with | some (g, x) => if g = gen then some x else none | none => none

/-- The generation that ARG 0 names: the greatest GEN in the roots of the surviving members. Another member's root may already show what
this one has fully written and its own root does not show yet (R401, R402; a free choice, log 11). -/
def State.latestGeneration (s : State) (ctx : Nat) : Nat × State :=
  let r := s.ck ctx
  let flash := match Table.get s.ckp.flash r.flashKey with | some (g, _) => g | none => 0
  let own := Nat.max (s.mem.le r.root.toNat 8) flash
  let prep := s.mem.le (r.root.toNat + 8) 8
  if 1 < r.ndev ∧ own < prep then (let (n, t) := s.draw; (if n % 2 = 0 then own else prep, t)) else (own, s)

/-- CKCMD shows how a RESTORE has ended: 2, or 0x80 and a code (R394, R401). -/
def State.ckDone (s : State) (ctx n : Nat) : State := s.setCk ctx { s.ck ctx with cmd := BitVec.ofNat 64 n }

/-- Rebuild a generation in a context, which becomes GUARDED under the host (R402). -/
def State.restoreAs (s : State) (host ctx want : Nat) (x : Snapshot) : State :=
  match s.rebuild ctx x with
  | none => s.ckDone ctx 0x83
  | some t =>
    let t1 := t.updContext ctx fun y => { y with st := .guarded, guardians := [⟨host, 0⟩] }
    let t2 := match t1.int ctx with
      | some y => t1.setInt ctx { y with number := BitVec.ofNat 64 want, begun := want, gen := want, prep := want, allDirty := true, clock := 0, work := 0 }
      | none => t1
    t2.ckDone ctx 2

/-- RESTORE of CKCMD, on this member. A generation whose units stand neither in the reserve nor in flash here waits for those of the other
members of the job. -/
def execRestore (host ctx gen : Nat) (s : State) : Out :=
  match s.context ctx with
  | none => .next s
  | some c =>
    let r := s.ck ctx
    let root := s.mem.le r.root.toNat 8
    let flash := match Table.get s.ckp.flash r.flashKey with | some (g, _) => g | none => 0
    if !s.privileged host c.record.part then .next s
    else if c.st ≠ .building then .next (s.ckDone ctx 0x84)
    else
      let (want, s1) := if gen ≠ 0 then (gen, s) else s.latestGeneration ctx
      if want = 0 ∧ r.ndev ≤ 1 then .next (s1.ckDone ctx 0x81)
      else match s1.findGeneration ctx want with
        | none => .next (s1.ckDone ctx (if 1 < r.ndev then 1 else if root = 0 ∧ flash = 0 then 0x81 else 0x82))
        | some x => .next (s1.restoreAs host ctx want x)

/-- The XOR of a row's units. -/
def xorRow (units : List (List Byte)) : List Byte := units.foldl xorBytes []

/-- The cells of a granule in a unit. -/
def unitCells (unit : List Byte) (j : Nat) : List Host.Cell :=
  ((unit.drop (65536 * j)).take 65536).mapIdx (fun k b => (k, b)) |>.filter fun c => c.2 != 0

/-- A generation whose granules are rebuilt from rows: its k-th unit is the XOR of what the others hold in its row (R400, R402). -/
def Snapshot.fromRows (y : Snapshot) (rows : List (List (List Byte))) : Snapshot :=
  let cells (j : Nat) : List Host.Cell := unitCells (xorRow (rows.getD (j / 16) [])) (j % 16)
  let put (t : Table (List Host.Cell)) (p : Nat × Nat) : Table (List Host.Cell) := Table.set t p.2 (cells p.1)
  { y with granules := (y.fresh.mapIdx fun j va => (j, va)).foldl put y.granules }

/-- The units of the generation come in, from every other member, while RESTORE is busy. -/
def execUnitsArrive (host ctx gen : Nat) (objects : Snapshot) (rows : List (List (List Byte))) (s : State) : Out :=
  match s.context ctx with
  | none => .next s
  | some c =>
    if (s.ck ctx).cmd ≠ 1 ∨ gen = 0 then .next s
    else if c.st ≠ .building then .next (s.ckDone ctx 0x84)
    else .next (s.restoreAs host ctx gen (objects.fromRows rows))

/-- The units of more than one member are missing: LOSS. With no committed generation in any root RESTORE fails with NONE. -/
def execUnitsLost (ctx : Nat) (uncommitted : Bool) (s : State) : Out :=
  .next (if (s.ck ctx).cmd = 1 then s.ckDone ctx (if uncommitted then 0x81 else 0x82) else s)

/-! ### Replay and debug stops (R406, R410 to R412) -/

/-- What a rollback discards of a context: its work, its stubs and its sequences. -/
def State.unwind (s : State) (ctx : Nat) : State :=
  let s1 : State := { s.discard ctx with ckp := s.ckp }
  { s1 with
    run := { s1.run with accs := s1.run.accs.filter fun p => p.2.ctx != ctx }
    sum := { s1.sum with stubs := s1.sum.stubs.filter fun p => p.2.ctx != ctx }
    clv := { s1.clv with
      seqs := s1.clv.seqs.filter fun p => p.2.ctx != ctx
      iters := s1.clv.iters.filter fun p => s.iterCtx p.2 != ctx } }

/-- The debug status of STOPCMD. -/
def State.stopStatus (s : State) (p n : Nat) : State := s.setDbg p 0x58 (BitVec.ofNat 64 n)

/-- The writer copies every granule that is still marked. -/
def State.copyMarked (s : State) (ctx : Nat) : List Nat → State
  | [] => s
  | m :: r => match execGranuleCopy ctx m s with | .next t => t.copyMarked ctx r | _ => s.copyMarked ctx r

/-- Put a granule back where it stood at the cut: no page table is read again. A stub's stands in its new staging frames (R410). -/
def State.rollGranule (s : State) (ctx : Nat) (y : Snapshot) (va : Nat) (cells : List Host.Cell) : State :=
  match s.stubAt ctx (BitVec.ofNat 64 (va * 65536)), y.maps.find? fun m => m.1 == va with
  | some (_, x), _ => match x.frames[va - x.va.toNat / 65536]? with
    | some f => s.store f (granuleBytes cells)
    | none => s
  | none, some m => s.store (m.2 * 65536) (granuleBytes cells)
  | none, none => s

/-- Roll a context back to a snapshot (R410). -/
def State.rollback (s : State) (ctx : Nat) (y : Snapshot) : State :=
  let (s1, m) := (s.unwind ctx).restoreStubs ctx y.stubs
  let s2 := y.granules.foldl (fun t p => t.rollGranule ctx y p.1 p.2) s1
  (s2.loadObjects ctx y fun n => (Table.get m n).getD n).keepHeld ctx y.held

/-- Where every lane stood as each interval from n on ended, and, for the last, where it stands. -/
def State.oldPlaces (s : State) (ctx : Nat) (x : Interval) (n : Nat) : Table (List (DWord × DWord)) :=
  (x.snaps.filterMap fun p => if n < p.1 then some (p.1 - 1, p.2.counts) else none) ++ [(x.number.toNat, s.retiredCounts ctx)]

/-- STOPCMD GO: the context goes back to the committed generation that begins the interval, and replays its held log (R410 to
R412). A snapshot in progress is completed first. -/
def execGo (host p : Nat) (v : DWord) (s : State) : Out :=
  let ctx := field v 11 0
  match s.context ctx, s.int ctx with
  | some c, some x =>
    let n := (s.dbgReg p 0x40).toNat
    if c.record.part ≠ p ∨ !(c.guards host || s.privileged host p) then .next s
    else match Table.get x.snaps n, Table.get x.logs n with
      | some _, some l =>
        if !(s.ck ctx).logs ∨ n = 0 ∨ x.gen < n ∨ !(x.st == .running || x.st == .snapshot) then .next (s.stopStatus p 4)
        else
          let s1 := s.copyMarked ctx x.marked
          let x1 := (s1.int ctx).getD x
          match Table.get x1.snaps n with
          | none => .next (s.stopStatus p 4)
          | some y =>
            let z := { x1 with
              st := .replaying, number := BitVec.ofNat 64 n, stop := some (s.dbgReg p 0x48, s.dbgReg p 0x50), replay := l
              marked := [], instant := none, asked := false, allDirty := true
              remade := (Table.get x.made n).getD [], reached := s.oldPlaces ctx x n }
            .next (((s1.rollback ctx y).setInt ctx z).stopStatus p 1)
      | _, _ => .next (s.stopStatus p 4)
  | _, _ => .next (s.stopStatus p 4)

/-- The lane named by the stop, with its group. -/
def State.stopLane (s : State) (ctx : Nat) (wid : DWord) : Option (Nat × Group × Nat) :=
  (s.groupsOf ctx).findSome? fun p =>
    ((List.range p.2.width).find? fun k => s.wid p.2 k == wid).map fun k => (p.1, p.2, k)

/-- Contexts of a partition that replay towards a stop. -/
def State.stopsIn (s : State) (p : Nat) : List (Nat × Interval) :=
  s.ckp.ints.filter fun x => s.partOf x.1 == p && x.2.st == .replaying && x.2.stop.isSome

/-- The named lane has retired its count: it parks, and with it its group (R411). -/
def execDebugStopReached (p : Nat) (s : State) : Out :=
  match (s.stopsIn p).head? with
  | none => .next s
  | some (ctx, x) =>
    match x.stop with
    | none => .next s
    | some (wid, n) =>
      match s.stopLane ctx wid with
      | none => .next s
      | some (gid, g, k) =>
        if (g.lane k).retired ≠ n ∨ g.st ≠ .resident ∨ (g.lane k).st = .exited then .next s
        else
          let s1 := s.debugPark gid (laneMask [k]) 3 0 0
          .next ((s1.setInt ctx { x with st := .stopped, stop := none, stopped := some gid }).stopStatus p 2)

/-- The stop can still be reached in the interval: its lane has not exited, and came as far as the count in the run that is replayed. -/
def State.stopAhead (s : State) (ctx : Nat) (x : Interval) : Bool :=
  match x.stop with
  | none => false
  | some (wid, n) => match s.stopLane ctx wid with
    | none => false
    | some (_, g, k) => (g.lane k).st != .exited &&
        ((Table.get x.reached x.number.toNat).getD []).any fun r => r.1 == wid && decide (n.toNat ≤ r.2.toNat)

/-- Every lane stands where it stood when the replayed interval ended, or the replay was begun (R412; DEDUCED, log 94). -/
def State.allBack (s : State) (ctx : Nat) (x : Interval) : Bool :=
  let old := (Table.get x.reached x.number.toNat).getD []
  let now := s.retiredCounts ctx
  (old.all fun r => now.any fun q => q.1 == r.1 && decide (r.2.toNat ≤ q.2.toNat)) && now.all fun q => old.any fun r => r.1 == q.1

/-- The log of the interval is consumed, and every lane is back. The next interval that is held follows, from its own beginning; after the
last, live execution goes on, and a stop that was not reached is reported (R406, R410, R411). -/
def execReplayEnd (ctx : Nat) (s : State) : Out :=
  match s.int ctx with
  | none => .next s
  | some x =>
    if x.st ≠ .replaying ∨ !x.replay.isEmpty ∨ !s.allBack ctx x ∨ s.stopAhead ctx x then .next s
    else
      let n := x.number.toNat + 1
      let p := s.partOf ctx
      match Table.get x.snaps n, Table.get x.logs n with
      | some y, some l =>
        .next ((s.rollback ctx y).setInt ctx { x with
          number := x.number + 1, replay := l, stop := x.stop.map fun w => (w.1, allOnes), remade := (Table.get x.made n).getD [] })
      | _, _ =>
        .next ((s.setInt ctx { x with st := .running, stop := none, clock := 0, work := 0, remade := [], reached := [] }).stopStatus p
          (if x.stop.isSome then 3 else 0))

/-! ### CKPT (R417) -/

/-- D of CKPT.req after the boundary has begun: 1 and the highest generation whose boundary has begun. -/
def execCkptReq (h : Hd) (d : Opnd) (s : State) : Out :=
  .next (s.once h fun s _ g k =>
    let ctx := s.ctxOf g
    let (s1, v) : State × DWord := match s.int ctx with
      | none => (s, allOnes)
      | some x =>
        let t := s.want ctx x
        (t, BitVec.ofNat 64 (1 + match t.int ctx with | some y => y.begun | none => 0))
    let (s2, b) := s1.settleResult g k (leBytes 8 v.toNat)
    s2.lanes h fun _ _ _ => { regs := [(d, true, BitVec.ofNat 64 (leNat b))] })

def execCkptWait (h : Hd) (d a : Opnd) (s : State) : Out :=
  .next (s.once h fun s i g k =>
    let src := i.source g
    let want : DWord := match a with | .imm x => BitVec.ofNat 64 x.toNat | _ => readOp src (src.lane k) true a
    let v := s.genWord (s.ctxOf g)
    if v.toNat < want.toNat ∧ (s.logged (s.ctxOf g) 7 (s.wid g k) (g.lane k).retired).isNone then
      s.stallBundle i g h ⟨.checkpoint d want, 15, none, .absent, i.word, false, false⟩
    else
      let (s1, b) := s.settleResult g k (leBytes 8 v.toNat)
      s1.lanes h fun _ _ _ => { regs := [(d, true, BitVec.ofNat 64 (leNat b))] })

def execCkptGen (h : Hd) (d : Opnd) (s : State) : Out :=
  .next (s.once h fun s _ g k =>
    let (s1, b) := s.settleResult g k (leBytes 8 (s.genWord (s.ctxOf g)).toNat)
    s1.lanes h fun _ _ _ => { regs := [(d, true, BitVec.ofNat 64 (leNat b))] })

end Sys2Proof.Machine
end

