-- ==== Sys2Proof/Machine/System.lean ====
section
/-! DEFINITION. Machine/System.lean: partitions, format windows, flash, hosts, Glen, firmware, bring-up and writes of device registers
(01_device.md, R8, R9, R25; 10_page.md, R216; 27_system.md, R420 to R434). -/

namespace Sys2Proof.Machine

/-! ### Glen's codes are the model's (log 15): sources 7 partitions, 8 windows, 9 flash, 10 bring-up, 11 Glen itself -/

def Config.glenParts : Nat := 7
def Config.glenWindows : Nat := 8
def Config.glenFlash : Nat := 9
def Config.glenBringUp : Nat := 10
def Config.glenSelf : Nat := 11

/-! ### Partitions (R23, R25) -/

def partZero : Partition := ⟨0, 0, 0, 0, 0⟩

def State.part (s : State) (p : Nat) : Partition := (Table.get s.sys.parts p).getD partZero

def State.setPart (s : State) (p : Nat) (x : Partition) : State :=
  { s with sys := { s.sys with parts := Table.set s.sys.parts p x } }

def Partition.en (x : Partition) : Bool := x.ctl.getLsbD 0
def Partition.steppe (x : Partition) : Nat := field x.ctl 23 16
def Partition.watts (x : Partition) : Nat := field x.allow 15 0

/-- The die-cache ways of a virtual die. -/
def Partition.ways (x : Partition) (d : Nat) : Nat :=
  if d < 4 then field x.wayLo (16 * d + 15) (16 * d) else field x.wayHi (16 * (d - 4) + 15) (16 * (d - 4))

/-- The partition has a cluster of a virtual die. -/
def Partition.onDie (x : Partition) (d : Nat) : Bool := field x.clu (6 * d + 5) (6 * d) != 0

/-- W that the package, or the module, may draw (R429). -/
def State.powerLimit (s : State) : Nat := if s.sys.module then 2100 else 1800

/-- The enabled partitions but one. -/
def State.otherParts (s : State) (p : Nat) : List Partition :=
  (s.sys.parts.filter fun x => x.1 != p && x.2.en).map (·.2)

/-- WATTS of a partition and of the enabled ones beside it pass the limit. -/
def State.wattsExceed (s : State) (p w : Nat) : Bool :=
  decide (s.powerLimit < w + ((s.otherParts p).map Partition.watts).sum)

/-- The conditions for EN. -/
def State.partitionOk (s : State) (p : Nat) (x : Partition) : Bool :=
  let os := s.otherParts p
  x.clu != 0 && os.all (fun y => y.clu &&& x.clu == 0) && s.lnk.absent.all (fun d => !x.onDie d) &&
  x.steppe != 0 && decide (x.steppe + (os.map Partition.steppe).sum ≤ 64) && field x.ctl 31 24 != 0 &&
  ((List.range 8).all fun d => (!x.onDie d || x.ways d != 0) && os.all fun y => x.ways d &&& y.ways d == 0) &&
  !s.wattsExceed p x.watts

/-- Setting EN of PARTCTLp. While EN is set only PRIV changes. -/
def execPartitionEnable (host p : Nat) (ctl : DWord) (s : State) : Out :=
  let x := s.part p
  if !s.authority host ∨ 12 ≤ p then .next s
  else if x.en then .next (s.setPart p { x with ctl := (x.ctl &&& ~~~0xFF00#64) ||| (ctl &&& 0xFF00#64) })
  else
    let y := { x with ctl := ctl &&& 0xFFFFFF00#64 }
    if s.partitionOk p y then .next ((s.setPart p { y with ctl := y.ctl ||| 1 }).startEnergy p)
    else .next ((s.setPart p y).glen Config.glenParts 1 (BitVec.ofNat 64 p))

/-- Clearing EN is refused while the partition holds a context that is not TORN_DOWN. -/
def execPartitionDisable (host p : Nat) (s : State) : Out :=
  let x := s.part p
  if !s.authority host ∨ !x.en ∨ s.ctx.contexts.any (fun c => c.2.record.part == p && c.2.st != .tornDown) then .next s
  else .next (s.setPart p { x with ctl := x.ctl &&& ~~~1#64 })

/-! ### Temperatures (R429). Sensor n of the 64 lies on compute die n / 8, in tenths of a degree (log 15) -/

def dieTemp (temps : List Nat) (d : Nat) : Nat := ((temps.drop (8 * d)).take 8).foldl Nat.max 0

def hottest (temps : List Nat) : Nat := temps.foldl Nat.max 0

/-- WATTS as Glen lowers it: 5 % for each full degree above 95 °C, at most ten degrees. -/
def lowered (temps : List Nat) (w : Nat) : Nat := w * (100 - 5 * Nat.min 10 ((hottest temps - 950) / 10)) / 100

/-- The allowances in force follow the registers and the temperatures last read. -/
def State.setAllowances (s : State) : State :=
  { s with sys := { s.sys with allowance := s.sys.parts.map fun p => (p.1, lowered s.sys.sensors p.2.watts) } }

/-- WATTS of PALLOWp. -/
def execPartitionWattsWrite (host p : Nat) (v : DWord) (s : State) : Out :=
  let x := s.part p
  if !s.authority host ∨ 12 ≤ p then .next s
  else if x.en ∧ s.wattsExceed p (field v 15 0) then .next (s.glen Config.glenParts 2 (BitVec.ofNat 64 p))
  else .next (s.setPart p { x with allow := v &&& 0xFFFF#64 }).setAllowances

/-! ### Format windows (R215, R216) -/

def windowZero : Window := ⟨0, 0, 0⟩

def State.window (s : State) (n : Nat) : Window := (Table.get s.sys.windows n).getD windowZero

def State.setWindow (s : State) (n : Nat) (w : Window) : State :=
  { s with sys := { s.sys with windows := Table.set s.sys.windows n w } }

/-- Base and bytes of the element range and of the scale range. -/
def Window.ranges (w : Window) : List (Nat × Nat) :=
  [(w.elem.toNat, w.elSize * w.nblk), (w.scale.toNat, w.scSize * w.nblk)]

/-- Both ranges lie in one stack, clear of each other and of enabled windows' ranges; TYPE and NBLK are in range. -/
def State.windowOk (s : State) (n : Nat) (w : Window) : Bool :=
  let stack := w.elem.toNat / Config.stackBytes
  let others := (s.sys.windows.filter fun p => p.1 != n && p.2.en).flatMap fun p => p.2.ranges
  w.ty != 3 && decide (1 ≤ w.nblk) && decide (w.nblk ≤ 2 ^ 31) && s.partEnabled w.part && decide (stack < 8) &&
  (w.ranges.all fun r => r.1 / Config.stackBytes == stack && (r.1 + r.2 - 1) / Config.stackBytes == stack &&
    others.all fun o => !overlap r.1 r.2 o.1 o.2) &&
  !overlap w.elem.toNat (w.elSize * w.nblk) w.scale.toNat (w.scSize * w.nblk)

/-- Setting EN of FWn_CTL. While EN is set the other fields are locked. -/
def execFormatWindowEnable (host n : Nat) (ctl : DWord) (s : State) : Out :=
  let x := s.window n
  let y := { x with ctl := ctl &&& 0xFFFFFFFF00000F06#64 }
  if 16 ≤ n ∨ x.en ∨ !s.privileged host y.part then .next s
  else if s.windowOk n y then .next (s.setWindow n { y with ctl := y.ctl ||| 1 })
  else .next ((s.setWindow n y).glen Config.glenWindows 1 (BitVec.ofNat 64 n))

/-- Clearing EN: every dirty view block of the window is written back first. -/
def execFormatWindowDisable (host n : Nat) (s : State) : Out :=
  let x := s.window n
  if 16 ≤ n ∨ !x.en ∨ !s.privileged host x.part then .next s
  else
    let mine := s.mem.views.filter fun v => v.win == n
    let t := (mine.filter (·.dirty)).foldl (fun t v => t.writeBack x v) s
    let s1 : State := { t with mem := { t.mem with views := t.mem.views.filter fun v => v.win != n } }
    .next (s1.setWindow n { x with ctl := x.ctl &&& ~~~1#64 })

/-! ### Flash (R426, R428) -/

def State.flashRange (s : State) (p : Nat) : DWord × DWord := (Table.get s.sys.flash p).getD (0, 0)

def State.setFlash (s : State) (p : Nat) (r : DWord × DWord) : State :=
  { s with sys := { s.sys with flash := Table.set s.sys.flash p r } }

/-- FLBASEp is locked while FLSIZEp is nonzero; a size whose range meets another partition's is ignored and reported. -/
def execFlashRangeWrite (host p : Nat) (size : Bool) (v : DWord) (s : State) : Out :=
  let r := s.flashRange p
  if !s.privileged host p ∨ 12 ≤ p then .next s
  else if !size then .next (if r.2 = 0 then s.setFlash p (v, 0) else s)
  else if v ≠ 0 ∧ s.sys.flash.any (fun o => o.1 != p && o.2.2 != 0 && overlap r.1.toNat v.toNat o.2.1.toNat o.2.2.toNat) then
    .next (s.glen Config.glenFlash 1 (BitVec.ofNat 64 p))
  else .next (s.setFlash p (r.1, v))

/-- The service processor posts a launch record of garbage-collection work on a partition's SVC queue, as QPOST does. -/
def execGarbageCollection (part q : Nat) (record : List Byte) (s : State) : Out :=
  .next ((s.servicePost part q record).getD s)

/-! ### Hosts (R9, R425, R432) -/

/-- A host link trains; its CXL.mem window comes with it (log 10). -/
def execHostAttach (host : Nat) (cxl : Bool) (base size : DWord) (s : State) : Out :=
  if 8 ≤ host then .next s
  else .next { s with sys := { s.sys with
    hosts := Table.set s.sys.hosts host cxl, cxlWin := if cxl then Table.set s.sys.cxlWin host (base, size) else Table.del s.sys.cxlWin host } }

def execHostDetach (host : Nat) (s : State) : Out :=
  .next { s with sys := { s.sys with hosts := Table.del s.sys.hosts host, cxlWin := Table.del s.sys.cxlWin host } }

/-- The held pages, by context and address, that n bytes of device memory lie in (R362, R405). -/
def State.heldPages (s : State) (a n : Nat) : List (Nat × DWord) :=
  ((s.sum.holds.flatMap fun p => (pieces p.2.base.toNat p.2.len.toNat).map fun va => (p.2.octx, va)) ++
    s.sum.restored.map fun r => (r.1, BitVec.ofNat 64 r.2)).filter fun p => match s.walk p.1 p.2 with
      | .found t => t.cls == 5 && overlap t.frame (2 ^ t.bits) a n
      | _ => false

/-- A write to n bytes of device memory must wait whoever makes it: they lie in a held page, or in a granule that is still to be copied
(R362, R399). -/
def State.memBlocked (s : State) (a n : Nat) : Bool :=
  !(s.heldPages a n).isEmpty || s.ckp.ints.any fun p => p.2.marked.any fun g => overlap (65536 * g) 65536 a n

/-- A host's store has its turn at every page at which it stalled (R210). -/
def State.storeTurn (s : State) (id : Nat) : Bool :=
  (s.mem.stalls.filter fun x => x.id == id).all fun x => s.stallTurn x.ctx (BitVec.ofNat 64 x.page) id

/-- A host's store waits at its home: it takes its place at the held pages that it touches, and its link behind it. -/
def State.holdStore (s : State) (host addr : Nat) (bytes : List Byte) (a : Nat) : State :=
  let (id, s1) := s.fresh
  let s2 : State := { s1 with sch := { s1.sch with held := s1.sch.held ++ [.cxlStore host addr bytes id] } }
  (s1.heldPages a bytes.length).foldl (fun t p => t.stall p.1 p.2 id) s2

/-- A host access at an offset of its CXL.mem window: a device store or load at system scope, at the Steppe directory, where a store may
have to wait. A load answers the host and changes nothing here. -/
def execCxlMemAccess (host addr : Nat) (write : Bool) (bytes : List Byte) (s : State) : Out :=
  match Table.get s.sys.hosts host, Table.get s.sys.cxlWin host with
  | some true, some (base, size) =>
    let a := base.toNat + addr
    .next (if !write ∨ size.toNat < addr + bytes.length ∨ !s.present a bytes.length then s
      else if s.memBlocked a bytes.length then s.holdStore host addr bytes a
      else s.store a bytes)
  | _, _ => .next s

/-! ### Writes of peers, and AtomicOps of hosts (R201, R331, R340, R420) -/

def Deed.size : Deed → Nat
  | .load n => n
  | .store b => b.length
  | .atomic _ t _ _ => ATy.size t

/-- What the bytes hold after it (R200). -/
def Deed.over (d : Deed) (old : List Byte) : List Byte :=
  match d with
  | .load _ => old
  | .store b => b
  | .atomic op t x c => leBytes (ATy.size t) (newValue op t (leNat old) x c)

/-- The AtomicOps that the device completes: FetchAdd, Swap and CAS at 32 and 64 bits (R202, R420). -/
def Deed.completes : Deed → Bool
  | .atomic op t _ _ => (op == .add || op == .exch || op == .cas) && (t == .n32 || t == .n64 || t == .b32 || t == .b64 || t == .i32 || t == .i64)
  | _ => false

/-- The port by which a peer's access is answered (R338). -/
def State.answerPort (s : State) (v : Visit) : Option Nat :=
  match v.who with | .peer n => s.lnk.portFor n (BitVec.ofNat 64 v.addr) | _ => none

/-- The answer can go: a port holds a response allowance (R338). -/
def State.answers (s : State) (v : Visit) : Bool :=
  match v.who with | .peer _ => (match s.answerPort v with | some p => s.lnk.holds p 1 | none => false) | _ => true

/-- It waits: for its answer's allowance, or, where it writes, at its home (R338, R362, R399). -/
def State.visitWaits (s : State) (v : Visit) (a : Nat) : Bool :=
  !s.answers v || (!(v.deed matches .load _) && s.memBlocked a v.deed.size)

/-- Where it goes: a peer that a port reaches names device memory by physical address; the offset of a host's AtomicOp is one of its CXL.mem
window, for R420 names no address (DESIGN CHOICE, log 91). -/
def State.visitAt (s : State) (v : Visit) : Option Nat :=
  match v.who with
  | .peer n => if n < 16 ∧ s.lnk.route n ≠ .none ∧ s.present v.addr v.deed.size then some v.addr else none
  | .host h => match Table.get s.sys.hosts h, Table.get s.sys.cxlWin h with
    | some _, some (base, size) =>
      if v.addr + v.deed.size ≤ size.toNat ∧ v.deed.completes ∧ s.present (base.toNat + v.addr) v.deed.size then some (base.toNat + v.addr) else none
    | _, _ => none
  | _ => none

/-- It is performed at the directory, and a peer's is answered: a release stands in its bytes, an atomic leaves the releases that stood there; a
load changes nothing here (R201, R323, R331, R338). -/
def State.performVisit (s0 : State) (v : Visit) (key : Nat) : State :=
  let s := match s0.answerPort v with | some p => { s0 with lnk := s0.lnk.pay p 1 } | none => s0
  let old := match v.deed with | .atomic .. => relsOf s.mem.marks key v.deed.size | _ => []
  if v.deed matches .load _ then s else s.writeOver key (v.deed.over (s.load key v.deed.size)) ((v.rel.map fun sc => (⟨v.who, sc, s.mem.ver + 1, s.sch.nextId⟩ : Rel)).toList ++ old)

/-- An access from outside comes to its home; a write waits there as every write does (R362, R399). -/
def execVisit (v : Visit) (id : Nat) (s0 : State) : Out :=
  let s := s0.unstall id
  match s.visitAt v with
  | none => .next s
  | some a =>
    if s.visitWaits v a then
      let (n, s1) := s.fresh
      let s2 : State := { s1 with sch := { s1.sch with held := s1.sch.held ++ [.visit v n] } }
      .next ((s1.heldPages a v.deed.size).foldl (fun t p => t.stall p.1 p.2 n) s2)
    else .next (s.performVisit v a)

/-- Glen's answer to an attestation request, once firmware has been verified and loaded (R432, R433). -/
def execAttestationRequest (nonce : List Byte) (s : State) : Out :=
  .next (if s.sys.loaded then { s with sys := { s.sys with attest := Config.attestationAnswer s.sys.image nonce } } else s)

def execGlenConfiguration (hosts : BitVec 8) (s : State) : Out := .next { s with sys := { s.sys with devauth := hosts } }

/-! ### Power, firmware and bring-up (R8, R404, R429, R431, R433, R434) -/

/-- The package as it stands without power. Host, peer and flash memory lie outside it; flash, the generations drained there and
what Glen and the firmware hold survive, with the die map and the die links that went DOWN; the time counter does not go back (R20). -/
def State.powerOff (s : State) : State :=
  { State.reset with
    sch := { State.reset.sch with
      cycle := s.sch.cycle, clocks := s.sch.clocks, counted := s.sch.clocks, skew := 0x00000000FFFF0004, agenda := s.sch.agenda, free := s.sch.free
      nextId := s.sch.nextId, powered := false }
    mem := { State.reset.mem with cells := s.mem.cells.filter fun c => decide (2 ^ 64 ≤ c.1) }
    ckp := { State.reset.ckp with flash := s.ckp.flash }
    lnk := { State.reset.lnk with
      dieLinks := s.lnk.dieLinks.map fun (p : Nat × DieLink) => (p.1, if p.2.st = .down then p.2 else ⟨.locked, 0⟩)
      absent := s.lnk.absent, rot := s.lnk.rot, refl := s.lnk.refl }
    sys := { State.reset.sys with
      devauth := s.sys.devauth, module := s.sys.module, glenLog := s.sys.glenLog, glenSeq := s.sys.glenSeq, sensors := s.sys.sensors
      image := s.sys.image, pending := s.sys.pending, failures := s.sys.failures, recovery := s.sys.recovery
      halved := s.sys.halved, loaded := false } }

def execPowerLoss (s : State) : Out := .next s.powerOff

/-- Every 1 ms Glen reads the 64 temperatures. A die whose clock is halved keeps it so until it is below 100 °C. -/
def execGlenSensorPoll (temps : List Nat) (s : State) : Out :=
  let s1 := ({ s with sys := { s.sys with sensors := temps } } : State)
  if 1100 < hottest temps then .next (s1.glen Config.glenSelf 1 (BitVec.ofNat 64 (hottest temps))).powerOff
  else
    let slow := (List.range 8).filter fun d =>
      decide (1050 < dieTemp temps d) || (s.sys.halved.contains d && decide (1000 ≤ dieTemp temps d))
    .next (({ s1 with sys := { s1.sys with halved := slow } } : State).setAllowances)

/-- The check of an image: its last 96 bytes sign the rest under the fused key. -/
def imageSigned (image : List Byte) : Bool :=
  signatureHolds Config.fusedKey (image.take (image.length - 96)) (image.drop (image.length - 96))

/-- Glen checks an image, writes it and marks it pending; an image that fails puts Glen into RECOVERY, and one that verifies ends
it. -/
def execFirmwareImage (image : List Byte) (s : State) : Out :=
  if imageSigned image then .next { s with sys := { s.sys with pending := some image, recovery := false, failures := 0 } }
  else .next (({ s with sys := { s.sys with recovery := true } } : State).glen Config.glenSelf 2 0)

/-- What bring-up makes of the machine: every register as R434 says, no context, dies and their map as firmware fixed them, the
copies of the counter aligned on the greatest. Device memory stays as power left it (log 11). -/
def State.broughtUp (s : State) (absent : List Nat) (rot : Nat) (refl : Bool) : State :=
  let out (d : Nat) : Bool := absent.contains d
  let down (n : Nat) : Bool := if n < 8 then out n else if n < 16 then out (n - 8) || out ((n - 7) % 8) else false
  let now := s.sch.latest
  let off := s.powerOff
  { off with
    sch := { off.sch with clocks := List.replicate 13 now, counted := List.replicate 13 now, skew := 0x80000000FFFF0004, powered := true }
    mem := { off.mem with cells := s.mem.cells }
    lnk := { off.lnk with
      dieLinks := (List.range 20).map fun n => (n, if down n then ⟨.down, 4⟩ else ⟨.locked, 0⟩)
      absent := absent.filter (decide <| · < 8), rot := rot % 8, refl := refl }
    sys := { off.sys with hosts := s.sys.hosts, cxlWin := s.sys.cxlWin, image := s.sys.pending.getD s.sys.image, pending := none, failures := 0, loaded := true } }

/-- The image that bring-up activates (R431). -/
def State.activeImage (s : State) : List Byte := s.sys.pending.getD s.sys.image

/-- Step 2 verifies it. The image that the module came with, whose bytes the spec does not give, stands as the empty list (log 95). -/
def State.imageVerifies (s : State) : Bool := s.activeImage.isEmpty || imageSigned s.activeImage

/-- Bring-up stops at a step, and the failure is logged: at step 2 RECOVERY begins; from step 3 on the image has been activated, and Glen
enters RECOVERY once it has failed three times running (R431, R433). -/
def State.bringUpStops (s : State) (step : Nat) : State :=
  let s1 := if step ≤ 1 then s.glen Config.glenBringUp 0 0 else (s.glen Config.glenBringUp 1 0).glen Config.glenBringUp step 0
  let s2 := s1.powerOff
  if step ≤ 1 then s2
  else if step = 2 then { s2 with sys := { s2.sys with recovery := true } }
  else { s2 with sys := { s2.sys with
    image := s.activeImage, pending := none, failures := s.sys.failures + 1, recovery := decide (2 ≤ s.sys.failures), loaded := true } }

/-- Dies that have lost their Steppe link since the last bring-up (R333). -/
def State.lostDies (s : State) : List Nat :=
  (List.range 8).filter fun d => !s.lnk.absent.contains d && (match Table.get s.lnk.dieLinks d with | some x => x.st == .down | none => false)

/-- Bring-up. Firmware marks a die absent that has lost its Steppe link, and then keeps the map's rotation and reflection (R333). In
RECOVERY, or with an image that does not verify, step 2 fails; with no compute die left step 3 fails. -/
def execBringUp (out : List Nat) (rot0 : Nat) (refl0 : Bool) (s : State) : Out :=
  let absent := out ++ s.lostDies
  let (rot, refl) := if s.lostDies.isEmpty then (rot0, refl0) else (s.lnk.rot, s.lnk.refl)
  .next (if s.sys.recovery || !s.imageVerifies then s.bringUpStops 2
    else if (List.range 8).all absent.contains then s.bringUpStops 3
    else (s.glen Config.glenBringUp 1 0).broughtUp absent rot refl)

/-! ### Writes of device registers (R4, R421) -/

/-- A write of FWn_CTL, FWn_ELEM or FWn_SCALE. -/
def State.windowWrite (s : State) (host n r : Nat) (v : DWord) : Out :=
  let x := s.window n
  if r = 0 then
    if v.getLsbD 0 then execFormatWindowEnable host n v s
    else if x.en then execFormatWindowDisable host n s
    else
      let y := { x with ctl := v &&& 0xFFFFFFFF00000F06#64 }
      .next (if s.privileged host y.part then s.setWindow n y else s)
  else if x.en ∨ !s.privileged host x.part then .next s
  else if r = 8 then .next (s.setWindow n { x with elem := v })
  else if r = 0x10 then .next (s.setWindow n { x with scale := v })
  else .next s

/-- A write of a partition's registers. -/
def State.partWrite (s : State) (host p r : Nat) (v : DWord) : Out :=
  let x := s.part p
  let open' : Bool := s.authority host && decide (p < 12)
  if r = 0 then
    if v.getLsbD 0 then execPartitionEnable host p v s
    else if x.en then
      let s1 := if open' then s.setPart p { x with ctl := (x.ctl &&& ~~~0xFF00#64) ||| (v &&& 0xFF00#64) } else s
      execPartitionDisable host p s1
    else .next (if open' then s.setPart p { x with ctl := v &&& 0xFFFFFF00#64 } else s)
  else if r = 0x20 then execPartitionWattsWrite host p v s
  else if !open' ∨ x.en then .next s
  else if r = 8 then .next (s.setPart p { x with clu := v &&& 0xFFFFFFFFFFFF#64 })
  else if r = 0x10 then .next (s.setPart p { x with wayLo := v })
  else if r = 0x18 then .next (s.setPart p { x with wayHi := v })
  else .next s

/-- A write of QCFGn or QBASEn (R282). -/
def State.queueWrite (s : State) (host q r : Nat) (v : DWord) : Out :=
  let x := s.queue q
  let en := x.cfg.getLsbD 7
  if r = 0 then
    if en then (if v.getLsbD 7 then .next s else execQueueDisable host q s)
    else if v.getLsbD 7 then execQueueEnable host q v s
    else
      let y : Queue := { x with cfg := v &&& 0xFFFFFFFF0000005F#64 }
      .next (if s.privileged host y.part then s.setQueue q y else s)
  else if r = 8 ∧ !en ∧ s.privileged host x.part then .next (s.setQueue q { x with base := v })
  else .next s

/-- A write of LNKCTLn (R344). -/
def State.lnkctlWrite (s : State) (host n : Nat) (v : DWord) : Out :=
  match field v 2 0 with
  | 1 => execPortTrain host n v s
  | 2 => execPortDarken host n v s
  | 3 => execPortRelock host n v s
  | 4 => execPortDown host n v s
  | _ => .next (s.linkWrite host n v fun s _ => s)

/-- A write of a context's Sumac registers (R357). -/
def State.sumacWrite (s : State) (host ctx r : Nat) (v : DWord) : Out :=
  let x := s.swRegs ctx
  let put (y : SwRegs) : Out := .next { s with sum := { s.sum with regs := Table.set s.sum.regs ctx y } }
  match s.context ctx with
  | none => .next s
  | some c =>
    if r = 0 then execSumacEnable host ctx v s
    else if c.st = .tornDown ∨ !s.privileged host c.record.part ∨ x.ctl.getLsbD 0 then .next s
    else if r = 8 then put { x with base := v }
    else if r = 0x10 then put { x with size := v }
    else if r = 0x18 then put { x with inbox := v }
    else if r = 0x20 then put { x with stage := v }
    else if r = 0x28 then put { x with stageSz := v }
    else .next s

/-- Lay bytes over bytes at an offset; what passes the end is dropped. -/
def splice (l : List Byte) (off : Nat) (b : List Byte) : List Byte :=
  (l.take off ++ b ++ l.drop (off + b.length)).take l.length

/-- A write of CLVCTLp or of eight bytes of a shared rule (R377). -/
def State.cloveWrite (s : State) (host p r : Nat) (v : DWord) : Out :=
  if r = 0 then execCloveShareWrite host p v s
  else if r < 0x80 ∨ 0x2080 ≤ r then .next s
  else
    let i := (r - 0x80) / 0x80
    let old := (Table.get s.clv.shared (p * 64 + i)).getD (List.replicate 128 0)
    execSharedRuleWrite host p i (splice old ((r - 0x80) % 0x80) (leBytes 8 v.toNat)) s

/-- A write of a context's checkpoint registers (R394). -/
def State.ckWrite (s : State) (host ctx r : Nat) (v : DWord) : Out :=
  let x := s.ck ctx
  match s.context ctx with
  | none => .next s
  | some c =>
    if r = 0 then
      if v.getLsbD 0 then execCheckpointEnable host ctx v s
      else if x.en then execCheckpointDisable host ctx s
      else .next (if s.privileged host c.record.part then s.setCk ctx { x with ctl := v &&& 0xFFFFFFFF00C00006#64 } else s)
    else if r = 0x38 then
      (match field v 7 0 with
      | 1 => execReq host ctx s
      | 2 => execRestore host ctx (field v 63 8) s
      | _ => .next s)
    else if x.en ∨ !s.privileged host c.record.part then .next s
    else if r = 8 then .next (s.setCk ctx { x with job := v &&& 0xFFFFFFFF0000FFFF#64 })
    else if r = 0x10 then .next (s.setCk ctx { x with res := v })
    else if r = 0x18 then .next (s.setCk ctx { x with resSz := v })
    else if r = 0x20 then .next (s.setCk ctx { x with root := v })
    else if r = 0x28 then .next (s.setCk ctx { x with log := v })
    else if r = 0x30 then .next (s.setCk ctx { x with logSz := v })
    else .next s

/-- The bits that a write of a debug register stores; TRPTR, TRLOST, the counters and STOPCMD's status are read (R413). -/
def debugMask (r : Nat) : DWord :=
  if r = 0 then 7
  else if r = 8 ∨ r = 0x10 ∨ r = 0x40 ∨ r = 0x48 ∨ r = 0x50 then 0xFFFFFFFFFFFFFFFF
  else if 0x100 ≤ r ∧ r < 0x180 then (if r % 16 = 0 then 0xFFFFFFFFFFFFFFFF else 0x0FFF0003)
  else if 0x200 ≤ r ∧ r < 0x300 then
    (if r % 32 = 0 ∨ r % 32 = 8 then 0xFFFFFFFFFFFFFFFF else if r % 32 = 16 then 0x0FFF0017 else 0)
  else 0

/-- A write of a partition's debug registers: by a guardian of one of its contexts, or with privilege. Setting TREN starts the
record count over. -/
def State.debugWrite (s : State) (host p r : Nat) (v : DWord) : Out :=
  let guards := s.ctx.contexts.any fun c => c.2.record.part == p && c.2.guards host
  if 12 ≤ p ∨ !(s.privileged host p || guards) then .next s
  else if r = 0x58 then (if v.getLsbD 63 then execGo host p v s else .next s)
  else if debugMask r = 0 then .next s
  else
    let s1 := if r = 0 ∧ v.getLsbD 1 ∧ !(s.dbgReg p 0).getLsbD 1 then s.setDbg p 0x18 0 else s
    .next (s1.setDbg p r (v &&& debugMask r))

/-- CCMD: the command with its code (R422). -/
def State.commandWrite (s : State) (host : Nat) (v : DWord) : Out :=
  let ctx := field v 27 16
  match field v 7 0 with
  | 1 => execCreate host ctx s
  | 2 => execStart host ctx s
  | 3 => execRenew host ctx s
  | 4 => execAddg host ctx s
  | 5 => execHandover host ctx s
  | 6 => execRelease host ctx s
  | 7 => execSuspend host ctx s
  | 8 => execResume host ctx s
  | 9 => execResumeg host ctx s
  | 10 => execAdopt host ctx s
  | 11 => execTeardown host ctx s
  | 12 => execNonce host ctx s
  | 13 => execInval host ctx s
  | 14 => execEvring host ctx s
  | 15 => execEvvec host ctx s
  | _ => .next (s.command host fun s _ => (s, 2))

/-- A write of a link's command page (R422). -/
def State.cmdPageWrite (s : State) (host r : Nat) (v : DWord) : Out :=
  let p := s.page host
  let b := leBytes 8 v.toNat
  if !s.attached host then .next s
  else if r = 0 then s.commandWrite host v
  else if r = 0x50 then execEventRingHeadWrite host v s
  else if r = 8 then .next (s.setPage host { p with arg := v })
  else if r = 0x10 then .next (s.setPage host { p with arg2 := v })
  else if r = 0x60 then .next (s.setPage host { p with invVa := v })
  else if r = 0x68 then .next (s.setPage host { p with invLen := v })
  else if r = 0x70 then .next (s.setPage host { p with invCtr := v })
  else if 0x100 ≤ r ∧ r < 0x140 then .next (s.setPage host { p with msg := splice p.msg (r - 0x100) b })
  else if 0x140 ≤ r ∧ r < 0x1C0 then .next (s.setPage host { p with key := splice p.key (r - 0x140) b })
  else if 0x1C0 ≤ r ∧ r < 0x220 then .next (s.setPage host { p with sig := splice p.sig (r - 0x1C0) b })
  else .next s

/-- A write of BAR2: queue index pages, spawn pages, the command page (R279, R286, R421). -/
def State.bar2Write (s : State) (host off : Nat) (v : DWord) : Out :=
  let r := off % 4096
  if off < 0x400000 then
    if r = 0 then execWridxWrite (off / 4096) v s
    else if r = 0x18 ∧ v.getLsbD 0 then execQueueReset (off / 4096) s
    else .next s
  else if off < 0x1400000 then execSpawnWrite host ((off - 0x400000) / 4096) r (leBytes 8 v.toNat) s
  else if off / 4096 = 0x7FFF then s.cmdPageWrite host r v
  else .next s

/-- A host writes eight bytes of a device register: a register with a behaviour of its own has it; another stores its fields that
are not reserved. `off` counts through BAR0, then BAR2 from 0x400_0000. Before bring-up has finished only commands are taken, and refused
(R423). -/
def execRegisterWrite (host off : Nat) (v : DWord) (s : State) : Out :=
  if off % 8 ≠ 0 then .next s
  else if !s.sch.powered then (if off = 0xBFFF000 then s.bar2Write host 0x7FFF000 v else .next s)
  else if off < 0x4000 then .next s
  else if off < 0x4200 then s.windowWrite host ((off - 0x4000) / 0x20) (off % 0x20) v
  else if off < 0x6000 then .next s
  else if off < 0x6300 then s.partWrite host ((off - 0x6000) / 0x40) (off % 0x40) v
  else if off < 0x10000 then .next s
  else if off < 0x18000 then s.queueWrite host ((off - 0x10000) / 0x20) (off % 0x20) v
  else if off = 0x20000 then execFabcfgWrite host v s
  else if off < 0x20100 then .next s
  else if off < 0x20200 then (if off % 0x10 = 0 then s.lnkctlWrite host ((off - 0x20100) / 0x10) v else .next s)
  else if off < 0x30000 then .next s
  else if off < 0x70000 then s.sumacWrite host ((off - 0x30000) / 0x40) (off % 0x40) v
  else if off < 0x80000 then .next s
  else if off < 0xB0000 then s.cloveWrite host ((off - 0x80000) / 0x4000) (off % 0x4000) v
  else if off < 0xC0000 then .next s
  else if off < 0x100000 then s.ckWrite host ((off - 0xC0000) / 0x40) (off % 0x40) v
  else if off < 0x103000 then s.debugWrite host ((off - 0x100000) / 0x400) (off % 0x400) v
  else if off < 0x200000 then .next s
  else if off < 0x2000C0 then execFlashRangeWrite host ((off - 0x200000) / 0x10) (off % 0x10 == 8) v s
  else if off < 0x4000000 then .next s
  else s.bar2Write host (off - 0x4000000) v

end Sys2Proof.Machine
end

