-- ==== Sys2Proof/Machine/Tick.lean ====
section
/-! DEFINITION. Machine/Tick.lean: one cycle of the core clock, with every clock and timer that runs by it, and the steps that the
device can take by itself, from which the hardware chooses (log 1, log 3). -/

namespace Sys2Proof.Machine

/-! ### Timers -/

/-- Whole ns of the nominal 1 GHz that have passed after c cycles of the 3.3 GHz clock (R19; log 1). -/
def nsAt (c : Nat) : Nat := 10 * c / 33

/-- A parked group makes its team's limits stand still (R175). -/
def State.teamParked (s : State) (team : Nat) : Bool := s.run.groups.any fun p => p.2.team == team && p.2.st == .parked

def Lane.elapse (dt : Nat) (l : Lane) : Lane :=
  match l.st with
  | .stalled w => { l with st := .stalled { w with left := w.left.map (· - dt) } }
  | _ => l

/-- The timer of a lane that watches memory (R169). -/
def Lane.pollElapse (dt : Nat) (l : Lane) : Lane := { l with polled := if l.watched.isEmpty then 0 else l.polled + dt }

/-- The timers of lanes run by the copy of their die (R3, R175). -/
def State.elapseGroups (s : State) (dt : Nat → Nat) : Table Group :=
  s.run.groups.map fun (p : Nat × Group) =>
    let n := dt (dieOf p.2.core)
    let g := { p.2 with lanes := p.2.lanes.map (Lane.pollElapse n) }
    (p.1, if p.2.st = .resident ∧ !s.teamParked p.2.team then { g with lanes := g.lanes.map (Lane.elapse n) } else g)

/-- The reply timer runs while the peer's route is open (R340); a write's limit runs on a held page, once it has reached it (R362). -/
def State.accessWaits (s : State) (id : Nat) (a : Access) : Bool :=
  match a.tr with
  | some t => !a.sp && a.fault.isNone && ((t.cls == 2 && s.lnk.open t.num) ||
      (t.cls == 5 && a.kind.writes && s.heldNow a.ctx a.va && s.mem.stalls.any fun x => x.id == id))
  | none => false

def State.transferWaits (s : State) (id : Nat) (x : Transfer) : Bool :=
  !x.load && s.transferRuns id x && (List.range (x.rows * x.units)).any fun k => !x.done.contains k && s.heldNow x.ctx (x.memAt k)

def State.streamWaits (s : State) (id : Nat) (x : Stream) : Bool :=
  s.streamTurn id x && x.fault.isNone && !s.streamsStopped x.ctx && (x.heldAt (s.heldNow x.ctx)).isSome

/-- A port's clocks; a replay counts for 1 ms (R336, R352). -/
def Port.elapse (dt : Nat) (p : Port) : Port :=
  let kept := (p.replays.map fun x => (x.1 + dt, x.2)).filter fun x => decide (x.1 < 1000000)
  let repl := kept.foldl (fun n x => n + x.2) 0
  { p with
    dark := if p.st = .dark then p.dark + dt else p.dark
    train := if p.st = .training ∨ p.st = .relocking then p.train + dt else p.train
    repl := repl
    replays := kept
    clean := if p.st = .degraded ∧ repl < 5 then p.clean + dt else 0 }

def Context.elapse (dt : Nat) (c : Context) : Context :=
  { c with
    guardians := c.guardians.map fun g => { g with age := g.age + dt }
    orphan := if c.st = .orphaned ∨ (c.st = .suspended ∧ c.guardians.isEmpty) then c.orphan + dt else c.orphan }

def Stub.elapse (dt : Nat) (x : Stub) : Stub := if x.st = .active then { x with renew := x.renew + dt, quiet := x.quiet + dt } else x

def Interval.elapse (dt : Nat) (x : Interval) : Interval :=
  { x with
    clock := if x.st = .running ∨ x.st = .quiescing ∨ x.st = .snapshot then x.clock + dt else x.clock
    wait := if x.st = .quiescing ∨ x.st = .snapshot then x.wait + dt else x.wait }

/-- The timers count what the copies have gained: those of lanes by the copy of their die, the others by Steppe's, where the time master
and the ports are (R3 names the package counter, no copy of it; DESIGN CHOICE, log 1). -/
def State.countTime (s : State) : State :=
  if s.sch.clocks = s.sch.counted then s
  else
    let dt := s.sch.gained 8
    { s with
      sch := { s.sch with counted := s.sch.clocks }
      run := { s.run with
        groups := s.elapseGroups s.sch.gained
        accs := s.run.accs.map fun (p : Nat × Access) => (p.1, if s.accessWaits p.1 p.2 then { p.2 with waited := p.2.waited + dt } else p.2) }
      eng := { s.eng with
        transfers := s.eng.transfers.map fun (p : Nat × Transfer) =>
          (p.1, { p.2 with waited := if s.transferWaits p.1 p.2 then p.2.waited + dt else 0 })
        streams := s.eng.streams.map fun (p : Nat × Stream) =>
          (p.1, { p.2 with waited := if s.streamWaits p.1 p.2 then p.2.waited + dt else 0 }) }
      mem := { s.mem with
        stalls := s.mem.stalls.map fun (x : Stall) =>
          ({ x with waited := if s.heldNow x.ctx (BitVec.ofNat 64 x.page) then x.waited + dt else x.waited } : Stall) }
      ctx := { s.ctx with contexts := s.ctx.contexts.map fun (p : Nat × Context) => (p.1, p.2.elapse dt) }
      lnk := { s.lnk with
        ports := s.lnk.ports.map fun (p : Nat × Port) => (p.1, { p.2.elapse dt with blocked := if s.egressBlocked p.1 then p.2.blocked + dt else 0 })
        flows := s.lnk.flows.map fun (f : Flow) => { f with calm := if s.flits f.port f.dst f.die < 16 then f.calm + dt else 0 } }
      sum := { s.sum with
        stubs := s.sum.stubs.map fun (p : Nat × Stub) => (p.1, p.2.elapse dt)
        holds := s.sum.holds.map fun (p : Nat × Hold) => (p.1, { p.2 with age := p.2.age + dt })
        restoredLeft := s.sum.restoredLeft.map fun (p : Nat × Nat) => (p.1, p.2 - dt) }
      ckp := { s.ckp with ints := s.ckp.ints.map fun (p : Nat × Interval) => (p.1, p.2.elapse dt) } }

/-- dt ns of the clock pass. -/
def State.elapse (s : State) (dt : Nat) : State := (({ s with sch := s.sch.pass dt } : State).countTime).checkSkew

/-- A die's copy shows another nanosecond in the next cycle: what ends in this one ends now. -/
def Sched.ends (c : Sched) (die : Nat) : Bool :=
  decide ((c.pass (nsAt (c.cycle + 1) - nsAt c.cycle)).time die ≠ c.time die)

/-! ### A cycle -/

/-- The clock of a core's die stands still in this cycle: a halved clock takes every second cycle (R429). -/
def State.standsStill (s : State) (core : Nat) : Bool := s.sys.halved.contains (dieOf core) && s.sch.cycle % 2 == 1

/-- Quadrants that may issue: those with resident groups, on a die whose clock does not stand still (R12, R429). -/
def State.quadrants (s : State) : List (Nat × Nat) :=
  (s.run.groups.filterMap fun p =>
    if p.2.st = .resident ∧ !s.standsStill p.2.core then some (p.2.core, p.2.quad) else none).eraseDups

/-- The second cycle of a bundle of more than 32 lanes is over where no group is left to choose in it (R12). -/
def State.freeQuadrants (s : State) : State :=
  { s with run := { s.run with busy := s.run.busy.filter fun p => s.standsStill (p.1 / 4) || s.quadrants.contains (p.1 / 4, p.1 % 4) } }

/-- The partition of a core withholds issue in this cycle (R295): `odd` is the hardware's choice. -/
def State.throttles (s : State) (core : Nat) (odd : Bool) : Bool :=
  odd && s.ker.energy.any fun p => s.overdrawn p.1 && (s.clusters p.1).contains (core / 4)

/-- Leases that have run out, and orphan limits reached: they come before anything else of the same nanosecond (R301, R302). -/
def State.limits (s : State) : List Due :=
  s.ctx.contexts.flatMap fun p =>
    (p.2.guardians.filterMap fun g => if p.2.record.leaseNs ≤ g.age then some (Due.row (.leaseExpiry p.1 g.host)) else none) ++
    (match p.2.record.limitNs with | some n => if n ≤ p.2.orphan then [Due.row (.orphanLimit p.1)] else [] | none => [])

/-- Groups that stand on their cores, by core and group slot (R163). -/
def State.inOrder (s : State) : List (Nat × Group) :=
  let le (x y : Nat × Group) : Bool := decide (x.2.core * 64 + x.2.slot ≤ y.2.core * 64 + y.2.slot)
  let insert (l : List (Nat × Group)) (x : Nat × Group) : List (Nat × Group) := l.takeWhile (le · x) ++ x :: l.dropWhile (le · x)
  (s.run.groups.filter fun p => p.2.st == .resident || p.2.st == .parked).foldl insert []

/-- One entry for each lane of the standing groups, in order. -/
def State.eachLane {α : Type} (s : State) (f : Nat → Group → Nat → Lane → List α) : List α :=
  s.inOrder.flatMap fun p => (p.2.lanes.mapIdx fun k l => f p.1 p.2 k l).flatten

/-- Lanes with an arrival that is not recorded yet. -/
def State.arriving (s : State) : List (Nat × Mask) :=
  s.eachLane fun gid _ k l => match l.st with
    | .stalled w => (match w.kind with | .arrive .. => [(gid, laneMask [k])] | _ => [])
    | _ => []

/-- How a cycle ends: watched host and fabric values whose 2 µs have passed are read; every wait whose condition holds ends, with
the others of its phase; sleepers wake; and in the last cycle of a nanosecond the limits that have run out expire, so that a
save of the same cycle comes first, and completion before expiry in the same nanosecond (R123, R167, R169, R170, R174 to R176). -/
def State.settling (s : State) : List Due :=
  let polls := s.eachLane fun gid _ k l => if 2000 ≤ l.polled then [Due.row (.monitorPoll gid k)] else []
  let waits := s.eachLane fun gid g k l => match l.st with
    | .stalled w => (match w.kind with | .arrive .. | .tile _ => [] | _ => [Due.row (.waitSatisfied gid k)])
    | .sleeping wake => if wake.toNat ≤ (s.ptime g).toNat ∨ (s.loggedSleep g k).isSome then [Due.row (.sleepWake gid k)] else []
    | _ => []
  let limits := s.eachLane fun gid g k l => match l.st with
    | .stalled w => if w.left = some 0 ∧ g.st = .resident ∧ s.sch.ends (dieOf g.core) then [Due.row (.waitLimitExpired gid k)] else []
    | _ => []
  polls ++ waits ++ limits

/-- Who writes again once it has stalled for HOLDLIM: it ends there with PAGE_HELD (R276, R291, R297, R362, R385, R425). -/
def State.overdueDues (s : State) : List Due :=
  (s.mem.stalls.filter fun x => s.overdue x.ctx (BitVec.ofNat 64 x.page) x.id).flatMap fun x =>
    (if (Table.get s.ker.kernels x.id).isSome then [Due.kernelRead x.id, .row (.kernelFlushComplete x.id)] else []) ++
    (if (Table.get s.run.teams x.id).isSome then [Due.row (.teamRetire x.id)] else []) ++
    (match s.ker.records.findIdx? fun r => r.id == x.id with | some n => [Due.recordWrite n] | none => []) ++
    (match Table.get s.clv.iters x.id with | some i => [Due.cloveIteration (i.handle.toNat % 65536)] | none => []) ++
    (if s.sch.held.any (fun d => d.waiter == some x.id) then [Due.holdLimit x.id] else [])

/-- Timers of accesses, engines, ports, stubs, holds and boundaries that have run out (R230, R237, R336, R340, R362, R364, R396, R397,
R401, R405). -/
def State.expiries (s : State) : List Due :=
  (s.run.accs.flatMap fun p => if p.2.waited = 0 then [] else [Due.row (.replyTimerExpiry p.1), Due.holdLimit p.1]) ++
  (s.eng.transfers.filterMap fun p => if p.2.waited = 0 then none else some (Due.holdLimit p.1)) ++
  (s.eng.streams.filterMap fun p => if p.2.waited = 0 then none else some (Due.holdLimit p.1)) ++
  s.overdueDues ++
  (s.lnk.ports.flatMap fun p =>
    (if p.2.st = .locked ∧ 64 < p.2.repl then [Due.row (.portDegrade p.1 false)] else []) ++
    (if p.2.st = .dark ∧ p.2.limitNs ≤ p.2.dark then [Due.row (.darkLimit p.1)] else []) ++
    (if (p.2.st = .training ∨ p.2.st = .relocking) ∧ 10000000 ≤ p.2.train then [Due.row (.portTrainingFailed p.1)] else [])) ++
  (s.lnk.ports.flatMap fun p => (s.queued p.1).eraseDups.filterMap fun x =>
    if s.congesting p.1 x.1 x.2 then some (Due.row (.flowCongested p.1 s.lnk.fdev x.1 x.2)) else none) ++
  (s.lnk.flows.filterMap fun f =>
    if f.src = s.lnk.fdev ∧ 20000 ≤ f.calm then some (Due.row (.flowReleased f.port f.src f.dst f.die)) else none) ++
  (s.sum.stubs.filterMap fun p => if p.2.st = .active ∧ 1000000000 ≤ p.2.quiet then some (Due.renewalTimeout p.1) else none) ++
  (s.sum.stubs.filterMap fun p => if p.2.st = .active ∧ 100000000 ≤ p.2.renew then some (Due.holdRenewal p.1) else none) ++
  (s.sum.holds.filterMap fun p => if 1000000000 ≤ p.2.age then some (Due.holdExpiry p.1) else none) ++
  (s.sum.restoredLeft.filterMap fun p => if p.2 = 0 then some (Due.restoredHoldWindow p.1) else none) ++
  (s.ckp.ints.flatMap fun p => match p.2.st with
    | .running => [Due.boundaryBegin p.1, .quiesce p.1]
    | .quiescing | .snapshot => if 1000000000 ≤ p.2.wait then [Due.generationDiscard p.1] else []
    | _ => [])

/-- One cycle: time passes, limits of contexts come before what stands on the agenda, then timers, at each multiple of 8 the regroup windows, and each quadrant with resident groups
chooses (R12, R144, R148). A regroup window is 8 undivided core cycles on a die whose arithmetic clock is halved too (R429 does not
say; DESIGN CHOICE, log 31). -/
def State.tick (s : State) : State :=
  let c := s.sch.cycle + 1
  let s1 := s.freeQuadrants.elapse (nsAt c - nsAt s.sch.cycle)
  let (n, s2) := if s1.ker.energy.any fun p => s1.overdrawn p.1 then s1.draw else (0, s1)
  let windows := if c % 8 = 0 then s2.run.groups.map fun p => Due.row (.regroupWindow p.1) else []
  let quads := s2.quadrants.map fun q => Due.row (.quadrantIssue q.1 q.2 (s2.throttles q.1 (n % 2 == 1)))
  { s2 with sch := { s2.sch with
    cycle := c, agenda := s2.limits ++ s2.sch.agenda ++ s2.expiries ++ windows ++ quads, latch := s2.sch.latch ++ s2.arriving } }

/-! ### What the device may do by itself -/

/-- Of a lane that watches memory: a spurious fire, and a read of the value (R169). -/
def laneDue (gid k : Nat) (l : Lane) : List Due :=
  (if l.monitor.st = .armed then [Due.row (.monitorFire gid k)] else []) ++
  (if l.watched.isEmpty then [] else [Due.row (.monitorPoll gid k)])

def State.laneDues (s : State) : List Due :=
  (s.eachLane fun gid _ k l => laneDue gid k l) ++
  s.run.groups.flatMap fun p =>
    if p.2.st = .inTransit then [Due.row (.migrateLand p.1 p.2.core p.2.quad)] else []

/-- Of an access, by its state (R177). -/
def accessDue (id : Nat) (a : Access) : List Due :=
  if a.fault.isSome then [Due.row (.accessFaulted id)]
  else match a.st with
    | .queued => [Due.row (.accessBound id), .row (.accessCombined id), .row (.accessPerformed id)]
    | .bound => [Due.row (.accessDone id)]
    | .combined => [Due.row (.accessPerformed id)]
    | .performed => [Due.row (.accessAcknowledged id)]
    | .refused => [Due.row (.accessDropped id)]

def State.memoryDues (s : State) : List Due :=
  (s.run.accs.flatMap fun p => accessDue p.1 p.2) ++
  (s.run.pend.filterMap fun p => if p.2.remote then none else some (Due.row (.resultWriteback p.1))) ++
  (s.mem.walks.flatMap fun p => [Due.row (.walkComplete p.1)] ++ if p.2.read.isNone then [Due.walkRead p.1] else []) ++
  (s.mem.invals.map fun p => Due.row (.invalComplete p.1)) ++
  (s.mem.views.filterMap fun v => if v.dirty then some (Due.row (.viewBlockWriteback v.win v.blk)) else none)

/-- Of the engines; `m` chooses among a transfer's units, pieces and words. Work that waits for service goes on only as its page becomes
valid: the guardian's refusal is a message, and comes from outside (log 83). -/
def State.engineDues (s : State) (m : Nat) : List Due :=
  (s.eng.transfers.flatMap fun p =>
    let n := p.2.rows * p.2.units
    if p.2.fault.isSome then [Due.row (.transferResume p.1)]
    else [Due.row (.transferUnitPerformed p.1 (m % n)), .engineWord p.1 (m % (16 * n)), .row (.transferError p.1)]) ++
  (s.eng.streams.flatMap fun p =>
    if p.2.fault.isSome then [Due.row (.transferResume p.1)]
    else [Due.streamPiece p.1 (m % p.2.count), .engineWord p.1 (m % (p.2.len / 4)), .row (.streamerTransferComplete p.1),
      .row (.streamerFault p.1)]) ++
  (s.eng.channels.flatMap fun p => match p.2.st with
    | .walking => [Due.row (.chainRecordRead (p.1 / 16) (p.1 % 16))]
    | .waiting => [Due.row (.chainWake (p.1 / 16) (p.1 % 16))]
    | _ => []) ++
  (s.eng.tileOps.flatMap fun p => match p.2.kind with
    | .mma _ _ _ _ _ _ =>
      [Due.engineWord p.1 (m % 262144), .row (.mmaStart p.1), .row (.mmaRetire p.1), .row (.mmaAbort p.1)]
    | _ => [Due.row (.tileOpPerformed p.1)])

/-- Of kernels, queues and teams; `m` chooses a core, and quadrants are chosen by further draws. -/
def State.kernelDues (s : State) (m : Nat) : List Due :=
  let core := m % Config.cores
  (s.ker.kernels.flatMap fun p => match p.2.st with
    | .accepted => [Due.kernelRead p.1]
    | .dispatching =>
      [Due.row (.teamDispatch p.1 core (s.someQuads core p.2.hdr p.2.hdr.x1 []).1), .kernelRead p.1, .visitEnd p.2.part]
    | .flushing => [Due.row (.kernelFlushComplete p.1)]
    | .running => []) ++
  (List.range s.ker.records.length).map Due.recordWrite ++
  (s.ker.queues.filterMap fun p =>
    if (p.2.st == .active || p.2.st == .waiting) && p.2.pending != 0 then some (Due.row (.recordTake p.1)) else none) ++
  (s.run.teams.flatMap fun p =>
    (if p.2.retiring then [Due.row (.teamRetire p.1)] else []) ++
    match Table.get s.ker.kernels p.2.kernel with
      | some k =>
        let h : Header := { k.hdr with xs := p.2.groups.length :: k.hdr.xs.drop 1 }
        if p.2.saved then [Due.row (.teamRestore p.1 core (s.someQuads core h p.2.groups.length []).1)]
        else if s.dispatches k.ctx then [] else [Due.row (.teamPreempt p.1)]
      | none => [])

/-- Of contexts and intervals; `m` chooses a granule. -/
def State.contextDues (s : State) (m : Nat) : List Due :=
  (s.ctx.contexts.flatMap fun p =>
    (if p.2.suspending then [Due.row (.suspensionComplete p.1)] else []) ++
    (if p.2.tearing then [Due.row (.teardownComplete p.1)] else [])) ++
  (s.ckp.ints.flatMap fun p => if p.2.toLog.isEmpty then [] else [Due.logWrite p.1]) ++
  (s.ckp.ints.flatMap fun p => match p.2.st with
    | .running => [Due.flashDrain p.1]
    | .quiescing => [Due.fencePlace p.1, .drained p.1 (s.rank p.1)]
    | .snapshot =>
      (if p.2.marked.isEmpty then [Due.unitWrite p.1 p.2.written, .prepared p.1] else [Due.granuleCopy p.1 (p.2.marked.getD (m % p.2.marked.length) 0)]) ++
      [Due.flashDrain p.1]
    | .replaying => [Due.debugStopReached (s.partOf p.1), .replayEnd p.1]
    | _ => [])

/-- Of links, Sumac and Clove. -/
def State.linkDues (s : State) : List Due :=
  (s.lnk.ports.flatMap fun p =>
    (if p.2.st = .degraded then [Due.row (.portRecover p.1)] else []) ++
    (if p.2.st = .locked ∨ p.2.st = .degraded then
      (List.range 4).filterMap fun k =>
        if p.2.alw.getD k 0 < fullGrant.getD k 0 then some (Due.row (.allowanceReturn p.1 k)) else none
     else [])) ++
  (s.lnk.markers.filterMap fun p => if p.2.done then none else some (Due.row (.drainMarkerComplete p.1))) ++
  (s.sum.stubs.flatMap fun p =>
    if s.local p.2.origin then
      p.2.pulling.map fun t => if (Table.get s.sum.holds p.2.hold).isSome then Due.pullServe p.2.hold t else Due.lostMessage p.1
     else []) ++
  ((s.clv.iters.filter fun p => p.2.answer.isNone).map fun p => Due.cloveIteration (p.2.handle.toNat % 65536)).eraseDups

/-- Every step that the device may take next. Some change nothing when their moment has not come; no order is given among them
(R18). -/
def State.dues (s : State) (m : Nat) : List Due :=
  s.laneDues ++ s.memoryDues ++ s.engineDues m ++ s.kernelDues m ++ s.contextDues m ++ s.linkDues

end Sys2Proof.Machine
end

