-- ==== Sys2Proof/Machine/Choose.lean ====
section
/-! DEFINITION. Machine/Choose.lean: which bundle a quadrant chooses in a cycle: readiness, with the waits that an instruction meets at
issue, and the counting of the cycle (R12, R145, R148, R158, R159, R163, R242). -/

namespace Sys2Proof.Machine

/-! ### Waits at issue (R159) -/

/-- The meaning of an instruction that may have to wait at issue; the others never do. -/
def mayWait (i : Instr) (s : State) : Option Out :=
  match i with
  | .ld h t scaled hint ord sc d m => some (execLd h t scaled hint ord sc d m s)
  | .ldw h t scaled hint ord sc d m => some (execLdw h t scaled hint ord sc d m s)
  | .st h t scaled hint ord sc d m => some (execSt h t scaled hint ord sc d m s)
  | .lds h t scaled ord sc d m => some (execLds h t scaled ord sc d m s)
  | .sts h t scaled ord sc d m => some (execSts h t scaled ord sc d m s)
  | .atom h op t ord sc d m => some (execAtom h op t ord sc d m s)
  | .atoms h op t ord sc d m => some (execAtoms h op t ord sc d m s)
  | .red h op t ord sc d m => some (execRed h op t ord sc d m s)
  | .monarm h w64 ord sc d m => some (execMonarm h w64 ord sc d m s)
  | .ldmon h w64 ord sc d m => some (execLdmon h w64 ord sc d m s)
  | .ready h sc a b c => some (execReady h sc a b c s)
  | .fence h ord sc => some (execFence h ord sc s)
  | .btl h hint rel d a b c e => some (execBtl h hint rel d a b c e s)
  | .bts h hint rel d a b c e => some (execBts h hint rel d a b c e s)
  | .tclr h a => some (execTclr h a s)
  | .strq h hint rel sfl dfl d a b c e => some (execStrq h hint rel sfl dfl d a b c e s)
  | .tzero h all d => some (execTzero h all d s)
  | .mma h k rel d a b c e => some (execMma h k rel d a b c e s)
  | .tld h hint ord sc d a b => some (execTld h hint ord sc d a b s)
  | .tldSp h d b => some (execTldSp h d b s)
  | .tst h hint ord sc d a b => some (execTst h hint ord sc d a b s)
  | .tsts h d b => some (execTsts h d b s)
  | .qnt h col d b => some (execQnt h col d b s)
  | .spawn h sc a b c => some (execSpawn h sc a b c s)
  | .qpost h sc d a b e => some (execQpost h sc d a b e s)
  | .svc h d a b c => some (execSvc h d a b c s)
  | .tfirst h d a e => some (execTfirst h d a e s)
  | .migrate h tr d a => some (execMigrate h tr d a s)
  | .dsend h d a b c e => some (execDsend h d a b c e s)
  | .sqbind h d a b => some (execSqbind h d a b s)
  | .sqtok h draft rel d a b e => some (execSqtok h draft rel d a b e s)
  | .sqconf h rel d a b => some (execSqconf h rel d a b s)
  | .sqrej h d a => some (execSqrej h d a s)
  | .sqrule h d a b c => some (execSqrule h d a b c s)
  | .sqclose h a => some (execSqclose h a s)
  | _ => none

/-- The reason under which the instruction at a bundle's PC would wait at issue now, and the state in which its attempt leaves the
machine: the access number from which it need not wait (R203), and pulls that it starts. -/
def State.attempt (s : State) (gid : Nat) (g : Group) (m : Mask) : Option (Nat × State) :=
  let pc := (g.lane (lowest m)).pc
  match s.fetchLine (s.ctxOf g) pc with
  | .error _ => none
  | .ok line =>
    let w := lineSlot line (field pc 2 0)
    if !lineParity line || !legalWord line w g.width || beyond (s.declared g).1 (s.declared g).2 w ||
        (!s.passes gid pc && (s.pcHit (s.ctxOf g) pc).isSome) then none
    else match decode w with
      | .error _ => none
      | .ok ins =>
        let i : Issue := ⟨gid, m, pc, pc, w, false, false, none, false, none⟩
        match mayWait ins { s with sch := { s.sch with issue := some i } } with
        | some (.next t) =>
          (t.sch.issue.bind fun j => j.held).map fun r => (r, { t with sch := { t.sch with issue := none } })
        | _ => none

def Group.blockBundle (g : Group) (m : Mask) (r : Option Nat) : Group :=
  { g with bundles := g.bundles.map fun b => if b.lanes = m then { b with blocked := r } else b }

/-- One bundle of a group meets the wait that its instruction has at issue, if it is ready otherwise (R145, R148). -/
def State.meetWait (s : State) (gid : Nat) (m : Mask) : State :=
  let s1 := s.updGroup gid fun g => g.blockBundle m none
  match s1.group gid with
  | none => s1
  | some g =>
    match g.bundles.find? fun b => b.lanes == m with
    | none => s1
    | some b =>
      if (s1.stallOf gid g b).isSome then s1
      else match s1.attempt gid g m with
        | some (r, t) => t.updGroup gid fun g => g.blockBundle m (some r)
        | none => s1

/-- Every bundle of a quadrant's resident groups. -/
def State.meetWaits (s : State) (core quad : Nat) : State :=
  let bundles := s.run.groups.flatMap fun p =>
    if p.2.core = core ∧ p.2.quad = quad ∧ p.2.st = .resident then p.2.bundles.map fun b => (p.1, b.lanes) else []
  bundles.foldl (fun t x => t.meetWait x.1 x.2) s

/-! ### The choice (R148) -/

/-- Groups that issue in this cycle: the one that has gone longest without issuing on the quadrant, then the lowest slot;
beside a bundle of at most 16 lanes that issues one instruction, the next such bundle of another group (R148). That second bundle
may itself issue a pair: R148 asks a single instruction of the first alone, and R56 pairs wherever it may, though R11 lists no form
of a bundle beside a pair (DESIGN CHOICE, log 80). -/
def State.choose (s : State) (core quad : Nat) : List (Nat × Mask) :=
  let offers := s.run.groups.filterMap fun p =>
    if p.2.core = core ∧ p.2.quad = quad ∧ p.2.st = .resident then (s.offer p.1 p.2).map fun b => (p.1, p.2, b) else none
  let le (a b : Nat × Group × Bundle) : Bool :=
    decide (a.2.1.lastIssue < b.2.1.lastIssue) || (a.2.1.lastIssue == b.2.1.lastIssue && decide (a.2.1.slot ≤ b.2.1.slot))
  match pick le offers with
  | none => []
  | some x =>
    let small (y : Nat × Group × Bundle) : Bool := decide (popMask y.2.2.lanes ≤ 16)
    let pc := (x.2.1.lane (lowest x.2.2.lanes)).pc
    let pair := match s.fetchLine (s.ctxOf x.2.1) pc with | .ok l => pairsAt l (field pc 2 0) x.2.1.width | .error _ => false
    let more := if small x && !pair then
        (match pick le (offers.filter fun y => y.1 != x.1 && small y) with | some y => [(y.1, y.2.2.lanes)] | none => [])
      else []
    (x.1, x.2.2.lanes) :: more

/-- Count one cycle of a resident group (R158, R416). -/
def State.countIssue (s : State) (gid : Nat) (g : Group) : State :=
  (s.updGroup gid fun h => { h with issued := h.issued + 1 }).count (s.ctxOf g) 0 1

def State.countStall (s : State) (gid : Nat) (g : Group) (r : Nat) : State :=
  (s.updGroup gid fun h => { h with stalls := h.stalls.modify r (· + 1) }).count (s.ctxOf g) (1 + r) 1

/-- Where a group's bundle stands among those of one cycle: by core, group slot and lane (R163, R242). -/
def State.latchPlace (s : State) (x : Nat × Mask) : Nat :=
  match s.group x.1 with | some g => (g.core * 64 + g.slot) * 64 + lowest x.2 | none => 0

/-- Put a bundle in its place among those that issue in this cycle. -/
def State.queueBundle (s : State) (x : Nat × Mask) : List (Nat × Mask) → List (Nat × Mask)
  | [] => [x]
  | y :: r => if s.latchPlace y ≤ s.latchPlace x then y :: s.queueBundle x r else x :: y :: r

/-- One cycle of a quadrant: it chooses ready bundles, each resident group counts the cycle, and the chosen bundles issue
next (R12, R148, R158). `throttled` says that the energy throttle withholds the issue (R295). -/
def execQuadrantIssue (core quad : Nat) (throttled : Bool) (s0 : State) : Out :=
  let s := s0.meetWaits core quad
  let q := core * 4 + quad
  let second := Table.get s.run.busy q
  let picks := if second.isSome || throttled then [] else s.choose core quad
  let here := s.run.groups.filter fun p => p.2.core == core && p.2.quad == quad && p.2.st == .resident
  let counted := here.foldl (fun t p =>
    if second == some p.1 then (t.countIssue p.1 p.2).updGroup p.1 fun g => { g with lastIssue := s.sch.cycle }
    else if picks.any fun x => x.1 == p.1 then t.countIssue p.1 p.2
    else if (s.offer p.1 p.2).isSome then t.countStall p.1 p.2 (if throttled then 14 else 13)
    else t.countStall p.1 p.2 (s.idleReason p.1 p.2)) s
  let wide := picks.filter fun x => decide (32 < popMask x.2)
  let busy := wide.foldl (fun b x => Table.set b q x.1) (Table.del counted.run.busy q)
  let latch := picks.foldl (fun l x => counted.queueBundle x l) counted.sch.latch
  .next { counted with run := { counted.run with busy := busy }, sch := { counted.sch with latch := latch } }

end Sys2Proof.Machine
end

