-- ==== Sys2Proof/Machine/Dispatch.lean ====
section
/-! DEFINITION. Machine/Dispatch.lean: one arm per constructor of Instr, each the call of its meaning. -/

namespace Sys2Proof.Machine

def exec (i : Instr) (s : State) : Host.Outcome State Fault Refusal :=
  match i with
  | .nop => Sys2Proof.Machine.execNop s
  | .mov h t d a => Sys2Proof.Machine.execMov h t d a s
  | .movi h k d imm => Sys2Proof.Machine.execMovi h k d imm s
  | .sel h t d a b c => Sys2Proof.Machine.execSel h t d a b c s
  | .iadd h t sat d a b => Sys2Proof.Machine.execIadd h t sat d a b s
  | .isub h t sat d a b => Sys2Proof.Machine.execIsub h t sat d a b s
  | .iaddc h t d a b c e => Sys2Proof.Machine.execIaddc h t d a b c e s
  | .imul h t sat d a b => Sys2Proof.Machine.execImul h t sat d a b s
  | .imulh h t d a b => Sys2Proof.Machine.execImulh h t d a b s
  | .imad h t wide sat d a b c => Sys2Proof.Machine.execImad h t wide sat d a b c s
  | .idiv h t d a b e => Sys2Proof.Machine.execIdiv h t d a b e s
  | .imin h t d a b => Sys2Proof.Machine.execImin h t d a b s
  | .imax h t d a b => Sys2Proof.Machine.execImax h t d a b s
  | .iabs h t sat d a => Sys2Proof.Machine.execIabs h t sat d a s
  | .ineg h t sat d a => Sys2Proof.Machine.execIneg h t sat d a s
  | .icmp h t cc op d a b c => Sys2Proof.Machine.execIcmp h t cc op d a b c s
  | .and h t d a b => Sys2Proof.Machine.execAnd h t d a b s
  | .or h t d a b => Sys2Proof.Machine.execOr h t d a b s
  | .xor h t d a b => Sys2Proof.Machine.execXor h t d a b s
  | .not h t d a => Sys2Proof.Machine.execNot h t d a s
  | .bool3 h t d a b c e => Sys2Proof.Machine.execBool3 h t d a b c e s
  | .shl h t d a b => Sys2Proof.Machine.execShl h t d a b s
  | .shr h t d a b => Sys2Proof.Machine.execShr h t d a b s
  | .sar h t d a b => Sys2Proof.Machine.execSar h t d a b s
  | .rot h t right d a b => Sys2Proof.Machine.execRot h t right d a b s
  | .fsh h t left d a b c => Sys2Proof.Machine.execFsh h t left d a b c s
  | .popc h t d a => Sys2Proof.Machine.execPopc h t d a s
  | .clz h t d a => Sys2Proof.Machine.execClz h t d a s
  | .ctz h t d a => Sys2Proof.Machine.execCtz h t d a s
  | .brev h t d a => Sys2Proof.Machine.execBrev h t d a s
  | .bfx h t d a b c => Sys2Proof.Machine.execBfx h t d a b c s
  | .bfi h t d a b c e => Sys2Proof.Machine.execBfi h t d a b c e s
  | .lea h t k d a b => Sys2Proof.Machine.execLea h t k d a b s
  | .pbool h d a b c e => Sys2Proof.Machine.execPbool h d a b c e s
  | .pmovGet h d => Sys2Proof.Machine.execPmovGet h d s
  | .pmovPut h a b => Sys2Proof.Machine.execPmovPut h a b s
  | .srd h t d a => Sys2Proof.Machine.execSrd h t d a s
  | .swr h t d a => Sys2Proof.Machine.execSwr h t d a s
  | .fadd h rm d a b => Sys2Proof.Machine.execFadd h rm d a b s
  | .fsub h rm d a b => Sys2Proof.Machine.execFsub h rm d a b s
  | .fmul h rm d a b => Sys2Proof.Machine.execFmul h rm d a b s
  | .ffma h rm d a b c => Sys2Proof.Machine.execFfma h rm d a b c s
  | .fmin h t d a b => Sys2Proof.Machine.execFmin h t d a b s
  | .fmax h t d a b => Sys2Proof.Machine.execFmax h t d a b s
  | .fabs h t d a => Sys2Proof.Machine.execFabs h t d a s
  | .fneg h t d a => Sys2Proof.Machine.execFneg h t d a s
  | .fcmp h cc op d a b c => Sys2Proof.Machine.execFcmp h cc op d a b c s
  | .fclass h d a => Sys2Proof.Machine.execFclass h d a s
  | .frnd h rm x d a => Sys2Proof.Machine.execFrnd h rm x d a s
  | .fscale h rm d a b => Sys2Proof.Machine.execFscale h rm d a b s
  | .pkadd h t rm d a b => Sys2Proof.Machine.execPkadd h t rm d a b s
  | .pkmul h t rm d a b => Sys2Proof.Machine.execPkmul h t rm d a b s
  | .pkfma h t rm d a b c => Sys2Proof.Machine.execPkfma h t rm d a b c s
  | .fdot2 h t rm d a b c => Sys2Proof.Machine.execFdot2 h t rm d a b c s
  | .cvt h dt st rm sat hi d a b => Sys2Proof.Machine.execCvt h dt st rm sat hi d a b s
  | .cvtlEnc h d a b => Sys2Proof.Machine.execCvtlEnc h d a b s
  | .cvtlDec h rm d a b => Sys2Proof.Machine.execCvtlDec h rm d a b s
  | .cvtlScale h d a => Sys2Proof.Machine.execCvtlScale h d a s
  | .rcp h d a => Sys2Proof.Machine.execRcp h d a s
  | .rsq h d a => Sys2Proof.Machine.execRsq h d a s
  | .sqrt h rm d a => Sys2Proof.Machine.execSqrt h rm d a s
  | .ex2 h d a => Sys2Proof.Machine.execEx2 h d a s
  | .lg2 h d a => Sys2Proof.Machine.execLg2 h d a s
  | .rred h d a => Sys2Proof.Machine.execRred h d a s
  | .sint h d a => Sys2Proof.Machine.execSint h d a s
  | .cost h d a => Sys2Proof.Machine.execCost h d a s
  | .tanh h d a => Sys2Proof.Machine.execTanh h d a s
  | .shfl h m seg w64 d a b c e => Sys2Proof.Machine.execShfl h m seg w64 d a b c e s
  | .bcast h first w64 d a b c => Sys2Proof.Machine.execBcast h first w64 d a b c s
  | .ballot h d a => Sys2Proof.Machine.execBallot h d a s
  | .vote h k d a => Sys2Proof.Machine.execVote h k d a s
  | .matchv h same w64 d a e => Sys2Proof.Machine.execMatchv h same w64 d a e s
  | .elect h d e => Sys2Proof.Machine.execElect h d e s
  | .gred h op t md d a => Sys2Proof.Machine.execGred h op t md d a s
  | .gscan h op t excl md d a c => Sys2Proof.Machine.execGscan h op t excl md d a c s
  | .active h grp d => Sys2Proof.Machine.execActive h grp d s
  | .meet h k a b => Sys2Proof.Machine.execMeet h k a b s
  | .join h => Sys2Proof.Machine.execJoin h s
  | .bra h loff slot => Sys2Proof.Machine.execBra h loff slot s
  | .brx h a => Sys2Proof.Machine.execBrx h a s
  | .call h d loff slot => Sys2Proof.Machine.execCall h d loff slot s
  | .callx h d a => Sys2Proof.Machine.execCallx h d a s
  | .ret h a => Sys2Proof.Machine.execRet h a s
  | .exit h => Sys2Proof.Machine.execExit h s
  | .trap h imm => Sys2Proof.Machine.execTrap h imm s
  | .tret h => Sys2Proof.Machine.execTret h s
  | .region h => Sys2Proof.Machine.execRegion h s
  | .sleep h a => Sys2Proof.Machine.execSleep h a s
  | .bara h sc d a b => Sys2Proof.Machine.execBara h sc d a b s
  | .barw h sc a b c e => Sys2Proof.Machine.execBarw h sc a b c e s
  | .bars h sc a b c e => Sys2Proof.Machine.execBars h sc a b c e s
  | .monarm h w64 ord sc d m => Sys2Proof.Machine.execMonarm h w64 ord sc d m s
  | .waitmon h d a => Sys2Proof.Machine.execWaitmon h d a s
  | .waitc h ord sc d m => Sys2Proof.Machine.execWaitc h ord sc d m s
  | .ready h sc a b c => Sys2Proof.Machine.execReady h sc a b c s
  | .ldmon h w64 ord sc d m => Sys2Proof.Machine.execLdmon h w64 ord sc d m s
  | .ld h t scaled hint ord sc d m => Sys2Proof.Machine.execLd h t scaled hint ord sc d m s
  | .ldw h t scaled hint ord sc d m => Sys2Proof.Machine.execLdw h t scaled hint ord sc d m s
  | .st h t scaled hint ord sc d m => Sys2Proof.Machine.execSt h t scaled hint ord sc d m s
  | .lds h t scaled ord sc d m => Sys2Proof.Machine.execLds h t scaled ord sc d m s
  | .sts h t scaled ord sc d m => Sys2Proof.Machine.execSts h t scaled ord sc d m s
  | .atom h op t ord sc d m => Sys2Proof.Machine.execAtom h op t ord sc d m s
  | .atoms h op t ord sc d m => Sys2Proof.Machine.execAtoms h op t ord sc d m s
  | .red h op t ord sc d m => Sys2Proof.Machine.execRed h op t ord sc d m s
  | .fence h ord sc => Sys2Proof.Machine.execFence h ord sc s
  | .pref h lv scaled hint m => Sys2Proof.Machine.execPref h lv scaled hint m s
  | .probe h d m => Sys2Proof.Machine.execProbe h d m s
  | .advise h adv d m => Sys2Proof.Machine.execAdvise h adv d m s
  | .btl h hint rel d a b c e => Sys2Proof.Machine.execBtl h hint rel d a b c e s
  | .bts h hint rel d a b c e => Sys2Proof.Machine.execBts h hint rel d a b c e s
  | .twany h d a b e => Sys2Proof.Machine.execTwany h d a b e s
  | .twall h d a b e => Sys2Proof.Machine.execTwall h d a b e s
  | .tfirst h d a e => Sys2Proof.Machine.execTfirst h d a e s
  | .tclr h a => Sys2Proof.Machine.execTclr h a s
  | .strq h hint rel sfl dfl d a b c e => Sys2Proof.Machine.execStrq h hint rel sfl dfl d a b c e s
  | .strch h d a b => Sys2Proof.Machine.execStrch h d a b s
  | .tzero h all d => Sys2Proof.Machine.execTzero h all d s
  | .mma h k rel d a b c e => Sys2Proof.Machine.execMma h k rel d a b c e s
  | .mcommit h d => Sys2Proof.Machine.execMcommit h d s
  | .mwait h a => Sys2Proof.Machine.execMwait h a s
  | .tld h hint ord sc d a b => Sys2Proof.Machine.execTld h hint ord sc d a b s
  | .tldSp h d b => Sys2Proof.Machine.execTldSp h d b s
  | .tst h hint ord sc d a b => Sys2Proof.Machine.execTst h hint ord sc d a b s
  | .tsts h d b => Sys2Proof.Machine.execTsts h d b s
  | .qnt h col d b => Sys2Proof.Machine.execQnt h col d b s
  | .tstat h clr d a => Sys2Proof.Machine.execTstat h clr d a s
  | .spawn h sc a b c => Sys2Proof.Machine.execSpawn h sc a b c s
  | .qpost h sc d a b e => Sys2Proof.Machine.execQpost h sc d a b e s
  | .svc h d a b c => Sys2Proof.Machine.execSvc h d a b c s
  | .svcw h d a => Sys2Proof.Machine.execSvcw h d a s
  | .ctxq h d a => Sys2Proof.Machine.execCtxq h d a s
  | .migrate h tr d a => Sys2Proof.Machine.execMigrate h tr d a s
  | .drain h d a b => Sys2Proof.Machine.execDrain h d a b s
  | .lkq h d a b => Sys2Proof.Machine.execLkq h d a b s
  | .dsend h d a b c e => Sys2Proof.Machine.execDsend h d a b c e s
  | .ddrop h a => Sys2Proof.Machine.execDdrop h a s
  | .dpull h wait a b => Sys2Proof.Machine.execDpull h wait a b s
  | .dstat h d a => Sys2Proof.Machine.execDstat h d a s
  | .sqbind h d a b => Sys2Proof.Machine.execSqbind h d a b s
  | .sqtok h draft rel d a b e => Sys2Proof.Machine.execSqtok h draft rel d a b e s
  | .sqconf h rel d a b => Sys2Proof.Machine.execSqconf h rel d a b s
  | .sqrej h d a => Sys2Proof.Machine.execSqrej h d a s
  | .sqrule h d a b c => Sys2Proof.Machine.execSqrule h d a b c s
  | .sqclose h a => Sys2Proof.Machine.execSqclose h a s
  | .ckptReq h d => Sys2Proof.Machine.execCkptReq h d s
  | .ckptWait h d a => Sys2Proof.Machine.execCkptWait h d a s
  | .ckptGen h d => Sys2Proof.Machine.execCkptGen h d s
  | .brk h imm => Sys2Proof.Machine.execBrk h imm s
  | .mark h imm a => Sys2Proof.Machine.execMark h imm a s
  | .quadrantIssue core quad throttled => Sys2Proof.Machine.execQuadrantIssue core quad throttled s
  | .regroupWindow g => Sys2Proof.Machine.execRegroupWindow g s
  | .resultWriteback id => Sys2Proof.Machine.execResultWriteback id s
  | .waitSatisfied g lane => Sys2Proof.Machine.execWaitSatisfied g lane s
  | .waitLimitExpired g lane => Sys2Proof.Machine.execWaitLimitExpired g lane s
  | .sleepWake g lane => Sys2Proof.Machine.execSleepWake g lane s
  | .barrierArrivalRecorded g lane => Sys2Proof.Machine.execBarrierArrivalRecorded g lane s
  | .monitorFire g lane => Sys2Proof.Machine.execMonitorFire g lane s
  | .monitorPoll g lane => Sys2Proof.Machine.execMonitorPoll g lane s
  | .accessBound id => Sys2Proof.Machine.execAccessBound id s
  | .accessDone id => Sys2Proof.Machine.execAccessDone id s
  | .accessCombined id => Sys2Proof.Machine.execAccessCombined id s
  | .accessPerformed id => Sys2Proof.Machine.execAccessPerformed id s
  | .accessAcknowledged id => Sys2Proof.Machine.execAccessAcknowledged id s
  | .accessDropped id => Sys2Proof.Machine.execAccessDropped id s
  | .accessFaulted id => Sys2Proof.Machine.execAccessFaulted id s
  | .uncorrectableData line => Sys2Proof.Machine.execUncorrectableData line s
  | .viewBlockWriteback win blk => Sys2Proof.Machine.execViewBlockWriteback win blk s
  | .walkComplete id => Sys2Proof.Machine.execWalkComplete id s
  | .invalComplete id => Sys2Proof.Machine.execInvalComplete id s
  | .transferUnitPerformed id unit => Sys2Proof.Machine.execTransferUnitPerformed id unit s
  | .transferError id => Sys2Proof.Machine.execTransferError id s
  | .transferResume id => Sys2Proof.Machine.execTransferResume id s
  | .streamerTransferComplete id => Sys2Proof.Machine.execStreamerTransferComplete id s
  | .chainRecordRead cluster chan => Sys2Proof.Machine.execChainRecordRead cluster chan s
  | .chainWake cluster chan => Sys2Proof.Machine.execChainWake cluster chan s
  | .streamerFault id => Sys2Proof.Machine.execStreamerFault id s
  | .mmaStart id => Sys2Proof.Machine.execMmaStart id s
  | .mmaRetire id => Sys2Proof.Machine.execMmaRetire id s
  | .mmaAbort id => Sys2Proof.Machine.execMmaAbort id s
  | .tileOpPerformed id => Sys2Proof.Machine.execTileOpPerformed id s
  | .teamDispatch kernel core quads => Sys2Proof.Machine.execTeamDispatch kernel core quads s
  | .teamRetire team => Sys2Proof.Machine.execTeamRetire team s
  | .kernelFlushComplete kernel => Sys2Proof.Machine.execKernelFlushComplete kernel s
  | .spawnWrite host ctx off bytes => Sys2Proof.Machine.execSpawnWrite host ctx off bytes s
  | .queueEnable host q cfg => Sys2Proof.Machine.execQueueEnable host q cfg s
  | .queueDisable host q => Sys2Proof.Machine.execQueueDisable host q s
  | .wridxWrite q v => Sys2Proof.Machine.execWridxWrite q v s
  | .queueReset q => Sys2Proof.Machine.execQueueReset q s
  | .recordTake q => Sys2Proof.Machine.execRecordTake q s
  | .energyCorrection part measured => Sys2Proof.Machine.execEnergyCorrection part measured s
  | .create host ctx => Sys2Proof.Machine.execCreate host ctx s
  | .start host ctx => Sys2Proof.Machine.execStart host ctx s
  | .renew host ctx => Sys2Proof.Machine.execRenew host ctx s
  | .addg host ctx => Sys2Proof.Machine.execAddg host ctx s
  | .handover host ctx => Sys2Proof.Machine.execHandover host ctx s
  | .release host ctx => Sys2Proof.Machine.execRelease host ctx s
  | .suspend host ctx => Sys2Proof.Machine.execSuspend host ctx s
  | .resume host ctx => Sys2Proof.Machine.execResume host ctx s
  | .resumeg host ctx => Sys2Proof.Machine.execResumeg host ctx s
  | .adopt host ctx => Sys2Proof.Machine.execAdopt host ctx s
  | .teardown host ctx => Sys2Proof.Machine.execTeardown host ctx s
  | .nonce host ctx => Sys2Proof.Machine.execNonce host ctx s
  | .inval host ctx => Sys2Proof.Machine.execInval host ctx s
  | .evring host ctx => Sys2Proof.Machine.execEvring host ctx s
  | .evvec host ctx => Sys2Proof.Machine.execEvvec host ctx s
  | .eventRingHeadWrite host v => Sys2Proof.Machine.execEventRingHeadWrite host v s
  | .leaseExpiry ctx host => Sys2Proof.Machine.execLeaseExpiry ctx host s
  | .orphanLimit ctx => Sys2Proof.Machine.execOrphanLimit ctx s
  | .suspensionComplete ctx => Sys2Proof.Machine.execSuspensionComplete ctx s
  | .teardownComplete ctx => Sys2Proof.Machine.execTeardownComplete ctx s
  | .teamPreempt team => Sys2Proof.Machine.execTeamPreempt team s
  | .teamRestore team core quads => Sys2Proof.Machine.execTeamRestore team core quads s
  | .migrateLand g core quad => Sys2Proof.Machine.execMigrateLand g core quad s
  | .partitionEnable host p ctl => Sys2Proof.Machine.execPartitionEnable host p ctl s
  | .partitionDisable host p => Sys2Proof.Machine.execPartitionDisable host p s
  | .partitionWattsWrite host p v => Sys2Proof.Machine.execPartitionWattsWrite host p v s
  | .formatWindowEnable host w ctl => Sys2Proof.Machine.execFormatWindowEnable host w ctl s
  | .formatWindowDisable host w => Sys2Proof.Machine.execFormatWindowDisable host w s
  | .dieFrameReplay link count => Sys2Proof.Machine.execDieFrameReplay link count s
  | .dieLinkTrained link => Sys2Proof.Machine.execDieLinkTrained link s
  | .dieLinkTrainingFailed link => Sys2Proof.Machine.execDieLinkTrainingFailed link s
  | .timeAlign die v => Sys2Proof.Machine.execTimeAlign die v s
  | .skewDetected die => Sys2Proof.Machine.execSkewDetected die s
  | .fabcfgWrite host v => Sys2Proof.Machine.execFabcfgWrite host v s
  | .portTrain host port v => Sys2Proof.Machine.execPortTrain host port v s
  | .portDarken host port v => Sys2Proof.Machine.execPortDarken host port v s
  | .portRelock host port v => Sys2Proof.Machine.execPortRelock host port v s
  | .portDown host port v => Sys2Proof.Machine.execPortDown host port v s
  | .portTrainingDone port peer lat => Sys2Proof.Machine.execPortTrainingDone port peer lat s
  | .portTrainingFailed port => Sys2Proof.Machine.execPortTrainingFailed port s
  | .portFrameFail port => Sys2Proof.Machine.execPortFrameFail port s
  | .portDegrade port laneLost => Sys2Proof.Machine.execPortDegrade port laneLost s
  | .portRecover port => Sys2Proof.Machine.execPortRecover port s
  | .darkenFlit port => Sys2Proof.Machine.execDarkenFlit port s
  | .darkLimit port => Sys2Proof.Machine.execDarkLimit port s
  | .allowanceReturn port cls => Sys2Proof.Machine.execAllowanceReturn port cls s
  | .flowCongested port src dst die => Sys2Proof.Machine.execFlowCongested port src dst die s
  | .congestionNotice port src dst die => Sys2Proof.Machine.execCongestionNotice port src dst die s
  | .flowReleased port src dst die => Sys2Proof.Machine.execFlowReleased port src dst die s
  | .replyTimerExpiry id => Sys2Proof.Machine.execReplyTimerExpiry id s
  | .drainMarkerComplete id => Sys2Proof.Machine.execDrainMarkerComplete id s
  | .sumacEnable host ctx ctl => Sys2Proof.Machine.execSumacEnable host ctx ctl s
  | .stubReceipt handle len tag origin sender octx base hold => Sys2Proof.Machine.execStubReceipt handle len tag origin sender octx base hold s
  | .pullServe hold tile => Sys2Proof.Machine.execPullServe hold tile s
  | .tilePulled stub tile data => Sys2Proof.Machine.execTilePulled stub tile data s
  | .holdRenewal stub => Sys2Proof.Machine.execHoldRenewal stub s
  | .holdExpiry hold => Sys2Proof.Machine.execHoldExpiry hold s
  | .dropMessage hold => Sys2Proof.Machine.execDropMessage hold s
  | .stubCompletionMessage hold => Sys2Proof.Machine.execStubCompletionMessage hold s
  | .lostMessage stub => Sys2Proof.Machine.execLostMessage stub s
  | .renewalTimeout stub => Sys2Proof.Machine.execRenewalTimeout stub s
  | .holdLimit id => Sys2Proof.Machine.execHoldLimit id s
  | .restoredHoldWindow ctx => Sys2Proof.Machine.execRestoredHoldWindow ctx s
  | .cloveShareWrite host p v => Sys2Proof.Machine.execCloveShareWrite host p v s
  | .sharedRuleWrite host p idx bytes => Sys2Proof.Machine.execSharedRuleWrite host p idx bytes s
  | .cloveIteration seq => Sys2Proof.Machine.execCloveIteration seq s
  | .checkpointEnable host ctx ctl => Sys2Proof.Machine.execCheckpointEnable host ctx ctl s
  | .checkpointDisable host ctx => Sys2Proof.Machine.execCheckpointDisable host ctx s
  | .req host ctx => Sys2Proof.Machine.execReq host ctx s
  | .restore host ctx gen => Sys2Proof.Machine.execRestore host ctx gen s
  | .boundaryBegin ctx => Sys2Proof.Machine.execBoundaryBegin ctx s
  | .quiesce ctx => Sys2Proof.Machine.execQuiesce ctx s
  | .drained ctx rank => Sys2Proof.Machine.execDrained ctx rank s
  | .cut ctx => Sys2Proof.Machine.execCut ctx s
  | .granuleCopy ctx granule => Sys2Proof.Machine.execGranuleCopy ctx granule s
  | .prepared ctx => Sys2Proof.Machine.execPrepared ctx s
  | .commit ctx gen => Sys2Proof.Machine.execCommit ctx gen s
  | .commitAcknowledged ctx rank => Sys2Proof.Machine.execCommitAcknowledged ctx rank s
  | .generationDiscard ctx => Sys2Proof.Machine.execGenerationDiscard ctx s
  | .flashDrain ctx => Sys2Proof.Machine.execFlashDrain ctx s
  | .go host p v => Sys2Proof.Machine.execGo host p v s
  | .debugStopReached p => Sys2Proof.Machine.execDebugStopReached p s
  | .replayEnd ctx => Sys2Proof.Machine.execReplayEnd ctx s
  | .flashRangeWrite host p size v => Sys2Proof.Machine.execFlashRangeWrite host p size v s
  | .glenSensorPoll temps => Sys2Proof.Machine.execGlenSensorPoll temps s
  | .firmwareImage image => Sys2Proof.Machine.execFirmwareImage image s
  | .attestationRequest nonce => Sys2Proof.Machine.execAttestationRequest nonce s
  | .bringUp absent rot refl => Sys2Proof.Machine.execBringUp absent rot refl s
  | .cxlMemAccess host addr write bytes => Sys2Proof.Machine.execCxlMemAccess host addr write bytes s
  | .registerWrite host off v => Sys2Proof.Machine.execRegisterWrite host off v s
  | .fetchLineArrival g line => Sys2Proof.Machine.execFetchLineArrival g line s
  | .portFrameReplay port count => Sys2Proof.Machine.execPortFrameReplay port count s
  | .portStateControlFlit dev peers => Sys2Proof.Machine.execPortStateControlFlit dev peers s
  | .holdEntryRequest octx base len dev stub restored => Sys2Proof.Machine.execHoldEntryRequest octx base len dev stub restored s
  | .renewalReachesOrigin hold => Sys2Proof.Machine.execRenewalReachesOrigin hold s
  | .renewalAcknowledgement stub => Sys2Proof.Machine.execRenewalAcknowledgement stub s
  | .boundaryInstantReceipt ctx t => Sys2Proof.Machine.execBoundaryInstantReceipt ctx t s
  | .dataUnitArrival ctx rank row bytes => Sys2Proof.Machine.execDataUnitArrival ctx rank row bytes s
  | .preparedReport ctx rank => Sys2Proof.Machine.execPreparedReport ctx rank s
  | .garbageCollection part q record => Sys2Proof.Machine.execGarbageCollection part q record s
  | .powerLoss => Sys2Proof.Machine.execPowerLoss s
  | .hostAttach host cxl base size => Sys2Proof.Machine.execHostAttach host cxl base size s
  | .hostDetach host => Sys2Proof.Machine.execHostDetach host s
  | .glenConfiguration hosts => Sys2Proof.Machine.execGlenConfiguration hosts s

end Sys2Proof.Machine
end

