-- ==== Sys2Proof/Machine/Issue.lean ====
section
/-! DEFINITION. Machine/Issue.lean: the issue of a chosen bundle: fetch, comparators, pairing, decoding, the checks before an
instruction's own effect, and lookahead windows (R53 to R58, R63, R69 to R72, R95, R214, R407, R414). -/

namespace Sys2Proof.Machine

/-- The header fields of a word that its guard needs (R59). -/
def wordHd (w : IWord) : Hd :=
  let r := Raw.ofWord w
  ⟨r.la, r.ga, r.gb, r.gj == 1, r.fi == 1, r.fo == 1⟩

/-- One instruction of the bundle: an illegal word traps in every active lane, whatever its guard; a register index beyond
the declaration faults in the lanes whose guard holds; otherwise the instruction executes (R63, R71, R72, R95). -/
def State.execWord (s : State) (i : Issue) (legal : Bool) : Out :=
  let s1 := { s with sch := { s.sch with issue := some i } }
  match decode i.word, s1.group i.gid with
  | .ok ins, some g =>
    if !legal then .next (s1.trapAll i .illegalEncoding 0)
    else if beyond (s1.declared g).1 (s1.declared g).2 i.word && !(i.guarded g (wordHd i.word)).isEmpty then
      .next (s1.trapGuarded i g (wordHd i.word) .resourceBound 0)
    else exec ins s1
  | _, _ => .next (s1.trapAll i .illegalEncoding 0)

/-- Each open window of the bundle's lanes counts the instruction, except windows that it opened itself (R70). -/
def Group.countWindows (g : Group) (m : Mask) (before : Nat) : Group :=
  g.updLanes m fun l => { l with wins := l.wins.map fun w => if w.1 < before then (w.1, w.2 - 1) else w }

/-- Instructions that lanes have retired between two states of a group. -/
def retiredBetween (g : Group) (h : Option Group) (m : Mask) : Nat :=
  match h with
  | none => popMask m
  | some h => ((maskLanes m).map fun k => ((h.lane k).retired - (g.lane k).retired).toNat).sum

/-- After an instruction: windows, the retirement counts, and nothing more in issue. An instruction that waits at issue
counts nothing. -/
def State.close (s : State) (g : Group) (ctx before gid : Nat) (m : Mask) : State :=
  let done := { s with sch := { s.sch with issue := none } }
  match s.sch.issue with
  | some i =>
    if let some r := i.held then done.loseSlot gid r
    else ((done.updGroup gid fun h => h.countWindows m before).issues gid m).retirements ctx (retiredBetween g (done.group gid) m)
  | none => done

/-- Did the bundle in issue stop short: a trap, or a wait at issue. -/
def State.stopped (s : State) : Bool := match s.sch.issue with | some i => i.trapped || i.held.isSome | none => true

/-- What the second instruction of a pair reads: the group as it stood before the pair. Only its draws go on from where the first
instruction left the generator, unless that is an SWR of %srseed; an SRD reads the generator as it stood (R34, R56, R116). -/
def Group.before (g : Group) (now : Option Group) (w w2 : IWord) : Group :=
  match now with
  | none => g
  | some n => if wordOpc w = 0x24 ∨ wordOpc w2 = 0x23 then g else { g with lanes := g.lanes.mapIdx fun k l => { l with sr := (n.lane k).sr } }

/-- Run the one instruction of an issue. -/
def State.issueOne (s : State) (g : Group) (i : Issue) (legal : Bool) : Out :=
  match s.execWord i legal with
  | .next t => .next (t.close g (s.ctxOf g) s.sch.nextId i.gid i.lanes)
  | o => o

/-- Run a pair: both read before either writes, and neither writes anything if one of them faults (R56, R57). Where both would raise a
fault, perhaps in different lanes, the first slot's alone is reported (R57 does not say; DESIGN CHOICE, log 82). -/
def State.issuePair (s : State) (g : Group) (i : Issue) (w2 : IWord) : Out :=
  match s.execWord { i with paired := true } true with
  | .next t =>
    if t.stopped then .next (t.close g (s.ctxOf g) s.sch.nextId i.gid i.lanes)
    else
      let j := { i with pc := succPc i.pc, word := w2, paired := true, second := true, snap := some (g.before (t.group i.gid) i.word w2) }
      match t.execWord j true with
      | .next u =>
        let u1 := if u.stopped then u.updGroup i.gid fun h => { h with lanes := h.lanes.mapIdx fun k l => { l with sr := (g.lane k).sr } }
          else u.updGroup i.gid fun h => h.countWindows i.lanes s.sch.nextId
        .next (u1.close g (s.ctxOf g) s.sch.nextId i.gid i.lanes)
      | o => o
  | o => o

/-- Forget that a bundle passes the debugger at a PC. -/
def State.unpass (s : State) (gid : Nat) (pc : DWord) : State :=
  { s with ckp := { s.ckp with passed := s.ckp.passed.filter fun x => x != (gid, pc) } }

/-- A fetch of a core goes through the translation of its line, which sets ACC in the entry; the TLBs of core and die keep it (R55, R207,
R211). -/
def State.fetched (s : State) (core ctx : Nat) (pc : DWord) : State :=
  let va := pc - BitVec.ofNat 64 (field pc 5 0)
  match s.translate ctx .fetch va 64 with
  | .ok t =>
    let (s1, t1) := s.setAccessed t false
    (s1.fillTlb none (dieOf core) ctx va t1).fillTlb (some core) (dieOf core) ctx va t1
  | .error _ => s

/-- Where a bundle's transfers went, or would have gone: the lines whose TGT bits have been checked (R58). -/
def State.transfers (t : State) (gid : Nat) (m : Mask) (pc : DWord) : List DWord :=
  match t.group gid with
  | none => []
  | some g => (maskLanes m).flatMap fun k =>
    let l := g.lane k
    if l.pc = pc ∨ l.pc = succPc pc ∨ l.pc = succPc (succPc pc) then []
    else l.pc :: (if l.fcode = 0x02 then [l.faddr] else [])

/-- The fetches of an issue: the bundle's own line, then those that its transfers reach. -/
def State.fetches (t : State) (gid : Nat) (m : Mask) (core ctx : Nat) (pc : DWord) : State :=
  ((pc :: t.transfers gid m pc).eraseDups).foldl (fun u p => u.fetched core ctx p) t

/-- Has the bundle's instruction issued: one that waits at issue leaves its lanes as they were. -/
def State.hasIssued (t : State) (gid : Nat) (g : Group) (m : Mask) : Bool :=
  match t.group gid with
  | some h => (maskLanes m).any fun k =>
      (h.lane k).pc != (g.lane k).pc || (h.lane k).retired != (g.lane k).retired || (h.lane k).st != (g.lane k).st
  | none => true

/-- Once a bundle has issued the debugger is passed no more; and the fetches have gone through their translations (R414). -/
def afterIssue (o : Out) (gid : Nat) (g : Group) (m : Mask) (ctx : Nat) (pc : DWord) : Out :=
  match o with
  | .next t => .next ((if t.hasIssued gid g m then t.unpass gid pc else t).fetches gid m g.core ctx pc)
  | x => x

/-- Lanes that re-execute from their region entry have been checked there (R58). -/
def State.reentered (s : State) (gid : Nat) (m : Mask) : State :=
  s.updGroup gid fun g => g.updLanes m fun l => { l with reenter := false }

/-- Issue a chosen bundle at its PC. A bundle that re-executes from a region entry faults BRANCH_TARGET where the slot is not
marked (R58). -/
def State.issueAt (s : State) (gid : Nat) (g0 : Group) (m : Mask) (pc : DWord) : Out :=
  let ctx := s.ctxOf g0
  let i : Issue := ⟨gid, m, pc, pc, 0, false, false, none, false, none⟩
  if !pcOk pc then .next ({ s.issues gid m with sch := { s.sch with issue := some i } }.trapAll i .branchTarget pc)
  else match s.fetchLine ctx pc with
  | .error c => .next (s.parkFetch gid m c pc)
  | .ok line =>
    if !lineParity line then .next ((s.parkFetch gid m .machineCheck pc).fetched g0.core ctx pc)
    else
      let k := field pc 2 0
      let w := lineSlot line k
      let s1 := s.reentered gid m
      let g := g0.updLanes m fun l => { l with reenter := false }
      if ((maskLanes m).any fun j => (g0.lane j).reenter) && !(lineHead line).getLsbD (17 + k) then
        .next ({ s1.issues gid m with sch := { s1.sch with issue := some { i with word := w } } }.trapAll { i with word := w } .branchTarget pc
          |>.fetches gid m g0.core ctx pc)
      else match (if s.passes gid pc then none else s.pcHit ctx pc) with
      | some n => .next ((s1.debugPark gid m 1 n 0).fetched g0.core ctx pc)
      | none =>
        afterIssue (if pairsAt line k g.width && (s.pcHit ctx (succPc pc)).isNone && !s.stopReached g m 1 then
            s1.issuePair g { i with word := w } (lineSlot line (k + 1))
          else s1.issueOne g { i with word := w } (legalWord line w g.width)) gid g m ctx pc

/-- The park that a replay's log holds for a lane of the bundle at its count (R409, R410). -/
def State.loggedPark (s : State) (g : Group) (m : Mask) : Option (Nat × LogRec) :=
  (maskLanes m).findSome? fun k => (s.logged (s.ctxOf g) 5 (s.wid g k) (g.lane k).retired).map fun r => (k, r)

/-- The fault code with a number (R309). -/
def codeOf (n : Nat) : Code :=
  ([.illegalEncoding, .branchTarget, .resourceBound, .scratchBounds, .alignment, .float, .intDivide, .userTrap, .pageNotPresent,
    .pageProtection, .pageLost, .pageHeld, .formatView, .atomicUnsupported, .peerUnreachable, .remoteTimeout, .stubLost, .stubInvalid,
    .seqTrap, .serviceRequired, .handlerFetch] : List Code).find? (fun c => c.num == n) |>.getD .machineCheck

/-- Issue the bundle that a quadrant chose: its lanes run, at one PC, in a resident group that nothing has halted since. A replay
applies a logged park first. -/
def State.issueBundle (s : State) (gid : Nat) (m : Mask) : Out :=
  match s.group gid, maskLanes m with
  | some g, k :: _ =>
    if g.st = .resident ∧ !s.halted g m ∧
        (maskLanes m).all (fun j => (g.lane j).st == .running && (g.lane j).pc == (g.lane k).pc) then
      (match s.loggedPark g m with
      | some (j, r) =>
        .next ((s.consume (s.ctxOf g) r).parkImprecise gid m [(j, codeOf r.aux, BitVec.ofNat 64 (leNat r.data))] 0)
      | none => s.issueAt gid g m (g.lane k).pc)
    else .next (s.loseSlot gid 12)
  | _, _ => .next s

/-- A lane stalls with an arrival that is not recorded yet. -/
def Lane.arrives (l : Lane) : Bool :=
  match l.st with | .stalled w => (match w.kind with | .arrive .. => true | _ => false) | _ => false

/-- What the latch holds comes about: the arrival of a stalled lane, or the issue of a bundle. -/
def State.latched (s : State) (gid : Nat) (m : Mask) : Out :=
  match s.group gid with
  | some g => if (g.lane (lowest m)).arrives then execBarrierArrivalRecorded gid (lowest m) s else s.issueBundle gid m
  | none => .next s

/-! ### What comes next -/

/-- A word that an engine reads ahead: of a transfer, a streamer's work or an MMA. -/
def State.engineWord (s : State) (id n : Nat) : State :=
  match Table.get s.eng.transfers id, Table.get s.eng.streams id, Table.get s.eng.tileOps id with
  | some x, _, _ => s.transferWord id x n
  | none, some x, _ => s.streamWord id x n
  | none, none, some x => s.operandWord id x n
  | none, none, none => s

/-- Run what comes about: a row of the table, or one of the device's own steps. -/
def Due.run (d : Due) (s : State) : Out :=
  match d with
  | .row i => exec i s
  | .pullServe hold tile => execPullServe hold tile s
  | .tilePulled stub tile data => execTilePulled stub tile data s
  | .holdRenewal n => execHoldRenewal n s
  | .holdExpiry n => execHoldExpiry n s
  | .dropMessage n => execDropMessage n s
  | .stubCompletionMessage n => execStubCompletionMessage n s
  | .lostMessage n => execLostMessage n s
  | .renewalTimeout n => execRenewalTimeout n s
  | .renewalReachesOrigin n => execRenewalReachesOrigin n s
  | .renewalAcknowledgement n => execRenewalAcknowledgement n s
  | .holdRequest n => match s.stub n with
    | some x => execHoldEntryRequest x.octx x.obase x.len s.lnk.fdev n true s
    | none => .next s
  | .holdLimit n => execHoldLimit n s
  | .engineWord id n => .next (s.engineWord id n)
  | .kernelRead id => execKernelRead id s
  | .walkRead id => execWalkRead id s
  | .recordWrite n => execRecordWrite n s
  | .visitEnd part => execVisitEnd part s
  | .streamPiece id k => execStreamPiece id k s
  | .restoredHoldWindow ctx => execRestoredHoldWindow ctx s
  | .cloveIteration seq => execCloveIteration seq s
  | .boundaryBegin ctx => execBoundaryBegin ctx s
  | .quiesce ctx => execQuiesce ctx s
  | .drained ctx rank => execDrained ctx rank s
  | .cut ctx => execCut ctx s
  | .granuleCopy ctx g => execGranuleCopy ctx g s
  | .prepared ctx => execPrepared ctx s
  | .preparedReport ctx rank => execPreparedReport ctx rank s
  | .commit ctx gen => execCommit ctx gen s
  | .commitAcknowledged ctx rank => execCommitAcknowledged ctx rank s
  | .generationDiscard ctx => execGenerationDiscard ctx s
  | .flashDrain ctx => execFlashDrain ctx s
  | .drainPost ctx q record => execDrainPost ctx q record s
  | .instant ctx t ctl job => execInstant ctx t ctl job s
  | .boundaryRequest ctx rank => execBoundaryRequest ctx rank s
  | .fencePlace ctx => execFencePlace ctx s
  | .logWrite ctx => execLogWrite ctx s
  | .unitWrite ctx k => execUnitWrite ctx k s
  | .unitAcknowledged ctx k => execUnitAcknowledged ctx k s
  | .unitFreed ctx gen r bytes => execUnitFreed ctx gen r bytes s
  | .unitsArrive host ctx gen obj units => execUnitsArrive host ctx gen obj units s
  | .unitsLost ctx uncommitted => execUnitsLost ctx uncommitted s
  | .bringUpFailed step => .next (s.bringUpStops step)
  | .debugStopReached p => execDebugStopReached p s
  | .replayEnd ctx => execReplayEnd ctx s
  | .cxlStore host addr bytes id => execCxlMemAccess host addr true bytes (s.unstall id)
  | .visit v id => execVisit v id s
  | .checkpointOff host ctx => execCheckpointDisable host ctx s
  | .clock => .next s.tick

/-- The host link on which a write comes in; for a write to a queue's index page, the page, of number 16 and more (R279, R297). -/
def Due.link : Due → Option Nat
  | .row (.wridxWrite q _) => some (16 + q)
  | .row (.queueReset q) => some (16 + q)
  | .row (.cxlMemAccess host _ _ _) => some host
  | .cxlStore host _ _ _ => some host
  | .visit v _ => match v.who with | .host h => some h | _ => none
  | .row (.spawnWrite host _ _ _) => some host
  | .row (.queueEnable host _ _) => some host
  | .row (.queueDisable host _) => some host
  | .row (.create host _) => some host
  | .row (.start host _) => some host
  | .row (.renew host _) => some host
  | .row (.addg host _) => some host
  | .row (.handover host _) => some host
  | .row (.release host _) => some host
  | .row (.suspend host _) => some host
  | .row (.resume host _) => some host
  | .row (.resumeg host _) => some host
  | .row (.adopt host _) => some host
  | .row (.teardown host _) => some host
  | .row (.nonce host _) => some host
  | .row (.inval host _) => some host
  | .row (.evring host _) => some host
  | .row (.evvec host _) => some host
  | .row (.eventRingHeadWrite host _) => some host
  | .row (.partitionEnable host _ _) => some host
  | .row (.partitionDisable host _) => some host
  | .row (.partitionWattsWrite host _ _) => some host
  | .row (.formatWindowEnable host _ _) => some host
  | .row (.formatWindowDisable host _) => some host
  | .row (.fabcfgWrite host _) => some host
  | .row (.portTrain host _ _) => some host
  | .row (.portDarken host _ _) => some host
  | .row (.portRelock host _ _) => some host
  | .row (.portDown host _ _) => some host
  | .row (.sumacEnable host _ _) => some host
  | .row (.cloveShareWrite host _ _) => some host
  | .row (.sharedRuleWrite host _ _ _) => some host
  | .row (.checkpointEnable host _ _) => some host
  | .row (.checkpointDisable host _) => some host
  | .row (.req host _) => some host
  | .row (.restore host _ _) => some host
  | .row (.go host _ _) => some host
  | .row (.flashRangeWrite host _ _ _) => some host
  | .row (.registerWrite host _ _) => some host
  | _ => none

/-- The link of a command (R422). -/
def Due.command (d : Due) : Option Nat :=
  match d with
  | .row (.create ..) | .row (.start ..) | .row (.renew ..) | .row (.addg ..) | .row (.handover ..) | .row (.release ..) | .row (.suspend ..)
  | .row (.resume ..) | .row (.resumeg ..) | .row (.adopt ..) | .row (.teardown ..) | .row (.nonce ..) | .row (.inval ..) | .row (.evring ..)
  | .row (.evvec ..) => d.link
  | .row (.registerWrite host off _) => if off = 0xBFFF000 then some host else none
  | _ => none

/-- What goes first of an agenda, and the rest: its head, but of the commands that stand there in one nanosecond the one of the lowest link
(R423). -/
def nextDue (l : List Due) : Option (Due × List Due) :=
  match l with
  | [] => none
  | d :: r =>
    match d.command with
    | none => some (d, r)
    | some h =>
      let low := (r.filterMap Due.command).foldl Nat.min h
      match r.find? fun e => e.command == some low with
      | some e => if low = h then some (d, r) else some (e, (d :: r).erase e)
      | none => some (d, r)

/-- A held write may go (R278, R279, R297, R362, R395, R399). -/
def State.unblocked (s : State) (d : Due) : Bool :=
  match d with
  | .row (.spawnWrite _ ctx _ _) => decide (s.spawnSlots (s.partOf ctx) < 256)
  | .checkpointOff _ ctx => match s.int ctx with | some x => !x.busy | none => true
  | .cxlStore host addr bytes id => match Table.get s.sys.cxlWin host with
    | some (base, _) => !s.memBlocked (base.toNat + addr) bytes.length && s.storeTurn id
    | none => true
  | .visit v id => match s.visitAt v with
    | some a => !s.visitWaits v a && s.storeTurn id
    | none => true
  | .row (.wridxWrite q _) => !s.locked (s.queue q)
  | .row (.queueReset q) => !s.locked (s.queue q)
  | _ => true

/-- The held writes that may go: unblocked, and the oldest of their link. -/
def heldFirst (s : State) : List Nat → List Due → List Due
  | _, [] => []
  | seen, d :: r =>
    let rest := heldFirst s (match d.link with | some h => h :: seen | none => seen) r
    if s.unblocked d && !(match d.link with | some h => seen.contains h | none => false) then d :: rest else rest

/-- A write comes in: while an earlier one of its link is held back it waits behind it (R279). -/
def State.take (s : State) (d : Due) : Out :=
  match d.link with
  | some h => if s.sch.held.any (fun x => x.link == some h) then .next { s with sch := { s.sch with held := s.sch.held ++ [d] } } else d.run s
  | none => d.run s

/-- With nothing on the agenda the hardware goes on: the cycle ends, or a held write or a step of the device's own comes. -/
def State.goOn (s : State) : Out :=
  let (n, s1) := s.draw
  let (m, s2) := s1.draw
  let held := heldFirst s [] s.sch.held
  let own := s.dues m
  let k := n % (held.length + own.length + 1)
  if k = 0 then .next { s2 with sch := { s2.sch with agenda := s2.settling ++ [.clock] } }
  else if k ≤ held.length then
    match held[k - 1]? with
    | some d => d.run { s2 with sch := { s2.sch with held := s2.sch.held.erase d } }
    | none => .next s2
  else match own[k - 1 - held.length]? with
    | some d => d.run s2
    | none => .next s2

/-- A quadrant has yet to choose in this cycle. -/
def Due.choosing : Due → Bool
  | .row (.quadrantIssue _ _ _) => true
  | _ => false

/-- What happens next: once every quadrant has chosen, the bundles chosen; else what stands first on the agenda; else what the
hardware goes on with. -/
def State.next (s : State) : Out :=
  match s.sch.agenda.any Due.choosing, s.sch.latch, nextDue s.sch.agenda with
  | false, (gid, m) :: r, _ => { s with sch := { s.sch with latch := r } }.latched gid m
  | _, _, some (d, r) => { s with sch := { s.sch with agenda := r, issue := none } }.take d
  | _, _, none => if s.sch.powered then s.goOn else .fault .packageOff

/-- The cores see what the step has written to the lines they watch (R169, R174). -/
def watchOut (o : Out) : Out := match o with | .next t => .next t.watch | x => x

end Sys2Proof.Machine
end

