-- ==== Sys2Proof/Machine/Step.lean ====
section
/-! DEFINITION. Machine/Step.lean: one step of the machine, and the placing of an instruction where the next step fetches it
(log 3 says how a program comes to run from State.reset). -/

namespace Sys2Proof.Machine

/-- One step. -/
def step (s : State) : Host.Outcome State Fault Refusal := watchOut s.next

/-- A context whose tables map virtual address 0 to 8 GiB - 1 onto device memory, read, write and fetch. -/
def fetchRecord : Record := ⟨0x200000000, 0, 0, 0, 0, 0, 0, 0, [], false⟩

def fetchContext : Context := ⟨fetchRecord, 0, .guarded, [⟨0, 0⟩], 0, 0, [], 0, false, false, [], [], []⟩

def fetchHeader : Header := ⟨0, 0x1000, 0, 0, 16, 255, 64, 16, 64, 1024, [0, 0, 0, 0, 0], [0, 0, 0, 0], [1, 1, 1, 1, 1], 1, 1⟩

def fetchKernel : Kernel := ⟨0, 0, 0, fetchHeader, List.replicate 6 0, none, .running, 1, 1, false, none, 1, none, none, none, none⟩

def fetchTeam : Team := startTeam fetchHeader 0 0 0 1 [0]

def fetchGroup : Group := { startGroup fetchHeader [] 0 0 0 0 0 0 0 with bundles := [⟨0xFFFF, 0, none, false⟩] }

/-- A line whose slot 0 holds the word and whose other slots hold NOP, with its parity (R51, R52). -/
def fetchBytes (w : Nat) : List Byte :=
  natToBytes 4 (0x20000 + (if oddOnes 96 w then 2 ^ 27 else 0) + 2 ^ 26) ++ natToBytes 12 w ++ List.replicate 48 0

/-- The instruction stands in slot 0 of the line at 0x1000 of a running group, which the next step issues: a loaded context,
its page tables, one team of one 16-lane group, and the quadrant's choice. -/
def State.withFetchWord (s : State) (nbits w : Nat) : State :=
  let m1 := s.mem.setBytes 0x200000000 (natToBytes 8 0x200008001)
  let m2 := m1.setBytes 0x200008000 (natToBytes 8 0xF)
  { s with
    mem := m2.setBytes 0x1000 (fetchBytes (w % 2 ^ nbits))
    run := { s.run with groups := Table.set s.run.groups 0 fetchGroup, teams := Table.set s.run.teams 0 fetchTeam }
    ker := { s.ker with kernels := Table.set s.ker.kernels 0 fetchKernel }
    ctx := { s.ctx with contexts := Table.set s.ctx.contexts 0 fetchContext }
    sch := { s.sch with latch := [(0, 0xFFFF)], agenda := [], issue := none, powered := true } }

end Sys2Proof.Machine
end

