-- ==== Sys2Proof/Safety.lean ====
section
/-! DEFINITION. Safety.lean: what counts as a safe step and a safe run, and the words in which statements say what an
instruction did to the lanes of its bundle and what it left alone. -/

namespace Sys2Proof.Machine

/-- A step that goes on. -/
def State.goesOn (s : State) : Prop := ∃ t, step s = .next t

/-- A run of n steps that goes on throughout. -/
def State.safeFor : Nat → State → Prop
  | 0, _ => True
  | n + 1, s => ∃ t, step s = .next t ∧ t.safeFor n

/-! ### What a lane instruction did -/

/-- What a lane holds apart from where it stands: its PC, its meeting register, its state, its retirement count and the model's own
mark of a wait at issue are left out. -/
def Lane.data (l : Lane) : Lane := { l with pc := 0, meet := 0, st := .running, retired := 0, since := none }

/-- The lane after an effect's register and predicate writes, %fpst bits, generator and other changes. -/
def Eff.inLane (e : Eff) (l : Lane) : Lane :=
  e.onLane (e.his.foldl (fun x r => x.writeHi r.1 r.2) (e.regs.foldl (fun x r => x.write r.1 r.2.1 r.2.2) l))

/-- A write of an s register; of another register it is none. -/
def sWrite (m : Sparse 64) (x : Opnd) (y : DWord) : Sparse 64 := match x with | .s i => Sparse.set m i.toNat y | _ => m

/-- A write of bits 63:32 of an s register. -/
def sWriteHi (m : Sparse 64) (x : Opnd) (y : Word) : Sparse 64 :=
  match x with | .s i => Sparse.set m i.toNat (y ++ (Sparse.get m i.toNat).setWidth 32) | _ => m

/-- The s registers after one effect. -/
def Eff.inS (e : Eff) (m : Sparse 64) : Sparse 64 :=
  e.his.foldl (fun m r => sWriteHi m r.1 r.2) (e.regs.foldl (fun m r => sWrite m r.1 r.2.2) m)

/-- The s registers after the effects of the lanes of a list, in ascending order (R99). -/
def sAfter (m : Sparse 64) (es : List (Nat × Eff)) : Sparse 64 := es.foldl (fun m p => p.2.inS m) m

/-- The effect of a lane in a list of effects. -/
def effOf (es : List (Nat × Eff)) (k : Nat) : Option Eff := (es.find? fun p => p.1 == k).map fun p => p.2

/-- The lane with what its effect leaves; a lane without an effect is as it was. -/
def Group.after (g : Group) (es : List (Nat × Eff)) (k : Nat) : Lane :=
  match effOf es k with | some e => e.inLane (g.lane k) | none => g.lane k

/-- The instruction in issue ran with these effects and did nothing else. In the state, only the group changed; in the group, only its
lanes, its s registers and its bundles. A lane with an effect holds what the effect leaves, every other lane what it held. Every
active lane retires and stands at its target, else at the successor; every other lane stands where it stood. -/
def Ran (s t : State) (i : Issue) (g : Group) (es : List (Nat × Eff)) : Prop :=
  ∃ u : Group, t = s.setGroup i.gid u ∧ { u with lanes := g.lanes, bundles := g.bundles, s := g.s } = g ∧
    u.width = g.width ∧ u.s = sAfter g.s es ∧
    ∀ k, k < g.width →
      (u.lane k).data = (g.after es k).data ∧
      (u.lane k).pc = (if hasBit i.lanes k then ((effOf es k).bind (·.pc)).getD (succPc i.pc) else (g.after es k).pc) ∧
      (u.lane k).retired = (g.after es k).retired + (if hasBit i.lanes k then 1 else 0)

/-- Whenever no guarded lane faults, the instruction completes, with the effect `f` in each lane whose guard holds. -/
def Completes (ins : Instr) (h : Hd) (f : State → Issue → Group → Nat → Lane → Eff) : Prop :=
  ∀ s i g, s.current = some (i, g) → i.traps g (i.effects g h (f s i)) = [] →
    ∃ t, exec ins s = .next t ∧ Ran s t i g (i.effects g h (f s i))

/-- The instruction completes, with the effect `f` in each lane whose guard holds. -/
def Writes (ins : Instr) (h : Hd) (f : State → Issue → Group → Nat → Lane → Eff) : Prop :=
  ∀ s i g, s.current = some (i, g) → ∃ t, exec ins s = .next t ∧ Ran s t i g (i.effects g h (f s i))

/-- An effect of a long-latency instruction at issue: its results are still out, and the lane opens the window of LA instructions
for them, where it awaits a register or a predicate (R69). -/
def Eff.awaited (e : Eff) (id la : Nat) : Eff :=
  { e with
    regs := [], preds := [], exc := 0
    upd := fun l => if e.writes then { e.upd l with wins := (id, la) :: l.wins } else e.upd l }

/-- The results of a long-latency instruction, waiting under a number (R69, R141). -/
def waitingResults (gid : Nat) (es : List (Nat × Eff)) : Pending :=
  ⟨gid, es.flatMap fun p => p.2.regs.map fun r => (p.1, r), es.flatMap fun p => p.2.preds.map fun r => (p.1, r),
    es.map fun p => (p.1, p.2.exc), false⟩

/-- A long-latency instruction completes its issue: its results, those of `f` in each lane whose guard holds, wait under a fresh
number; each such lane opens a window on them; every active lane moves on; nothing else changes. -/
def WritesLater (ins : Instr) (h : Hd) (f : State → Issue → Group → Nat → Lane → Eff) : Prop :=
  ∀ s i g, s.current = some (i, g) → i.traps g (i.effects g h (f s i)) = [] →
    ∃ t : State, exec ins s = .next { t with run := { t.run with
        pend := Table.set t.run.pend s.sch.nextId (waitingResults i.gid (i.effects g h (f s i))) } } ∧
      Ran { s with sch := { s.sch with nextId := s.sch.nextId + 1 } } t i g
        ((i.effects g h (f s i)).map fun p => (p.1, p.2.awaited s.sch.nextId h.la.toNat))

/-- As `WritesLater`, for the bundles, groups and states that meet a condition, from a state that differs from the one before at most
where the instruction says. -/
def WritesLaterWhen (p : State → Issue → Group → Prop) (ins : Instr) (h : Hd) (pre : State → Issue → Group → State)
    (f : State → Issue → Group → Nat → Lane → Eff) : Prop :=
  ∀ s i g, s.current = some (i, g) → p s i g →
    ∃ t : State, exec ins s = .next { t with run := { t.run with
        pend := Table.set t.run.pend s.sch.nextId (waitingResults i.gid (i.effects g h (f s i))) } } ∧
      Ran { pre s i g with sch := { s.sch with nextId := s.sch.nextId + 1 } } t i g
        ((i.effects g h (f s i)).map fun p => (p.1, p.2.awaited s.sch.nextId h.la.toNat))

/-- A precise fault in some guarded lane traps the bundle: the instruction does nothing but enter the trap (R96). -/
def TrapsOn (ins : Instr) (h : Hd) (f : State → Issue → Group → Nat → Lane → Eff) : Prop :=
  ∀ s i g, s.current = some (i, g) → i.traps g (i.effects g h (f s i)) ≠ [] →
    exec ins s = .next (s.takeTrap i (i.traps g (i.effects g h (f s i))))

/-- As `Writes`, for the bundles, groups and states that meet a condition. -/
def WritesWhen (p : State → Issue → Group → Prop) (ins : Instr) (h : Hd) (f : State → Issue → Group → Nat → Lane → Eff) : Prop :=
  ∀ s i g, s.current = some (i, g) → p s i g → ∃ t, exec ins s = .next t ∧ Ran s t i g (i.effects g h (f s i))

/-- The guard of NOP, and of a word without one: both guard fields name P7 (R59, R60). -/
def noGuard : Hd := ⟨0, 7, 7, false, false, false⟩

/-- The low bits of a 64-bit value that a raw type keeps. -/
def cut (t : ITy) (x : DWord) : DWord := if t.is64 then x else (x.setWidth 32 : BitVec 32).setWidth 64

/-- The 64 bits that a function names. -/
def bitsOf (f : Nat → Bool) : DWord := laneMask ((List.range 64).filter f)

/-- The lanes of a list that raise faults, each with code and %faddr. -/
def faultsOf (ks : List Nat) (c : Code) (a : Nat → DWord) : List (Nat × Code × DWord) := ks.map fun k => (k, c, a k)

/-- Some lane of the group has not exited and is not among those that exit now. -/
def Group.lives (g : Group) (gone : List Nat) : Prop := ∃ k, k < g.width ∧ k < 64 ∧ k ∉ gone ∧ (g.lane k).st ≠ .exited

/-! ### What a memory instruction or a wait did -/

/-- The lanes moved on and hold what they held, windows apart: every active lane but those of a list retires and stands at the
successor. -/
def MovedBut (i : Issue) (g u : Group) (stay : Nat → Bool) : Prop :=
  u.width = g.width ∧ u.s = g.s ∧ ∀ k, k < g.width →
    { (u.lane k).data with wins := [] } = { (g.lane k).data with wins := [] } ∧
    (u.lane k).pc = (if hasBit i.lanes k && !stay k then succPc i.pc else (g.lane k).pc) ∧
    (u.lane k).retired = (g.lane k).retired + (if hasBit i.lanes k && !stay k then 1 else 0)

def Moved (i : Issue) (g u : Group) : Prop := MovedBut i g u fun _ => false

/-- What an access asks for: the lanes it serves, the lanes of its instruction, and how far it has come, left out. -/
def Access.asked (a : Access) : Access :=
  { a with lane := 0, lanes := 0, parts := 0, tr := none, st := .queued, fault := none, whole := false }

/-- A memory instruction issues: with the accesses aligned and inside the scratchpad, no debugger watching, room in FAR, and the wait of
a wide release over, one access for each guarded lane, or one for all of them in the uniform form, stands in the table; a lane that
awaits a value has opened its window of `win` instructions on it; every active lane moves on; no byte of memory changes, where the
context has no stub. -/
def Issues (ins : Instr) (h : Hd) (uni : Bool) (win : Option Nat) (f : State → Issue → Group → Nat → Access) : Prop :=
  ∀ s i g, s.current = some (i, g) → i.guarded g h ≠ [] → s.breaks (s.ctxOf g) = false →
    (∀ k ∈ i.guarded g h, (f s i g k).va.toNat % (f s i g k).size = 0) →
    (∀ k ∈ i.guarded g h, (f s i g k).sp = true → (f s i g k).va.toNat + (f s i g k).size ≤ s.allot g) →
    (∀ k ∈ i.guarded g h, (f s i g k).releases = true → Scope.outer (f s i g k).sc = true → s.gate i g (f s i g k).sc true = .go) →
    s.room i.gid (if uni then 1 else (i.guarded g h).length) = true →
    ∃ t u, exec ins s = .next t ∧ t.group i.gid = some u ∧ Moved i g u ∧
      ((s.sum.stubs.all fun p => p.2.ctx != s.ctxOf g) = true → t.mem.cells = s.mem.cells) ∧
      ∀ k ∈ i.guarded g h, ∃ p ∈ t.run.accs, s.sch.nextId ≤ p.1 ∧
        p.2.lanes = (if uni then laneMask (i.guarded g h) else laneMask [k]) ∧
        p.2.parts = laneMask (i.guarded g h) ∧ p.2.asked = (f s i g (if uni then (i.guarded g h).headD 0 else k)).asked ∧
        ∀ la, win = some la → k < g.width → (p.1, la) ∈ (u.lane k).wins

/-- A misaligned access in a guarded lane traps ALIGNMENT with its address, and nothing is issued (R183). -/
def Misaligned (ins : Instr) (h : Hd) (f : State → Issue → Group → Nat → DWord × Nat) : Prop :=
  ∀ s i g, s.current = some (i, g) →
    let bad := (i.guarded g h).filter fun k => (f s i g k).1.toNat % (f s i g k).2 != 0
    bad ≠ [] → exec ins s = .next (s.takeTrap i (faultsOf bad .alignment fun k => (f s i g k).1))

/-! ### Words of single statements -/

/-- The address that MEET names for a lane. -/
def meetTo (i : Issue) (g : Group) (k : MeetK) (a b : Opnd) (j : Nat) : DWord :=
  let l := (i.source g).lane j
  match k with
  | .label => lineTarget i.pc (readOp (i.source g) l true a).toInt (readOp (i.source g) l true b).toNat
  | .reg => readOp (i.source g) l true a
  | .clr => 0

/-- A floating-point instruction: with no FLOAT fault enabled and raised in a guarded lane it completes with the effect `f` in each; else the
bundle traps FLOAT with the exceptions in %faddr, and nothing is written (R140). -/
def FloatRuns (ins : Instr) (h : Hd) (f : State → Issue → Group → Nat → Lane → Eff) : Prop :=
  Completes ins h f ∧ ∀ s i g, s.current = some (i, g) →
    let eff (k : Nat) := f s i (i.source g) k ((i.source g).lane k)
    let bad := (i.guarded g h).filter fun k => decide (((i.source g).lane k).fpen.setWidth 5 &&& (eff k).exc.setWidth 5 ≠ (0 : BitVec 5))
    bad ≠ [] → exec ins s = .next (s.takeTrap i (faultsOf bad .float fun k => (eff k).exc.setWidth 64))

/-- What BTL and BTS need to issue a transfer (R183, R222, R225, R226): the tag in range and not BUSY, memory, scratchpad and strides in
64-byte units, the rows inside the allotment, room in the queue, and the wait of .rel over. -/
def BlockIssues (s : State) (i : Issue) (g : Group) (h : Hd) (load rel : Bool) (d a b c e : Opnd) (k : Nat) (ks : List Nat) : Prop :=
  let src := i.source g
  let l := src.lane k
  let sh := shapeOf src l c e
  let sp := srcN32 src l b
  i.guarded g h = k :: ks ∧ (readOp src l true d).toNat < 64 ∧ (readOp src l true a).toNat % 64 = 0 ∧ sh.2.2.1 % 64 = 0 ∧ sp % 64 = 0 ∧
    sh.2.2.2 % 64 = 0 ∧ (0 < sh.1 → 0 < sh.2.1 → sp + (sh.1 - 1) * sh.2.2.2 + sh.2.1 * 64 ≤ s.allot g) ∧ s.busyTag i.gid (readOp src l true d).toNat = none ∧
    (s.eng.transfers.filter fun p => p.2.core == g.core && p.2.load == load).length < 16 ∧
    (rel = true → s.reached i.gid .die (s.earlier i g) = true)

/-- What a lane tile instruction needs to be performed at once (R241, R243, R247): a declared tile that no operation uses, room in the
core's queue, and no log that orders it. -/
def TileFree (s : State) (i : Issue) (g : Group) (h : Hd) (k : Nat) (ks : List Nat) (tile : Nat) : Prop :=
  i.guarded g h = k :: ks ∧ tile < s.declaredTiles g ∧ (s.coreOps g.core).length < 32 ∧ Table.get s.ckp.ints (s.ctxOf g) = none ∧
    s.tileOrder g.team tile = [] ∧ ∃ tm, Table.get s.run.teams g.team = some tm ∧ tile < tm.tiles.length

/-- No write of the bundle to bytes of scratchpad is still to land (R178, R258, R259). -/
def SpQuiet (s : State) (i : Issue) (off n : Nat) : Prop :=
  ∀ p ∈ s.run.accs, ¬ (p.2.sp = true ∧ p.2.kind.writes = true ∧ p.2.gid = i.gid ∧ p.2.lanes &&& i.lanes ≠ 0 ∧ p.2.st = .queued ∧
    overlap off n p.2.va.toNat p.2.size = true)

/-- What is left of a queue's deficit once nothing is pending in it: 0 where it was positive and no kernel of the queue is in the table. -/
def State.deficitLeft (s : State) (q : Nat) : Int :=
  if (s.ker.kernels.any fun p => (p.2.launch.map (·.queue)) == some q) = false ∧ 0 < (s.queue q).deficit then 0 else (s.queue q).deficit

/-- The calls of a bundle: the numbers that its guarded lanes name, ascending, each with its lanes. -/
def callsOf (i : Issue) (g : Group) (h : Hd) (a : Opnd) : List (Nat × Mask) :=
  let num (k : Nat) : Nat := callNumber (i.source g) ((i.source g).lane k) a
  (ascending ((i.guarded g h).map num).eraseDups).map fun n =>
    (n, laneMask ((i.guarded g h).filter fun k => num k == n))

/-- The host is attached and the device is powered: its commands run. -/
def CanCommand (s : State) (host : Nat) : Prop := s.attached host = true ∧ s.sch.powered = true

/-- A command changed nothing but its status (R300, R422). -/
def OnlyStatus (s t : State) (host st : Nat) : Prop := t = s.setPage host { s.page host with stat := BitVec.ofNat 64 st }

/-- A port came to stand as given; no other port, no group, no engine and no byte of memory changed. -/
def PortBecomes (s t : State) (n : Nat) (p : Port) : Prop :=
  t.port n = p ∧ (∀ m, m ≠ n → t.port m = s.port m) ∧ t.run.groups = s.run.groups ∧ t.mem = s.mem ∧ t.eng = s.eng

/-- An index operand: an immediate, a register read as .n32, or 0 where it is absent. -/
def indexIn (g : Group) (l : Lane) (b : Opnd) : Nat := match b with | .imm x => x.toNat | .absent => 0 | _ => srcN32 g l b

/-- The next iteration of a sequence that Clove takes, of a context that keeps no log (R383). -/
def NextIteration (s : State) (seq id : Nat) (x : Iter) : Prop :=
  (s.clv.iters.find? fun p => p.2.answer.isNone && p.2.handle.toNat % 2 ^ 16 == seq &&
    s.orderAllows (s.iterCtx p.2) 2 seq (s.iterWid p.2) 0) = some (id, x) ∧ Table.get s.clv.iters id = some x ∧
  Table.get s.ckp.ints (s.iterCtx x) = none

end Sys2Proof.Machine
end

