-- ==== Sys2Proof/Certificates/Slice0/Obligations.lean ====
section
/-! DEFINITION. Certificates/Slice0/Obligations.lean: what is claimed of the machine, one definition for each claim. The words in which
the claims are put stand in Safety.lean. -/

open Sys2Proof Sys2Proof.Machine

/-! ### Lane instructions -/

/-- R102, R103, R106, R107: the exact result of the operands' integers, fitted to the type (R28), and nothing else. -/
def Obligations.IntegerArithmeticResults : Prop :=
  (∀ h t sat d a b, Writes (.iadd h t sat d a b) h fun _ _ g _ l =>
    { regs := [(d, t.is64, ITy.fit t sat (srcInt g l t a + srcInt g l t b))] }) ∧
  (∀ h t sat d a b, Writes (.isub h t sat d a b) h fun _ _ g _ l =>
    { regs := [(d, t.is64, ITy.fit t sat (srcInt g l t a - srcInt g l t b))] }) ∧
  (∀ h t sat d a b, Writes (.imul h t sat d a b) h fun _ _ g _ l =>
    { regs := [(d, t.is64, ITy.fit t sat (srcInt g l t a * srcInt g l t b))] }) ∧
  (∀ h t d a b, Writes (.imulh h t d a b) h fun _ _ g _ l =>
    { regs := [(d, t.is64, ITy.fit t false ((srcInt g l t a * srcInt g l t b) / 2 ^ ITy.width t))] }) ∧
  (∀ h t sat d a b c, Writes (.imad h t false sat d a b c) h fun _ _ g _ l =>
    { regs := [(d, t.is64, ITy.fit t sat (srcInt g l t a * srcInt g l t b + srcInt g l t c))] }) ∧
  (∀ h sat d a b c, Writes (.imad h .i32 true sat d a b c) h fun _ _ g _ l =>
    { regs := [(d, true, ITy.fit .i64 sat (srcInt g l .i32 a * srcInt g l .i32 b + srcInt g l .i64 c))] }) ∧
  (∀ h sat d a b c, Writes (.imad h .n32 true sat d a b c) h fun _ _ g _ l =>
    { regs := [(d, true, ITy.fit .n64 sat (srcInt g l .n32 a * srcInt g l .n32 b + srcInt g l .n64 c))] }) ∧
  (∀ h t d a b, Writes (.imin h t d a b) h fun _ _ g _ l =>
    { regs := [(d, t.is64, ITy.fit t false (Min.min (srcInt g l t a) (srcInt g l t b)))] }) ∧
  (∀ h t d a b, Writes (.imax h t d a b) h fun _ _ g _ l =>
    { regs := [(d, t.is64, ITy.fit t false (Max.max (srcInt g l t a) (srcInt g l t b)))] }) ∧
  (∀ h t sat d a, Writes (.iabs h t sat d a) h fun _ _ g _ l =>
    { regs := [(d, t.is64, ITy.fit t sat ((srcInt g l t a).natAbs : Int))] }) ∧
  (∀ h t sat d a, Writes (.ineg h t sat d a) h fun _ _ g _ l =>
    { regs := [(d, t.is64, ITy.fit t sat (-srcInt g l t a))] }) ∧
  (∀ h t d a b c e, Writes (.iaddc h t d a b c e) h fun _ _ g _ l =>
    let sum := srcInt g l t a + srcInt g l t b + (readPred l false c).toInt
    { regs := [(d, t.is64, ITy.fit t false sum)], preds := [(e, decide (2 ^ ITy.width t ≤ sum))] })

/-- R27, R28, R100: an integer result wraps modulo 2^w, or clamps into the type's range under .sat. An s register supplies the low bits of an
operand, and a result of width w written to it fills its 64 bits by sign under .i types and with zeros under the others. -/
def Obligations.FitWrapsAndClamps : Prop :=
  (∀ (t : ITy) (x : Int),
    (ITy.fit t false x).setWidth (ITy.width t) = BitVec.ofInt (ITy.width t) x ∧
    (t.isSigned = true → ITy.fit t false x = (BitVec.ofInt (ITy.width t) x).signExtend 64) ∧
    (t.isSigned = false → ITy.fit t false x = (BitVec.ofInt (ITy.width t) x).setWidth 64) ∧
    (x < ITy.min t → ITy.fit t true x = BitVec.ofInt 64 (ITy.min t)) ∧
    (ITy.max t < x → ITy.fit t true x = BitVec.ofInt 64 (ITy.max t)) ∧
    (ITy.min t ≤ x → x ≤ ITy.max t → ITy.fit t true x = ITy.fit t false x)) ∧
  (∀ (g : Group) (l : Lane) (t : ITy) (n : BitVec 6), (readOp g l t.is64 (.s n)).setWidth (ITy.width t) = (Sparse.get g.s n.toNat).setWidth (ITy.width t)) ∧
  (∀ (m : Sparse 64) (k : Nat) (t : ITy) (sat : Bool) (x : Int) (n : BitVec 6), Sparse.wf m = true →
    let y := (ITy.fit t sat x).setWidth (ITy.width t)
    Sparse.get (sAfter m [(k, { regs := [(.s n, t.is64, ITy.fit t sat x)] })]) n.toNat = if t.isSigned then y.signExtend 64 else y.setWidth 64)

/-- R103, R110, R111, R112: the bitwise instructions work bit by bit on the source bits, at both widths; bits above the width are 0 (R100).
Shifts, rotations, the funnel shift and bit fields. -/
def Obligations.BitAndShiftResults : Prop :=
  (∀ t : ITy, t = .b32 ∨ t = .b64 →
    (∀ h d a b, Writes (.and h t d a b) h fun _ _ g _ l =>
      { regs := [(d, t.is64, cut t (readOp g l t.is64 a &&& readOp g l t.is64 b))] }) ∧
    (∀ h d a b, Writes (.or h t d a b) h fun _ _ g _ l =>
      { regs := [(d, t.is64, cut t (readOp g l t.is64 a ||| readOp g l t.is64 b))] }) ∧
    (∀ h d a b, Writes (.xor h t d a b) h fun _ _ g _ l =>
      { regs := [(d, t.is64, cut t (readOp g l t.is64 a ^^^ readOp g l t.is64 b))] }) ∧
    (∀ h d a, Writes (.not h t d a) h fun _ _ g _ l => { regs := [(d, t.is64, cut t (~~~readOp g l t.is64 a))] }) ∧
    (∀ h d a b c e, Writes (.bool3 h t d a b c (.imm e)) h fun _ _ g _ l =>
      { regs := [(d, t.is64, cut t (bitsOf fun j => e.getLsbD (7 -
          (4 * ((readOp g l t.is64 a).getLsbD j).toNat + 2 * ((readOp g l t.is64 b).getLsbD j).toNat +
            ((readOp g l t.is64 c).getLsbD j).toNat))))] }) ∧
    (∀ h d a, Writes (.brev h t d a) h fun _ _ g _ l =>
      { regs := [(d, t.is64, cut t (bitsOf fun j => (readOp g l t.is64 a).getLsbD (ITy.width t - 1 - j)))] }) ∧
    (∀ h d a, Writes (.popc h t d a) h fun _ _ g _ l =>
      { regs := [(d, false, BitVec.ofNat 64 (((List.range (ITy.width t)).filter fun j => (readOp g l t.is64 a).getLsbD j).length))] }) ∧
    (∀ h d a, Writes (.clz h t d a) h fun _ _ g _ l =>
      { regs := [(d, false, BitVec.ofNat 64 (((List.range (ITy.width t)).reverse.takeWhile fun j =>
          !(readOp g l t.is64 a).getLsbD j).length))] }) ∧
    (∀ h d a, Writes (.ctz h t d a) h fun _ _ g _ l =>
      { regs := [(d, false, BitVec.ofNat 64 (((List.range (ITy.width t)).takeWhile fun j =>
          !(readOp g l t.is64 a).getLsbD j).length))] })) ∧
  ((∀ h t d a b, Writes (.shl h t d a b) h fun _ _ g _ l => { regs := [(d, t.is64, ITy.fit t false
    (if ITy.width t ≤ srcN32 g l b then 0 else srcInt g l t a * 2 ^ srcN32 g l b))] }) ∧
  (∀ h t d a b, Writes (.shr h t d a b) h fun _ _ g _ l => { regs := [(d, t.is64, ITy.fit t false
    (if ITy.width t ≤ srcN32 g l b then 0 else srcInt g l t a / 2 ^ srcN32 g l b))] }) ∧
  (∀ h t d a b, Writes (.sar h t d a b) h fun _ _ g _ l => { regs := [(d, t.is64, ITy.fit t false
    (srcInt g l t a / 2 ^ Min.min (srcN32 g l b) (ITy.width t - 1)))] }) ∧
  (∀ h right d a b, Writes (.rot h .b32 right d a b) h fun _ _ g _ l => { regs := [(d, false,
    (let x : BitVec 32 := (readOp g l false a).setWidth 32
     if right then x.rotateRight (srcN32 g l b) else x.rotateLeft (srcN32 g l b)).setWidth 64)] }) ∧
  (∀ h right d a b, Writes (.rot h .b64 right d a b) h fun _ _ g _ l => { regs := [(d, true,
    if right then (readOp g l true a).rotateRight (srcN32 g l b) else (readOp g l true a).rotateLeft (srcN32 g l b))] }) ∧
  (∀ h left d a b c, Writes (.fsh h .b32 left d a b c) h fun _ _ g _ l => { regs := [(d, false,
    (let v : BitVec 64 := (readOp g l false a).setWidth 32 ++ (readOp g l false b).setWidth 32
     let n := srcN32 g l c % 32
     if left then ((v <<< n) >>> 32).setWidth 32 else (v >>> n).setWidth 32 : BitVec 32).setWidth 64)] }) ∧
  (∀ h left d a b c, Writes (.fsh h .b64 left d a b c) h fun _ _ g _ l => { regs := [(d, true,
    (let v : BitVec 128 := readOp g l true a ++ readOp g l true b
     let n := srcN32 g l c % 64
     if left then ((v <<< n) >>> 64).setWidth 64 else (v >>> n).setWidth 64 : BitVec 64))] }) ∧
  (∀ h t d a b c, Writes (.bfx h t d a b c) h fun _ _ g _ l => { regs := [(d, t.is64, ITy.fit t false
    (bitField (ITy.width t) t.isSigned (unsignedOf (ITy.width t) (srcInt g l t a)) (srcN32 g l b % 256) (srcN32 g l c % 256)))] }) ∧
  (∀ h t d a b c e, Writes (.bfi h t d a b c e) h fun _ _ g _ l => { regs := [(d, t.is64, ITy.fit t false
    (bitInsert (ITy.width t) (unsignedOf (ITy.width t) (srcInt g l t a)) (unsignedOf (ITy.width t) (srcInt g l t b))
      (srcN32 g l c % 256) (srcN32 g l e % 256)))] }) ∧
  (∀ h t k d a b, Writes (.lea h t k d a b) h fun _ _ g _ l =>
    { regs := [(d, true, readOp g l true a + BitVec.ofInt 64 (srcInt g l t b) <<< k.toNat)] }))

/-- R65, R104, R105, R109, R110, R114, R117: moves, selection, comparison and predicates; NOP does nothing but move on. -/
def Obligations.MoveAndPredicateResults : Prop :=
  Writes .nop noGuard (fun _ _ _ _ _ => {}) ∧
  (∀ h t d a, Writes (.mov h t d a) h fun _ _ g _ l => { regs := [(d, t.is64, ITy.fit t false (srcInt g l t a))] }) ∧
  (∀ h d x, Writes (.movi h .b32 d x) h fun _ _ _ _ _ => { regs := [(d, false, x.setWidth 64)] }) ∧
  (∀ h d x, Writes (.movi h .i64 d x) h fun _ _ _ _ _ => { regs := [(d, true, x.signExtend 64)] }) ∧
  (∀ h d x, Writes (.movi h .n64 d x) h fun _ _ _ _ _ => { regs := [(d, true, x.setWidth 64)] }) ∧
  (∀ h d x, Writes (.movi h .hi d x) h fun _ _ _ _ _ => { his := [(d, x)] }) ∧
  (∀ h t d a b c, Writes (.sel h t d a b c) h fun _ _ g _ l =>
    { regs := [(d, t.is64, ITy.fit t false (srcInt g l t (if readPred l false c then a else b)))] }) ∧
  (∀ h t cc op d a b c, Writes (.icmp h t cc op d a b c) h fun _ _ g _ l =>
    let x := srcInt g l t a; let y := srcInt g l t b
    let r : Bool := match cc with
      | .eq => x == y | .ne => x != y | .lt => decide (x < y) | .le => decide (x ≤ y) | .gt => decide (x > y) | .ge => decide (x ≥ y)
    { preds := [(d, match op with
      | .and => r && readPred l true c | .or => r || readPred l false c | .xor => r != readPred l false c)] }) ∧
  (∀ h d a b c e, Writes (.pbool h d a b c (.imm e)) h fun _ _ _ _ l =>
    { preds := [(d, e.getLsbD (7 - (4 * (readPred l false a).toNat + 2 * (readPred l false b).toNat + (readPred l false c).toNat)))] }) ∧
  (∀ h d, Writes (.pmovGet h d) h fun _ _ _ _ l => { regs := [(d, false, bitsOf fun j => decide (j < 8) && l.pred j)] }) ∧
  (∀ h a m, Writes (.pmovPut h a (.imm m)) h fun _ _ g _ l =>
    { preds := (List.range 7).filterMap fun j =>
        if m.getLsbD j then some (.p false (BitVec.ofNat 3 j), (readOp g l false a).getLsbD j) else none })

/-- R29: the quotient rounds towards zero and the remainder takes the sign of the dividend; a divisor of zero gives an all-ones quotient and a
zero remainder, and faults INT_DIVIDE only when %fpen enables that fault. -/
def Obligations.Division : Prop :=
  (∀ h t d a b e, Completes (.idiv h t d a b e) h fun _ _ g _ l =>
    let x := srcInt g l t a; let y := srcInt g l t b
    { fault := if y = 0 ∧ l.fpen.getLsbD 8 then some (.intDivide, 0) else none
      regs := [(d, t.is64, if y = 0 then (if t.isSigned then -1 else ITy.fit t false (-1)) else ITy.fit t false (x.tdiv y)),
        (e, t.is64, if y = 0 then 0 else ITy.fit t false (x.tmod y))] }) ∧
  (∀ h t d a b e, TrapsOn (.idiv h t d a b e) h fun _ _ g _ l =>
    { fault := if srcInt g l t b = 0 ∧ l.fpen.getLsbD 8 then some (.intDivide, 0) else none }) ∧
  (∀ t : ITy, t.isSigned = true → ITy.fit t false ((ITy.min t).tdiv (-1)) = BitVec.ofInt 64 (ITy.min t) ∧ (ITy.min t).tmod (-1) = 0)

/-- R115, R116: SRD reads the special register, as 32 bits or as 64; where D is an s register, the lowest active lane's. Without a replay log
%ptime is the counter of the die, and no later read of the group gives less (R20). SWR writes %srseed (0 as 1), %fpst, %fpen or %xpc, of the
last two classes only the bits they have. -/
def Obligations.SpecialRegisters : Prop :=
  (∀ h t d (n : BitVec 9), n ≠ 3 → Writes (.srd h t d (.sp n)) h fun s i g k l =>
    let x := if d.isS then s.special g i.gid ((i.active.head?).getD k) ((i.source g).lane ((i.active.head?).getD k)) n.toNat
      else s.special g i.gid k l n.toNat
    { regs := [(d, t.is64, if t.is64 then x else (x.setWidth 32 : BitVec 32).setWidth 64)] }) ∧
  (∀ h t d, ∀ s i g, s.current = some (i, g) → Table.get s.ckp.ints (s.ctxOf (i.source g)) = none →
    let now := s.ptime (i.source g)
    let g' := { g with timeFloor := if i.guarded g h ≠ [] ∧ g.timeFloor.toNat < now.toNat then now else g.timeFloor }
    ∃ u, exec (.srd h t d (.sp 3)) s = .next u ∧ Ran s u i g' (i.effects g h fun g _ _ =>
      { regs := [(d, t.is64, if t.is64 then s.ptime g else ((s.ptime g).setWidth 32 : BitVec 32).setWidth 64)] })) ∧
  (∀ h a, Writes (.swr h .b32 (.sp 0x008) a) h fun _ _ g _ l =>
    { sr := some (let x := (readOp g l false a).setWidth 32; if x = 0 then 1 else x) }) ∧
  (∀ h a, Writes (.swr h .b32 (.sp 0x009) a) h fun _ _ g _ l =>
    { upd := fun m => { m with fpst := (readOp g l false a).setWidth 32 &&& 0x3F } }) ∧
  (∀ h a, Writes (.swr h .b32 (.sp 0x00A) a) h fun _ _ g _ l =>
    { upd := fun m => { m with fpen := (readOp g l false a).setWidth 32 &&& 0x11F } }) ∧
  (∀ h a, Writes (.swr h .b64 (.sp 0x02C) a) h fun _ _ g _ l => { upd := fun m => { m with xpc := readOp g l true a } })

/-- R118, R119, R122, R53, R58, R95: transfers of control. A guarded lane goes to the target, with the successor as link value in CALL and
CALLX; the others go to the successor. REGION marks its own PC and counts. A malformed or unmarked target in any guarded lane traps
BRANCH_TARGET, with the target in %faddr. -/
def Obligations.ControlTransfer : Prop :=
  ((∀ h loff slot, Completes (.bra h loff slot) h fun s i g _ _ =>
    let dest := lineTarget i.pc loff.toInt slot.toNat
    { fault := if s.targetOk (s.ctxOf g) dest then none else some (.branchTarget, dest), pc := some dest }) ∧
  (∀ h a, Completes (.brx h a) h fun s _ g _ l =>
    let dest := readOp g l true a
    { fault := if s.targetOk (s.ctxOf g) dest then none else some (.branchTarget, dest), pc := some dest }) ∧
  (∀ h d loff slot, Completes (.call h d loff slot) h fun s i g _ _ =>
    let dest := lineTarget i.pc loff.toInt slot.toNat
    { fault := if s.targetOk (s.ctxOf g) dest then none else some (.branchTarget, dest), pc := some dest
      regs := [(d, true, succPc i.pc)] }) ∧
  (∀ h d a, Completes (.callx h d a) h fun s i g _ l =>
    let dest := readOp g l true a
    { fault := if s.targetOk (s.ctxOf g) dest then none else some (.branchTarget, dest), pc := some dest
      regs := [(d, true, succPc i.pc)] }) ∧
  (∀ h a, Completes (.ret h a) h fun s _ g _ l =>
    let dest := readOp g l true a
    { fault := if s.targetOk (s.ctxOf g) dest then none else some (.branchTarget, dest), pc := some dest }) ∧
  (∀ h, Writes (.region h) h fun _ i _ _ _ =>
    { upd := fun l => { l with regionPc := i.pc, regionBase := l.regionCtr, regionCtr := l.regionCtr + 1 } })) ∧
  ((∀ h loff slot, TrapsOn (.bra h loff slot) h fun s i g _ _ =>
    let dest := lineTarget i.pc loff.toInt slot.toNat
    { fault := if s.targetOk (s.ctxOf g) dest then none else some (.branchTarget, dest) }) ∧
  (∀ h a, TrapsOn (.brx h a) h fun s _ g _ l =>
    { fault := if s.targetOk (s.ctxOf g) (readOp g l true a) then none else some (.branchTarget, readOp g l true a) }) ∧
  (∀ h d loff slot, TrapsOn (.call h d loff slot) h fun s i g _ _ =>
    let dest := lineTarget i.pc loff.toInt slot.toNat
    { fault := if s.targetOk (s.ctxOf g) dest then none else some (.branchTarget, dest) }) ∧
  (∀ h d a, TrapsOn (.callx h d a) h fun s _ g _ l =>
    { fault := if s.targetOk (s.ctxOf g) (readOp g l true a) then none else some (.branchTarget, readOp g l true a) }) ∧
  (∀ h a, TrapsOn (.ret h a) h fun s _ g _ l =>
    { fault := if s.targetOk (s.ctxOf g) (readOp g l true a) then none else some (.branchTarget, readOp g l true a) }) ∧
  (∀ pc : DWord, pcOk pc = true ↔ pc.extractLsb' 3 3 = 0 ∧ (pc.extractLsb' 0 3).toNat ≤ 4) ∧
  (∀ pc : DWord, pcOk pc = true → pcOk (succPc pc) = true))

/-- R121, R74: TRAP raises USER_TRAP with its immediate in every guarded lane; TRET clears H and moves every guarded lane to its %xpc, faults
BRANCH_TARGET where that is malformed, and is an illegal encoding where H is clear in any lane of the bundle. -/
def Obligations.TrapAndReturn : Prop :=
  (∀ h imm s i g, s.current = some (i, g) → i.guarded g h ≠ [] →
    exec (.trap h imm) s = .next (s.takeTrap i (faultsOf (i.guarded g h) .userTrap fun _ => imm.setWidth 64))) ∧
  (∀ h imm, WritesWhen (fun _ i g => i.guarded g h = []) (.trap h imm) h fun _ _ _ _ _ => {}) ∧
  (∀ h, WritesWhen (fun _ i g => (∀ k ∈ i.active, (g.lane k).h = true) ∧ ∀ k ∈ i.guarded g h, pcOk ((i.source g).lane k).xpc = true)
    (.tret h) h fun _ _ _ _ l => { upd := fun m => { m with h := false }, pc := some l.xpc }) ∧
  (∀ h s i g, s.current = some (i, g) → (∀ k ∈ i.active, (g.lane k).h = true) →
    (∃ k ∈ i.guarded g h, pcOk ((i.source g).lane k).xpc = false) →
    exec (.tret h) s = .next (s.takeTrap i (i.traps g (i.effects g h fun _ _ l =>
      { fault := if pcOk l.xpc then none else some (.branchTarget, l.xpc) })))) ∧
  (∀ h s i g, s.current = some (i, g) → (∃ k ∈ i.active, (g.lane k).h = false) →
    exec (.tret h) s = .next (s.takeTrap i (faultsOf i.active .illegalEncoding fun _ => 0)))

/-- R73, R96, R97, R72, R93, R308: taking a precise fault. Every active lane enters the handler of the kernel header with H set, its %xpc at the
faulting instruction and its emulation registers at that word; lanes that faulted have their code and %faddr, the others 0; registers are as
the instruction found them, with the results that have arrived; every other lane keeps what it holds and where it stands; only lanes that a
meeting or join holds may be released. No byte of memory moves; S, %fpst and the region registers stay. Without a handler, or with H already
set in a lane that faults, the bundle parks instead: its lanes that have not exited are PARKED at the instruction with the fault's code, no
result is written, and a resident group becomes PARKED. -/
def Obligations.PreciseTraps : Prop :=
  (∀ (s : State) (i : Issue) (g0 : Group) (ker : Kernel) (fs : List (Nat × Code × DWord)),
    s.group i.gid = some g0 → s.kernelOf (i.source g0) = some ker → ker.hdr.handler ≠ 0 →
    s.handlerOk ker.ctx ker.hdr.handler = true → (∀ f ∈ fs, ((i.source g0).lane f.1).h = false) →
    let g := (i.source g0).flushPending i.gid i.lanes s.run.pend
    ∃ u, (s.takeTrap i fs).group i.gid = some u ∧ u.width = g.width ∧ u.s = g.s ∧ (s.takeTrap i fs).mem = s.mem ∧
      ∀ k, k < u.width →
        let l := g.lane k
        let m := u.lane k
        (hasBit i.lanes k = false → m.data = l.data ∧ m.pc = l.pc ∧ m.retired = l.retired ∧
          (l.st ≠ .held false → l.st ≠ .held true → m.st = l.st ∧ m.meet = l.meet)) ∧
        (hasBit i.lanes k = true →
          m.pc = ker.hdr.handler ∧ m.h = true ∧ m.xpc = i.pc0 ∧ m.xword = i.word ∧ m.xinfo = i.info ∧
          m.fcode = (match fs.find? fun f => f.1 == k with | some f => BitVec.ofNat 32 f.2.1.num | none => 0) ∧
          m.faddr = (match fs.find? fun f => f.1 == k with | some f => f.2.2 | none => 0) ∧
          m.v = l.v ∧ m.o = l.o ∧ m.a = l.a ∧ m.p = l.p ∧ m.sr = l.sr ∧ m.fpst = l.fpst ∧ m.fpen = l.fpen ∧
          (l.meet ≠ ker.hdr.handler → m.st = .running ∧ m.meet = l.meet) ∧
          m.regionPc = l.regionPc ∧ m.regionCtr = l.regionCtr ∧ m.retired = l.retired)) ∧
  (∀ (s : State) (i : Issue) (g0 : Group) (ker : Kernel) (fs : List (Nat × Code × DWord)),
    s.group i.gid = some g0 → s.kernelOf (i.source g0) = some ker →
    (ker.hdr.handler = 0 ∨ ∃ f ∈ fs, ((i.source g0).lane f.1).h = true) →
    ∃ u, (s.takeTrap i fs).group i.gid = some u ∧ u.s = (i.source g0).s ∧
      ((i.source g0).st = .resident → u.st = .parked) ∧
      ∀ k, k < u.width →
        let l := (i.source g0).lane k
        let m := u.lane k
        (hasBit i.lanes k = true → l.st ≠ .exited → m.st = .parked ∧ m.pc = l.pc ∧ m.v = l.v ∧ m.o = l.o ∧ m.a = l.a ∧ m.p = l.p ∧
          m.h = l.h ∧ m.fcode = (match fs.find? fun f => f.1 == k with | some f => BitVec.ofNat 32 f.2.1.num | none => 0)) ∧
        (hasBit i.lanes k = false → m = l))

/-- R93, R120, R123, R156, R157: EXIT, SLEEP, MEET and JOIN complete, and what becomes of the states of lanes. EXIT ends the guarded lanes, and
the group leaves the machine with its last lane; SLEEP waits for the counter of the die plus the duration; MEET sets the meeting register,
from the next instruction on, and faults BRANCH_TARGET where the address is malformed; JOIN holds the lane until every lane of the group
that has not exited is held at one. Registers and memory of the other lanes stay. -/
def Obligations.LaneStateInstructions : Prop :=
  (∀ h s i g, s.current = some (i, g) → g.lives (i.guarded g h) →
    ∃ t u, exec (.exit h) s = .next t ∧ t.group i.gid = some u ∧ u.width = g.width ∧ u.s = g.s ∧
      (∀ k ∈ i.guarded g h, k < g.width → (u.lane k).st = .exited) ∧
      ∀ k, k < g.width → (u.lane k).data = (g.lane k).data ∧
        (u.lane k).pc = (if hasBit i.lanes k then succPc i.pc else (g.lane k).pc) ∧
        (k ∉ i.guarded g h → ((u.lane k).st = .exited ↔ (g.lane k).st = .exited))) ∧
  (∀ h s i g, s.current = some (i, g) → ¬ g.lives (i.guarded g h) → (∃ k ∈ i.guarded g h, k < g.width) →
    ∃ t, exec (.exit h) s = .next t ∧ t.group i.gid = none ∧ ∀ gid, gid ≠ i.gid → t.group gid = s.group gid) ∧
  (∀ h a, Writes (.sleep h a) h fun _ _ _ _ _ => {}) ∧
  (∀ h a s i g, s.current = some (i, g) → (∀ k ∈ i.active, (g.lane k).st = .running ∧ (g.lane k).meet = 0) →
    ∃ t u, exec (.sleep h a) s = .next t ∧ t.group i.gid = some u ∧
      ∀ k ∈ i.guarded g h, k < g.width → (u.lane k).st =
        (let n := srcN32 (i.source g) ((i.source g).lane k) a
         if n = 0 then .running else .sleeping (s.ptime (i.source g) + BitVec.ofNat 64 n))) ∧
  (∀ h k a b, WritesWhen (fun _ i g => ∀ j ∈ i.guarded g h, pcOk (meetTo i g k a b j) = true) (.meet h k a b) h fun _ _ _ _ _ => {}) ∧
  (∀ h k a b s i g, s.current = some (i, g) → (∀ j ∈ i.active, (g.lane j).st = .running) →
    (∀ j ∈ i.guarded g h, pcOk (meetTo i g k a b j) = true) →
    ∃ t u, exec (.meet h k a b) s = .next t ∧ t.group i.gid = some u ∧
      ∀ j ∈ i.guarded g h, j < g.width →
        ((u.lane j).meet = meetTo i g k a b j ∨ (meetTo i g k a b j = succPc i.pc ∧ (u.lane j).meet = 0)) ∧
        (meetTo i g k a b j ≠ succPc i.pc → (u.lane j).st = .running)) ∧
  (∀ h k a b, TrapsOn (.meet h k a b) h fun _ i g _ l =>
    let dest : DWord := match k with
      | .label => lineTarget i.pc (readOp g l true a).toInt (readOp g l true b).toNat
      | .reg => readOp g l true a
      | .clr => 0
    { fault := if pcOk dest then none else some (.branchTarget, dest) }) ∧
  (∀ h, Writes (.join h) h fun _ _ _ _ _ => {}) ∧
  (∀ h s i g, s.current = some (i, g) →
    ∃ t u, exec (.join h) s = .next t ∧ t.group i.gid = some u ∧
      ∀ k ∈ i.guarded g h, k < g.width → (u.lane k).st =
        (if i.firstOfPair = false ∧ ∀ j, j < g.width → j ∈ i.guarded g h ∨ (g.lane j).st = .exited ∨ (g.lane j).st = .held true
         then .running else .held true))

/-- R150 to R153: the cross-lane instructions read the participants, the active lanes whose guard holds, and no others. -/
def Obligations.CrossLaneResults : Prop :=
  (∀ h m seg w64 d a b c e, WritesWhen (fun _ _ g => shflSeg seg g.width ≤ g.width) (.shfl h m seg w64 d a b c e) h fun _ i g k l =>
    let part := i.guarded g h
    let S := if seg = 0 then g.width else 2 ^ seg.toNat
    let base := k - k % S
    let n := srcN32 g l b
    let src : Bool × Nat := match m with
      | .from => (true, base + n % S)
      | .lower => (decide (n < S) && decide (base + n ≤ k), k - n)
      | .upper => (decide (n < S) && decide (k + n < base + S), k + n)
      | .pair => (decide (n < S), k ^^^ n)
    let ok := src.1 && decide (src.2 ∈ part)
    let t := if w64 then ITy.b64 else .b32
    { regs := [(d, w64, ITy.fit t false (if ok then srcInt g (g.lane src.2) t a
        else if c.isAbsent then srcInt g (g.lane k) t a else srcInt g (g.lane k) t c))]
      preds := [(e, ok)] }) ∧
  (∀ h m seg w64 d a b c e s i g, s.current = some (i, g) → g.width < shflSeg seg g.width →
    exec (.shfl h m seg w64 d a b c e) s = .next (s.takeTrap i (faultsOf i.active .illegalEncoding fun _ => 0))) ∧
  (∀ h first w64 d a b c, Writes (.bcast h first w64 d a b c) h fun _ i g k l =>
    let part := i.guarded g h
    let t := if w64 then ITy.b64 else .b32
    let j := if first then part.headD 0 else srcN32 g l b
    { regs := [(d, w64, ITy.fit t false (if j ∈ part then srcInt g (g.lane j) t a else srcInt g (g.lane k) t c))] }) ∧
  (∀ h d a, Writes (.ballot h d a) h fun _ i g _ _ =>
    { regs := [(d, true, bitsOf fun j => decide (j ∈ i.guarded g h) && readPred (g.lane j) false a)] }) ∧
  (∀ h d a, Writes (.vote h .every d a) h fun _ i g _ _ =>
    { preds := [(d, decide (∀ j ∈ i.guarded g h, readPred (g.lane j) false a = true))] }) ∧
  (∀ h d a, Writes (.vote h .some d a) h fun _ i g _ _ =>
    { preds := [(d, decide (∃ j ∈ i.guarded g h, readPred (g.lane j) false a = true))] }) ∧
  (∀ h d a, Writes (.vote h .agree d a) h fun _ i g _ _ =>
    { preds := [(d, decide (∀ j ∈ i.guarded g h, ∀ k ∈ i.guarded g h, readPred (g.lane j) false a = readPred (g.lane k) false a))] }) ∧
  (∀ h w64 d a e, Writes (.matchv h false w64 d a e) h fun _ i g k _ =>
    let t := if w64 then ITy.b64 else .b32
    { regs := [(d, true, bitsOf fun j => decide (j ∈ i.guarded g h) && srcInt g (g.lane j) t a == srcInt g (g.lane k) t a)] }) ∧
  (∀ h w64 d a e, Writes (.matchv h true w64 d a e) h fun _ i g k _ =>
    let t := if w64 then ITy.b64 else .b32
    let same := decide (∀ j ∈ i.guarded g h, srcInt g (g.lane j) t a = srcInt g (g.lane k) t a)
    { regs := [(d, true, if same then bitsOf fun j => decide (j ∈ i.guarded g h) else 0)], preds := [(e, same)] }) ∧
  (∀ h d e, Writes (.elect h d e) h fun _ i g k _ =>
    { preds := [(d, decide (∀ j ∈ i.guarded g h, k ≤ j))], regs := [(e, false, BitVec.ofNat 64 ((i.guarded g h).headD 0))] }) ∧
  (∀ h d, Writes (.active h false d) h fun _ i g _ _ => { regs := [(d, true, bitsOf fun j => decide (j ∈ i.guarded g h))] }) ∧
  (∀ h d, Writes (.active h true d) h fun _ _ g _ _ =>
    { regs := [(d, true, bitsOf fun j => decide (j < g.width) && (g.lane j).st != .exited)] })

/-- R125 to R129, R131, R133, R140: the floating-point arithmetic of the mould, with no FLOAT fault enabled in a guarded lane: the exact value
of each instruction rounded once, exceptions added to %fpst; with one enabled and raised, the bundle traps FLOAT (R140). With an exception
enabled in %fpen and raised in a guarded lane, the bundle traps FLOAT with the exceptions in %faddr, and nothing is written. -/
def Obligations.FloatArithmeticResults : Prop :=
  ((∀ h rm d a b, FloatRuns (.fadd h rm d a b) h fun _ _ => fpMould h .f32 rm d [a, b] (fun
    | [x, y] => Machine.Num.sum rm [x, y] | _ => (.nan false, false))) ∧
  (∀ h rm d a b, FloatRuns (.fsub h rm d a b) h fun _ _ => fpMould h .f32 rm d [a, b] (fun
    | [x, y] => Machine.Num.sum rm [x, y.negate] | _ => (.nan false, false))) ∧
  (∀ h rm d a b, FloatRuns (.fmul h rm d a b) h fun _ _ => fpMould h .f32 rm d [a, b] (fun
    | [x, y] => Machine.Num.mul x y | _ => (.nan false, false))) ∧
  (∀ h rm d a b c, FloatRuns (.ffma h rm d a b c) h fun _ _ => fpMould h .f32 rm d [a, b, c] (fun
    | [x, y, z] => Machine.Num.fma rm x y z | _ => (.nan false, false))) ∧
  (∀ h rm d a b, FloatRuns (.fscale h rm d a b) h fun _ _ g k l => fpMould h .f32 rm d [a] (fun
    | [x] => ((if x.isNan then .nan false else x).scale (srcInt g l .i32 b), x.isSig) | _ => ((Machine.Num.nan false).scale (srcInt g l .i32 b), false))
      g k l) ∧
  (∀ h t rm d a b, FloatRuns (.pkadd h t rm d a b) h fun _ _ => fpMould h t rm d [a, b] (fun
    | [x, y] => Machine.Num.sum rm [x, y] | _ => (.nan false, false))) ∧
  (∀ h t rm d a b, FloatRuns (.pkmul h t rm d a b) h fun _ _ => fpMould h t rm d [a, b] (fun
    | [x, y] => Machine.Num.mul x y | _ => (.nan false, false))) ∧
  (∀ h t rm d a b c, FloatRuns (.pkfma h t rm d a b c) h fun _ _ => fpMould h t rm d [a, b, c] (fun
    | [x, y, z] => Machine.Num.fma rm x y z | _ => (.nan false, false))) ∧
  (∀ h t rm d a b c, FloatRuns (.fdot2 h t rm d a b c) h fun _ _ g _ l =>
    let f := fmtOf t
    let ins := [elemIn h g l f 0 a, elemIn h g l f 1 a, elemIn h g l f 0 b, elemIn h g l f 1 b, elemIn h g l .f32 0 c]
    let p0 := Machine.Num.mul (f.decode (elemIn h g l f 0 a).1) (f.decode (elemIn h g l f 0 b).1)
    let p1 := Machine.Num.mul (f.decode (elemIn h g l f 1 a).1) (f.decode (elemIn h g l f 1 b).1)
    let v := Machine.Num.sum rm [p0.1, p1.1, Fmt.f32.decode (elemIn h g l .f32 0 c).1]
    let r := Fmt.f32.flushOut h.fo (Fmt.f32.encode rm (draw rm l.sr).1 v.1)
    { regs := [(d, false, BitVec.ofNat 64 r.1)], sr := if rm = .sr then some (draw rm l.sr).2 else none
      exc := ins.foldl (fun x i => x ||| i.2) r.2 ||| (if p0.2 || p1.2 || v.2 || oppositeInf p0.1 p1.1 then Exc.nv else 0) }) ∧
  (∀ h rm x d a, FloatRuns (.frnd h rm x d a) h fun _ _ g _ l =>
    let i := elemIn h g l .f32 0 a
    let r : Nat × Exc := match Fmt.f32.decode i.1 with
      | .nan sg => (Fmt.f32.nanBits, if sg then Exc.nv else 0)
      | .inf n => (Fmt.f32.infBits n, 0)
      | .fin n m e =>
        let q := roundUnit rm (draw rm l.sr).1 n m e 0
        ((Fmt.f32.encode .rne 0 (.fin n q.1 0)).1, if x && q.2 then Exc.nx else 0)
    { regs := [(d, false, BitVec.ofNat 64 r.1)], exc := r.2 ||| i.2, sr := if rm = .sr then some (draw rm l.sr).2 else none })) ∧
  (∀ h rm d a b s i g, s.current = some (i, g) →
    let eff (k : Nat) := fpMould h .f32 rm d [a, b] (fun | [x, y] => Machine.Num.mul x y | _ => (.nan false, false)) (i.source g) k ((i.source g).lane k)
    let bad := (i.guarded g h).filter fun k => decide (((i.source g).lane k).fpen.setWidth 5 &&& (eff k).exc.setWidth 5 ≠ (0 : BitVec 5))
    bad ≠ [] → exec (.fmul h rm d a b) s = .next (s.takeTrap i (faultsOf bad .float fun k => (eff k).exc.setWidth 64)))

/-- R129, R131: minimum and maximum, by element, and comparison, ordered and unordered; an exception enabled and raised traps FLOAT (R140). -/
def Obligations.FloatComparisonResults : Prop :=
  (∀ h d a b, FloatRuns (.fmin h .f32 d a b) h fun _ _ g _ l =>
    let x := elemIn h g l .f32 0 a; let y := elemIn h g l .f32 0 b
    { regs := [(d, false, BitVec.ofNat 64 (Fmt.f32.minMax false x.1 y.1).1)], exc := (Fmt.f32.minMax false x.1 y.1).2 ||| x.2 ||| y.2 }) ∧
  (∀ h d a b, FloatRuns (.fmax h .f32 d a b) h fun _ _ g _ l =>
    let x := elemIn h g l .f32 0 a; let y := elemIn h g l .f32 0 b
    { regs := [(d, false, BitVec.ofNat 64 (Fmt.f32.minMax true x.1 y.1).1)], exc := (Fmt.f32.minMax true x.1 y.1).2 ||| x.2 ||| y.2 }) ∧
  (∀ (t : FTy), t ≠ .f32 → ∀ h d a b (up : Bool), FloatRuns (if up then .fmax h t d a b else .fmin h t d a b) h fun _ _ g _ l =>
    let r (e : Nat) := (fmtOf t).minMax up (elemIn h g l (fmtOf t) e a).1 (elemIn h g l (fmtOf t) e b).1
    { regs := [(d, false, BitVec.ofNat 64 ((r 0).1 + 2 ^ 16 * (r 1).1))]
      exc := (r 0).2 ||| (r 1).2 ||| (elemIn h g l (fmtOf t) 0 a).2 ||| (elemIn h g l (fmtOf t) 0 b).2 |||
        (elemIn h g l (fmtOf t) 1 a).2 ||| (elemIn h g l (fmtOf t) 1 b).2 }) ∧
  (∀ f : Fmt, f = .f32 ∨ f = .f16 ∨ f = .bf16 → ∀ (up : Bool) (x y : Nat),
    let u := f.decode x; let v := f.decode y; let r := (f.minMax up x y).1; let z := 2 ^ (f.eb + f.fb)
    (u.isNan = true → v.isNan = true → r = f.nanBits) ∧ (u.isNan = true → v.isNan = false → r = y) ∧
    (u.isNan = false → v.isNan = true → r = x) ∧
    (u.isNan = false → v.isNan = false → (r = x ∨ r = y) ∧
      (if up then Machine.Num.lt (f.decode r) u = false ∧ Machine.Num.lt (f.decode r) v = false
        else Machine.Num.lt u (f.decode r) = false ∧ Machine.Num.lt v (f.decode r) = false)) ∧
    (f.minMax up x y).2 = (if u.isSig || v.isSig then Exc.nv else 0) ∧
    (f.minMax up 0 z).1 = (if up then 0 else z) ∧ (f.minMax up z 0).1 = (if up then 0 else z)) ∧
  (∀ h cc op d a b c, FloatRuns (.fcmp h cc op d a b c) h fun _ _ g _ l =>
    let x := elemIn h g l .f32 0 a; let y := elemIn h g l .f32 0 b
    let u := Fmt.f32.decode x.1; let v := Fmt.f32.decode y.1
    let ordered := !u.isNan && !v.isNan
    let r : Bool := match cc with
      | .eq => ordered && !Machine.Num.lt u v && !Machine.Num.lt v u
      | .ne => !(ordered && !Machine.Num.lt u v && !Machine.Num.lt v u)
      | .lt => ordered && Machine.Num.lt u v
      | .le => ordered && !Machine.Num.lt v u
      | .gt => ordered && Machine.Num.lt v u
      | .ge => ordered && !Machine.Num.lt u v
      | .num => ordered
      | .nan => !ordered
    { preds := [(d, match op with
        | .and => r && readPred l true c | .or => r || readPred l false c | .xor => r != readPred l false c)]
      exc := x.2 ||| y.2 ||| (if u.isSig || v.isSig then Exc.nv else 0) })

/-- R130, R132: FABS clears the sign bit of each element and FNEG inverts it; FCLASS writes a mask with the one bit of its operand's class. They
raise no exception and never trap: they write whatever the operands are, and nothing else changes. -/
def Obligations.SignAndClass : Prop :=
  (∀ h d a, Writes (.fabs h .f32 d a) h fun _ _ g _ l =>
    { regs := [(d, false, (BitVec.ofNat 32 (elemBits g l .f32 0 a) &&& 0x7FFFFFFF).setWidth 64)] }) ∧
  (∀ h d a, Writes (.fneg h .f32 d a) h fun _ _ g _ l =>
    { regs := [(d, false, (BitVec.ofNat 32 (elemBits g l .f32 0 a) ^^^ 0x80000000).setWidth 64)] }) ∧
  (∀ (t : FTy), t ≠ .f32 → ∀ h d a, Writes (.fabs h t d a) h fun _ _ g _ l =>
    { regs := [(d, false, ((BitVec.ofNat 16 (elemBits g l (fmtOf t) 1 a) &&& 0x7FFF) ++
        (BitVec.ofNat 16 (elemBits g l (fmtOf t) 0 a) &&& 0x7FFF)).setWidth 64)] }) ∧
  (∀ (t : FTy), t ≠ .f32 → ∀ h d a, Writes (.fneg h t d a) h fun _ _ g _ l =>
    { regs := [(d, false, ((BitVec.ofNat 16 (elemBits g l (fmtOf t) 1 a) ^^^ 0x8000) ++
        (BitVec.ofNat 16 (elemBits g l (fmtOf t) 0 a) ^^^ 0x8000)).setWidth 64)] }) ∧
  (∀ h d a, Writes (.fclass h d a) h fun _ _ g _ l =>
    let x : BitVec 32 := BitVec.ofNat 32 (elemBits g l .f32 0 a)
    let e := (x.extractLsb' 23 8).toNat; let f := (x.extractLsb' 0 23).toNat; let neg := x.getLsbD 31
    let bit := if e = 255 then (if f = 0 then (if neg then 0 else 7) else if x.getLsbD 22 then 9 else 8)
      else if e = 0 then (if f = 0 then (if neg then 3 else 4) else if neg then 2 else 5) else if neg then 1 else 6
    { regs := [(d, false, BitVec.ofNat 64 (2 ^ bit))] }) ∧
  (∀ h t d a, (Instr.fabs h t d a).wf = true → ∃ r, (Instr.fabs h t d a).fields = some r ∧ r.opc = 0x36 ∧ r.md = 0 ∧ r.fi = 0 ∧ r.fo = 0 ∧
    (r.var = match t with | .f32 => 0 | .f16x2 => 1 | .bf16x2 => 2)) ∧
  (∀ h t d a, (Instr.fneg h t d a).wf = true → ∃ r, (Instr.fneg h t d a).fields = some r ∧ r.opc = 0x37 ∧ r.md = 0 ∧ r.fi = 0 ∧ r.fo = 0 ∧
    (r.var = match t with | .f32 => 0 | .f16x2 => 1 | .bf16x2 => 2)) ∧
  (∀ h d a, (Instr.fclass h d a).wf = true → ∃ r, (Instr.fclass h d a).fields = some r ∧ r.opc = 0x39 ∧ r.var = 0 ∧ r.md = 0 ∧ r.fi = 0 ∧
    r.fo = 0)

/-- R134, R135: conversions: the source is read in its type, rounded or clamped to the destination's, in both elements of a packed destination,
with one use of the generator for each element under .sr; an exception enabled and raised traps FLOAT (R140). -/
def Obligations.ConversionResults : Prop :=
  (∀ h dt st rm sat hi d a b, CTy.isPacked dt = false → FloatRuns (.cvt h dt st rm sat hi d a b) h fun _ _ g _ l =>
    let x := cvtOne h dt st rm (draw rm l.sr).1 sat hi g l a
    { regs := [(d, CTy.is64 dt, x.1)], exc := x.2, sr := if rm = .sr then some (draw rm l.sr).2 else none }) ∧
  (∀ h dt st rm sat hi d a b, CTy.isPacked dt = true → FloatRuns (.cvt h dt st rm sat hi d a b) h fun _ _ g _ l =>
    let u := draw rm l.sr
    let x := cvtOne h dt st rm u.1 sat hi g l a
    let y := cvtOne h dt st rm (draw rm u.2).1 sat hi g l b
    { regs := [(d, false, BitVec.ofNat 64 (x.1.toNat + 2 ^ 16 * y.1.toNat))], exc := x.2 ||| y.2, sr := if rm = .sr then some (draw rm u.2).2 else none }) ∧
  (∀ t rm r (v : Machine.Num), cvtToInt t rm r v = (match v with
    | .nan _ => (0, Exc.nv)
    | .inf n => (if n then ITy.min t else ITy.max t, Exc.nv)
    | .fin n m e =>
      let q := roundUnit rm r n m e 0
      let x : Int := if n then -(q.1 : Int) else q.1
      if ITy.min t ≤ x ∧ x ≤ ITy.max t then (x, if q.2 then Exc.nx else 0)
      else (if x < ITy.min t then ITy.min t else ITy.max t, Exc.nv)))

/-- R33, R126: a value that the format can hold is rounded to itself in every mode, with no exception; a NaN becomes the canonical one, and a
signalling one raises invalid operation. -/
def Obligations.RoundingKeepsRepresentable : Prop :=
  ∀ f : Fmt, f = .f32 ∨ f = .f16 ∨ f = .bf16 → ∀ (rm : Rm) (r bits : Nat), bits < 2 ^ (f.eb + f.fb + 1) → r < 2 ^ 32 →
    f.encode rm r (f.decode bits) = (if (f.decode bits).isNan then f.nanBits else bits, if (f.decode bits).isSig then Exc.nv else 0)

/-- R69, R136 to R138, R141, R154, R155: the long-latency results of arithmetic and of the group: computed from the operands at issue, written
later (RESULT_WRITEBACK), with a window of LA instructions open on them. -/
def Obligations.LongLatencyIssue : Prop :=
  (∀ h d a b, WritesLater (.cvtlEnc h d a b) h fun _ _ g _ l =>
    let c := Sc.decode ((readOp g l false b).toNat % 2 ^ 24)
    { regs := [(d, false, BitVec.ofNat 64 (if c = .nan then 32 else if c = .zero then 0
        else encL (Fmt.f32.decode (elemIn h g l .f32 0 a).1) c))] }) ∧
  (∀ h rm d a b, WritesLater (.cvtlDec h rm d a b) h fun _ _ g _ l =>
    let el := srcN32 g l a % 64; let c := Sc.decode (srcN32 g l b % 2 ^ 24)
    { regs := [(d, false, BitVec.ofNat 64 (if el = 32 ∨ c = .nan then 0x7FC00000 else if el = 0 ∨ c = .zero then 0
        else (Fmt.f32.encode rm (draw rm l.sr).1 (lnsValue el c)).1))], sr := if rm = .sr then some (draw rm l.sr).2 else none }) ∧
  (∀ h d a, WritesLater (.cvtlScale h d a) h fun _ _ g _ l =>
    { regs := [(d, false, BitVec.ofNat 64 (cvtlScaleOne (elemIn h g l .f32 0 a).1))] }) ∧
  (∀ h rm d a, WritesLater (.sqrt h rm d a) h fun _ _ g _ l =>
    let i := elemIn h g l .f32 0 a
    let r := Fmt.f32.flushOut h.fo (sqrtFn rm (draw rm l.sr).1 i.1)
    { regs := [(d, false, BitVec.ofNat 64 r.1)], exc := r.2 ||| i.2, sr := if rm = .sr then some (draw rm l.sr).2 else none }) ∧
  (∀ ins h op d a, (op, ins) ∈ [(0x42, Instr.rcp h d a), (0x43, .rsq h d a), (0x45, .ex2 h d a), (0x46, .lg2 h d a), (0x47, .rred h d a),
      (0x48, .sint h d a), (0x49, .cost h d a), (0x4A, .tanh h d a)] → WritesLater ins h fun _ _ g _ l =>
    let i := elemIn h g l .f32 0 a
    let r := Fmt.f32.flushOut h.fo (specialFn op i.1)
    { regs := [(d, false, BitVec.ofNat 64 r.1)], exc := r.2 ||| i.2 }) ∧
  (∀ h op t md d a, t ≠ .f32 → WritesLater (.gred h op t md d a) h fun _ i g _ _ =>
    { regs := [(d, GTy.is64 t, ITy.fit (GTy.ity t) (md == 1)
        (gFold op (GTy.ity t) ((i.guarded g h).map fun j => srcInt g (g.lane j) (GTy.ity t) a)))] }) ∧
  (∀ h op md d a, WritesLater (.gred h op .f32 md d a) h fun _ i g _ _ =>
    let r := gredF32 h op (rmOfCode md) a (i.guarded g h) g
    { regs := [(d, false, BitVec.ofNat 64 r.1)], exc := r.2 }) ∧
  (∀ h op t excl md d a c, t ≠ .f32 → WritesLater (.gscan h op t excl md d a c) h fun _ i g k l =>
    let js := (i.guarded g h).filter fun j => decide (j < k ∨ (excl = false ∧ j = k))
    let ins := (if c.isAbsent then [] else [srcInt g l (GTy.ity t) c]) ++ js.map fun j => srcInt g (g.lane j) (GTy.ity t) a
    { regs := [(d, GTy.is64 t, ITy.fit (GTy.ity t) (md == 1) (gFold op (GTy.ity t) ins))] }) ∧
  (∀ h op excl md d a c, WritesLater (.gscan h op .f32 excl md d a c) h fun _ i g k l =>
    let js := (i.guarded g h).filter fun j => decide (j < k ∨ (excl = false ∧ j = k))
    let ins := (if c.isAbsent then [] else [elemIn h g l .f32 0 c]) ++ js.map fun j => elemIn h g (g.lane j) .f32 0 a
    let r := Fmt.f32.flushOut h.fo (gscanF32 op (rmOfCode md) (ins.map (·.1)))
    { regs := [(d, false, BitVec.ofNat 64 r.1)], exc := ins.foldl (fun x p => x ||| p.2) r.2 })

/-! ### Memory instructions -/

/-- R177, R182, R183, R196, R197, R199: loads and stores issue their accesses. ALIGNMENT is precise, in the lanes whose address is not a
multiple of the access size. -/
def Obligations.LoadsAndStoresIssue : Prop :=
  ((∀ h t scaled hint ord sc d m, Issues (.ld h t scaled hint ord sc d m) h d.isS (some h.la.toNat) fun s i g k =>
    { newAccess s i g k (.load t) (effAddr (i.source g) ((i.source g).lane k) m (if scaled then MTy.log2 t else 0)) (MTy.size t) with
      dst := d, hint := hint, ord := ord, sc := sc }) ∧
  (∀ h t scaled hint ord sc d m, Issues (.ldw h t scaled hint ord sc d m) h false (some h.la.toNat) fun s i g k =>
    let k0 := (i.guarded g h).headD 0
    { newAccess s i g k (.load t) (effAddr (i.source g) ((i.source g).lane k0) m (if scaled then MTy.log2 t else 0) +
        BitVec.ofNat 64 (k * MTy.size t)) (MTy.size t) with dst := d, hint := hint, ord := ord, sc := sc }) ∧
  (∀ h t scaled hint ord sc d m, Issues (.st h t scaled hint ord sc d m) h (d.uniform && m.uniform) none fun s i g k =>
    let l := (i.source g).lane k
    { newAccess s i g k .store (effAddr (i.source g) l m (if scaled then MTy.log2 t else 0)) (MTy.size t) with
      dst := if d.uniform && m.uniform then .imm 0 else .absent
      bytes := leBytes (MTy.size t) ((readOp (i.source g) l (t == .b64) d).toNat % 2 ^ (8 * MTy.size t))
      hint := hint, ord := ord, sc := sc }) ∧
  (∀ h t scaled ord sc d m, Issues (.lds h t scaled ord sc d m) h d.isS (some h.la.toNat) fun s i g k =>
    { newAccess s i g k (.load t) (BitVec.ofNat 64 (spAddr (i.source g) ((i.source g).lane k) m (if scaled then MTy.log2 t else 0)))
        (MTy.size t) with sp := true, dst := d, ord := ord, sc := sc }) ∧
  (∀ h t scaled ord sc d m, Issues (.sts h t scaled ord sc d m) h (d.uniform && m.base.uniform) none fun s i g k =>
    let l := (i.source g).lane k
    { newAccess s i g k .store (BitVec.ofNat 64 (spAddr (i.source g) l m (if scaled then MTy.log2 t else 0))) (MTy.size t) with
      sp := true, bytes := leBytes (MTy.size t) ((readOp (i.source g) l (t == .b64) d).toNat % 2 ^ (8 * MTy.size t))
      ord := ord, sc := sc })) ∧
  ((∀ h t scaled hint ord sc d m, d.isS = false → Misaligned (.ld h t scaled hint ord sc d m) h fun _ i g k =>
    (effAddr (i.source g) ((i.source g).lane k) m (if scaled then MTy.log2 t else 0), MTy.size t)) ∧
  (∀ h t scaled hint ord sc d m, Misaligned (.ldw h t scaled hint ord sc d m) h fun _ i g _ =>
    (effAddr (i.source g) ((i.source g).lane ((i.guarded g h).headD 0)) m (if scaled then MTy.log2 t else 0), MTy.size t)) ∧
  (∀ h t scaled hint ord sc d m, (d.uniform && m.uniform) = false → Misaligned (.st h t scaled hint ord sc d m) h fun _ i g k =>
    (effAddr (i.source g) ((i.source g).lane k) m (if scaled then MTy.log2 t else 0), MTy.size t)) ∧
  (∀ h op t ord sc d m, (d.isS && (atomAddr op m).uniform) = false → Misaligned (.atom h op t ord sc d m) h fun _ i g k =>
    (effAddr (i.source g) ((i.source g).lane k) (atomAddr op m) 0, ATy.size t)) ∧
  (∀ h op t ord sc d m, (d.isS && (atomAddr op m).uniform) = false → Misaligned (.red h op t ord sc d m) h fun _ i g k =>
    (effAddr (i.source g) ((i.source g).lane k) (atomAddr op m) 0, ATy.size t)) ∧
  (∀ h ord sc d m, Misaligned (.waitc h ord sc d m) h fun _ i g k =>
    (effAddr (i.source g) ((i.source g).lane k) m 0, 8)) ∧
  (∀ h sc a b c, Misaligned (.ready h sc a b c) h fun _ i g _ =>
    let l := (i.source g).lane ((i.guarded g h).headD 0)
    (readOp (i.source g) l true a + BitVec.ofNat 64 (8 * srcN32 (i.source g) l b), 8)))

/-- R172, R200, R201, R280: atomics, the monitor's reads and READY issue their accesses. -/
def Obligations.AtomicsAndMonitorsIssue : Prop :=
  (∀ h op t ord sc d m, Issues (.atom h op t ord sc d m) h (d.isS && (atomAddr op m).uniform) (some h.la.toNat) fun s i g k =>
    let l := (i.source g).lane k
    { newAccess s i g k (.atom op t) (effAddr (i.source g) l (atomAddr op m) 0) (ATy.size t) with
      data := atomOperand (i.source g) l t d, cmp := if op = .cas then atomOperand (i.source g) l t m.idx else 0
      dst := d, ord := ord, sc := sc }) ∧
  (∀ h op t ord sc d m, Issues (.atoms h op t ord sc d m) h (d.isS && (atomAddr op m).uniform) (some h.la.toNat) fun s i g k =>
    let l := (i.source g).lane k
    { newAccess s i g k (.atom op t) (BitVec.ofNat 64 (spAddr (i.source g) l (atomAddr op m) 0)) (ATy.size t) with
      sp := true, data := atomOperand (i.source g) l t d, cmp := if op = .cas then atomOperand (i.source g) l t m.idx else 0
      dst := d, ord := ord, sc := sc }) ∧
  (∀ h op t ord sc d m, Issues (.red h op t ord sc d m) h (d.isS && (atomAddr op m).uniform) none fun s i g k =>
    let l := (i.source g).lane k
    { newAccess s i g k (.red op t) (effAddr (i.source g) l (atomAddr op m) 0) (ATy.size t) with
      data := atomOperand (i.source g) l t d, cmp := if op = .cas then atomOperand (i.source g) l t m.idx else 0
      ord := ord, sc := sc }) ∧
  (∀ h w64 ord sc d m, Issues (.monarm h w64 ord sc d m) h false (some 0) fun s i g k =>
    let l := (i.source g).lane k
    { newAccess s i g k (.arm w64 false) (effAddr (i.source g) l m 0) (if w64 then 8 else 4) with
      cmp := if w64 then readOp (i.source g) l true d else BitVec.ofNat 64 (srcN32 (i.source g) l d)
      hint := .fresh, ord := ord, sc := sc }) ∧
  (∀ h w64 ord sc d m, Issues (.ldmon h w64 ord sc d m) h false (some h.la.toNat) fun s i g k =>
    { newAccess s i g k (.arm w64 true) (effAddr (i.source g) ((i.source g).lane k) m 0) (if w64 then 8 else 4) with
      dst := d, hint := .fresh, ord := ord, sc := sc }) ∧
  (∀ h sc a b c, Issues (.ready h sc a b c) h true none fun s i g k =>
    let l := (i.source g).lane ((i.guarded g h).headD 0)
    { newAccess s i g k .store (readOp (i.source g) l true a + BitVec.ofNat 64 (8 * srcN32 (i.source g) l b)) 8 with
      dst := .imm 0, bytes := leBytes 8 (if c.isAbsent then (1 : DWord) else readOp (i.source g) l true c).toNat, ord := .rel, sc := sc })

/-- R203 to R205, R211, R323, R54, R217, R218, R414, R418, R419: FENCE goes on once the group's earlier accesses have reached the scope, and an
acquire of die scope or wider drops the core's L1 lines that no .ro filled; a releasing one joins the lane's later stores to its release,
and orders what the team's engines may read of its scratchpad writes (R190; the words that may still be read are the model's own); until
then the bundle waits where it is, under reason 2; a pending refused store is told first (R204). PREF changes no byte but the ACC bit of the
entries by which its lines' addresses are translated. PROBE writes its word for each lane's address when it arrives; ADVISE.keep changes no
memory, ADVISE.tlb at most the ACC bit of the entries of the advised pieces that translate, each as it stands when its turn comes, and
ADVISE.evict at most the bytes behind dirty view blocks; BRK parks the guarded lanes at the successor while the debugger breaks, and
otherwise only retires; MARK moves on and changes at most its slot of the trace ring, with TREN clear no memory; a line whose parity holds
is taken. -/
def Obligations.FencePrefetchProbe : Prop :=
  ((∀ h ord sc s i g, s.current = some (i, g) → i.guarded g h ≠ [] → s.gate i g sc (Scope.outer sc) = .go →
    ∃ t, exec (.fence h ord sc) s = .next t ∧
      Ran s { t with mem := s.mem, run := { t.run with teams := s.run.teams } } i g (i.effects g h fun _ _ _ =>
        { upd := fun l => if ord = .acq then l else { l with fenced := some (Scope.widest l.fenced sc) } }) ∧ t.mem.cells = s.mem.cells ∧
      (t.run.teams.map fun p => (p.1, { p.2 with olds := [] })) = (s.run.teams.map fun p => (p.1, { p.2 with olds := [] })) ∧
      (ord = .acq → t.run.teams = s.run.teams) ∧
      (ord ≠ .rel → Scope.beyondCore sc = true → ∀ x ∈ t.mem.l1, x.core = g.core → x.ro = true) ∧
      (ord = .rel ∨ Scope.beyondCore sc = false → t.mem = s.mem)) ∧
  (∀ h ord sc s i g, s.current = some (i, g) → i.guarded g h ≠ [] → s.gate i g sc (Scope.outer sc) = .wait →
    ∃ t u, exec (.fence h ord sc) s = .next t ∧ t.group i.gid = some u ∧ MovedBut i g u (fun _ => true) ∧ t.mem = s.mem ∧
      t.sch.issue = some { i with held := some 2 }) ∧
  (∀ h ord sc s i g a, s.current = some (i, g) → i.guarded g h ≠ [] → s.gate i g sc (Scope.outer sc) = .unreachable a →
    exec (.fence h ord sc) s = .next (s.tellUnreachable i g h a)) ∧
  (∀ h ord sc s i g, s.current = some (i, g) → i.guarded g h = [] →
    ∃ t u, exec (.fence h ord sc) s = .next t ∧ t.group i.gid = some u ∧ Moved i g u ∧ t.mem = s.mem) ∧
  (∀ h lv scaled hint m s i g, s.current = some (i, g) →
    ∃ t u, exec (.pref h lv scaled hint m) s = .next t ∧ t.group i.gid = some u ∧ Moved i g u ∧ t.run.accs = s.run.accs ∧
      let kernel := match s.teamOf g with | some y => y.kernel | none => 0
      let va := fun k => effAddr (i.source g) ((i.source g).lane k) m (if scaled then 3 else 0)
      (s.mem.wf = true → s.mem.views = [] → ∀ x, t.mem.byte x = s.mem.byte x ∨ (t.mem.byte x = s.mem.byte x ||| 0x10#8 ∧
        ∃ pre k post, i.guarded g h = pre ++ k :: post ∧
          ∃ e, (pre.foldl (fun y j => y.prefetch g kernel lv hint (va j)) s).engineRead (s.ctxOf g) (va k) = .ok e ∧ x = e.entry)))) ∧
  ((∀ h d m, WritesLater (.probe h d m) h fun s _ g _ l => { regs := [(d, true, s.probe (s.ctxOf g) (effAddr g l m 0))] }) ∧
  (∀ (s : State) ctx va, s.walk ctx va = .invalid → s.probe ctx va = 0xD000000000000000) ∧
  (∀ h adv d m s i g, s.current = some (i, g) →
    ∃ t u, exec (.advise h adv d m) s = .next t ∧ t.group i.gid = some u ∧ Moved i g u ∧ t.run.accs = s.run.accs ∧
      (adv = .keep → t.mem = s.mem) ∧
      let lo := fun k => (effAddr (i.source g) ((i.source g).lane k) m 0).toNat
      let len := fun k => srcN32 (i.source g) ((i.source g).lane k) d
      let hi := fun k => lo k + Nat.min (len k) (2 * 2 ^ 20)
      (adv = .tlb → s.mem.wf = true → s.mem.views = [] → ∀ x, t.mem.byte x = s.mem.byte x ∨ (t.mem.byte x = s.mem.byte x ||| 0x10#8 ∧
        ∃ pre k post p e, i.guarded g h = pre ++ k :: post ∧ len k ≠ 0 ∧ p ≤ (hi k - 1) / 65536 - lo k / 65536 ∧
          ((List.range p).foldl (fun y q => y.advisePiece g adv (lo k) (hi k) (lo k / 65536 + q))
            (pre.foldl (fun y j => y.advise g adv (effAddr (i.source g) ((i.source g).lane j) m 0) (len j)) s)).translate (s.ctxOf g) .load
              (BitVec.ofNat 64 (Nat.max (lo k) ((lo k / 65536 + p) * 65536))) = .ok e ∧ x = e.entry)) ∧
      (adv = .evict → s.mem.wf = true → ∀ x, (∀ v ∈ s.mem.views, v.dirty = true → ∀ w : Window, Table.get s.sys.windows v.win = some w →
        overlap x 1 (w.elem.toNat + w.elSize * v.blk) w.elSize = false ∧ overlap x 1 (w.scale.toNat + w.scSize * v.blk) w.scSize = false) →
        t.mem.byte x = s.mem.byte x)) ∧
  (∀ h imm s i g, s.current = some (i, g) → s.breaks (s.ctxOf g) = false →
    ∃ t, exec (.brk h imm) s = .next t ∧ Ran s t i g (i.effects g h fun _ _ _ => {})) ∧
  (∀ h imm s i g, s.current = some (i, g) → s.breaks (s.ctxOf g) = true → i.guarded g h ≠ [] → i.paired = false →
    (∀ k ∈ i.active, (g.lane k).st = .running) →
    ∃ t u, exec (.brk h imm) s = .next t ∧ t.group i.gid = some u ∧ u.debugParked = true ∧
      ∀ k ∈ i.guarded g h, k < g.width → (u.lane k).st = .parked ∧ (u.lane k).pc = succPc i.pc) ∧
  (∀ h imm a s i g, s.current = some (i, g) →
    ∃ t u, exec (.mark h imm a) s = .next t ∧ t.group i.gid = some u ∧ Moved i g u ∧ t.run.accs = s.run.accs ∧
      let p := s.partOf (s.ctxOf g)
      ((s.dbgReg p 0).getLsbD 1 = false → t.mem = s.mem) ∧
      (s.mem.wf = true → s.mem.views = [] → ∀ x,
        overlap x 1 ((s.dbgReg p 8).toNat + 64 * ((s.dbgReg p 0x18).toNat % ((s.dbgReg p 0x10).toNat / 64))) 64 = false →
        t.mem.byte x = s.mem.byte x)) ∧
  (∀ gid line s, lineParity line = true → exec (.fetchLineArrival gid line) s = .next s))

/-! ### Barriers, monitors and waits -/

/-- R162 to R166, R163, R167: an arrival marks the lane in the barrier's mask and answers the phase; the arrival that completes the phase
advances it, empties the masks and resets EXPECT. A lane of BARW whose token's phase has completed goes on with its predicate true;
otherwise it waits where it is, with a limit of 0 until its nanosecond ends, in which completion would still win. BARS waits for the phase
in which it arrived. -/
def Obligations.BarrierInstructions : Prop :=
  ((∀ h sc d a b s i g k n count, s.current = some (i, g) → i.guarded g h = k :: [] → i.snap = none → k < g.width →
    s.barrierArgs i g k a b = .ok (n, count) → s.reached i.gid sc s.sch.nextId = true →
    Table.get s.ckp.ints (s.ctxOf g) = none → hasBit ((s.barrier g n).mask g.gidx) k = false →
    (∃ tm, s.teamOf g = some tm ∧ n < tm.barriers.length) →
    let x := s.barrier g n
    let x1 : Barrier := { x with expect := if x.arrived.all (fun p => p.2 == 0) then count else x.expect
                                 arrived := Table.set x.arrived g.gidx (x.mask g.gidx ||| laneMask [k]) }
    ∃ t u, exec (.bara h sc d a b) s = .next t ∧ t.group i.gid = some u ∧
      t.barrier u n = (if x1.complete (s.liveGroups g.team) then ⟨x.phase + 1, [], none⟩ else x1) ∧
      (u.lane k).data = ((g.lane k).write d false (x.phase.setWidth 64)).data ∧ (u.lane k).pc = succPc i.pc ∧
      u.s = sWrite g.s d (x.phase.setWidth 64) ∧
      ∀ j, j < g.width → j ≠ k → (u.lane j).data = (g.lane j).data) ∧
  (∀ h sc d a b s i g k ks x, s.current = some (i, g) → i.guarded g h = k :: ks → s.barrierArgs i g k a b = .error x →
    exec (.bara h sc d a b) s = .next (s.takeTrap i (faultsOf (k :: ks) x fun _ => 0))) ∧
  (∀ (s : State) (i : Issue) (g : Group) k a b, (match s.kernelOf g with | some y => decide (y.hdr.barriers ≤ srcN32 (i.source g) ((i.source g).lane k) a) | none => false) = true →
    s.barrierArgs i g k a b = .error .resourceBound)) ∧
  ((∀ h sc a b c e s i g n cnt, s.current = some (i, g) → i.snap = none → i.paired = false → i.guarded g h ≠ [] →
    (∀ k ∈ i.active, (g.lane k).st = .running) →
    s.barrierArgs i g ((i.guarded g h).headD 0) a .absent = .ok (n, cnt) →
    Table.get s.ckp.ints (s.ctxOf g) = none →
    ∃ t u, exec (.barw h sc a b c e) s = .next t ∧ t.group i.gid = some u ∧ u.s = g.s ∧
      ∀ k ∈ i.guarded g h, k < g.width →
        let tok : Word := BitVec.ofNat 32 (srcN32 g (g.lane k) b)
        let lim := if c.isAbsent then none else some (srcN32 g (g.lane k) c)
        let passed := ((s.barrier g n).phase - tok).toNat
        if 1 ≤ passed ∧ passed ≤ 2 ^ 31 then (u.lane k).data = ((g.lane k).writePred e true).data ∧ (u.lane k).pc = succPc i.pc
        else u.lane k = { g.lane k with st := .stalled ⟨.barrier n tok sc, 4, lim, e, i.word, false, false⟩ }) ∧
  (∀ h sc a b c e s i g k n count, s.current = some (i, g) → i.guarded g h = k :: [] → i.snap = none → i.paired = false →
    k < g.width → (g.lane k).st = .running → s.barrierArgs i g k a b = .ok (n, count) → s.reached i.gid sc s.sch.nextId = true →
    Table.get s.ckp.ints (s.ctxOf g) = none → hasBit ((s.barrier g n).mask g.gidx) k = false →
    (∃ tm, s.teamOf g = some tm ∧ n < tm.barriers.length) →
    let x := s.barrier g n
    let x1 : Barrier := { x with expect := if x.arrived.all (fun p => p.2 == 0) then count else x.expect
                                 arrived := Table.set x.arrived g.gidx (x.mask g.gidx ||| laneMask [k]) }
    let lim := if c.isAbsent then none else some (srcN32 g (g.lane k) c)
    ∃ t u, exec (.bars h sc a b c e) s = .next t ∧ t.group i.gid = some u ∧
      if x1.complete (s.liveGroups g.team) then (u.lane k).data = ((g.lane k).writePred e true).data ∧ (u.lane k).pc = succPc i.pc
      else u.lane k = { g.lane k with st := .stalled ⟨.barrier n x.phase sc, 4, lim, e, i.word, false, false⟩ }))

/-- R170, R173, R174, R228 to R230: WAITMON takes the monitor's outcome or waits for it; WAITC goes on when the counter has reached the target,
in unsigned order, and otherwise waits. TWANY and TWALL, while the context keeps no log: with the condition met and no tag of it in ERROR,
the ready tags and the truth are written; a tag of it in ERROR faults with its own code; with the condition unmet, the wait ends at once for
a mask of 0, and otherwise every active lane waits, with a limit of 0 until its nanosecond ends. An observation is kept. TFIRST answers the
lowest ready tag, and TCLR makes tags IDLE. -/
def Obligations.WaitInstructions : Prop :=
  ((∀ h d a s i g, s.current = some (i, g) → i.snap = none → i.paired = false → i.guarded g h ≠ [] →
    (∀ k ∈ i.active, (g.lane k).st = .running) →
    (∀ k ∈ i.guarded g h, s.loggedWait g k = none) →
    ∃ t u, exec (.waitmon h d a) s = .next t ∧ t.group i.gid = some u ∧ u.s = g.s ∧
      ∀ k ∈ i.guarded g h, k < g.width →
        let l := g.lane k
        let idle : Lane := { l with monitor := { l.monitor with st := .idle } }
        let lim := if a.isAbsent then none else some (srcN32 g l a)
        match l.monitor.st with
        | .fired => (u.lane k).data = (idle.writePred d true).data ∧ (u.lane k).pc = succPc i.pc
        | .idle => (u.lane k).data = (l.writePred d false).data ∧ (u.lane k).pc = succPc i.pc
        | .armed => u.lane k = { l with st := .stalled ⟨.monitor, 5, lim, d, i.word, false, false⟩ }) ∧
  (∀ h ord sc d m s i g, s.current = some (i, g) → i.snap = none → i.paired = false → i.guarded g h ≠ [] →
    (∀ k ∈ i.active, (g.lane k).st = .running) →
    (∀ k ∈ i.guarded g h, (effAddr g (g.lane k) m 0).toNat % 8 = 0 ∧ s.loggedWait g k = none) →
    ∃ t u, exec (.waitc h ord sc d m) s = .next t ∧ t.group i.gid = some u ∧ u.s = g.s ∧
      ∀ k ∈ i.guarded g h, k < g.width →
        let target := readOp g (g.lane k) true d
        match s.engineRead (s.ctxOf g) (effAddr g (g.lane k) m 0) with
        | .ok t => if target.toNat ≤ leNat (s.load (t.key (effAddr g (g.lane k) m 0)) 8) then
              (u.lane k).data = (g.lane k).data ∧ (u.lane k).pc = succPc i.pc
            else ∃ w, w.kind = .counter (effAddr g (g.lane k) m 0) target (ord == .acq) sc ∧ w.left = none ∧
              u.lane k = { g.lane k with st := .stalled w }
        | _ => ∃ w, w.kind = .counter (effAddr g (g.lane k) m 0) target (ord == .acq) sc ∧ w.left = none ∧
              u.lane k = { g.lane k with st := .stalled w })) ∧
  ((∀ (every : Bool) h d a b e s i g k ks, s.current = some (i, g) → i.guarded g h = k :: ks → Table.get s.ckp.ints (s.ctxOf g) = none →
    let mask := readOp (i.source g) ((i.source g).lane k) true a
    let seen := g.tags &&& mask
    (if every then seen = mask else seen ≠ 0) → g.errorIn seen = none →
    ∃ t0 : State, Ran s t0 i g (i.effects g h fun _ _ _ => { regs := [(d, true, seen)], preds := [(e, true)] }) ∧
      exec (if every then .twall h d a b e else .twany h d a b e) s = .next (t0.updGroup i.gid fun y => y.observe seen)) ∧
  (∀ (every : Bool) h d a b e s i g k ks tag c x, s.current = some (i, g) → i.guarded g h = k :: ks →
    Table.get s.ckp.ints (s.ctxOf g) = none →
    let mask := readOp (i.source g) ((i.source g).lane k) true a
    let seen := g.tags &&& mask
    (if every then seen = mask else seen ≠ 0) → g.errorIn seen = some (tag, c, x) →
    exec (if every then .twall h d a b e else .twany h d a b e) s =
      .next ((s.takeTrap i (faultsOf (k :: ks) c fun _ => x)).updGroup i.gid fun y => y.observe seen)) ∧
  (∀ (every : Bool) h d a b e s i g k ks, s.current = some (i, g) → i.guarded g h = k :: ks → Table.get s.ckp.ints (s.ctxOf g) = none →
    let mask := readOp (i.source g) ((i.source g).lane k) true a
    let seen := g.tags &&& mask
    ¬ (if every then seen = mask else seen ≠ 0) → mask = 0 →
    ∃ t0 : State, Ran s t0 i g (i.effects g h fun _ _ _ => { regs := [(d, true, seen)], preds := [(e, false)] }) ∧
      exec (if every then .twall h d a b e else .twany h d a b e) s = .next (t0.updGroup i.gid fun y => y.observe seen)) ∧
  (∀ (every : Bool) h d a b e s i g k ks, s.current = some (i, g) → i.guarded g h = k :: ks → Table.get s.ckp.ints (s.ctxOf g) = none →
    let mask := readOp (i.source g) ((i.source g).lane k) true a
    let seen := g.tags &&& mask
    let lim := if b.isAbsent then none else some (srcN32 (i.source g) ((i.source g).lane k) b)
    ¬ (if every then seen = mask else seen ≠ 0) → mask ≠ 0 →
    ∃ t u, exec (if every then .twall h d a b e else .twany h d a b e) s = .next t ∧ t.group i.gid = some u ∧ t.mem = s.mem ∧
      u.width = g.width ∧ ∀ j, j < g.width → hasBit i.lanes j = true → (u.lane j).pc = (g.lane j).pc ∧ (u.lane j).data = (g.lane j).data ∧
        ∃ w, (u.lane j).st = .stalled w ∧ w.left = lim ∧ (j ∈ i.guarded g h → w.kind = .tags d mask every ∧ w.result = e)) ∧
  (∀ h d a e, WritesLaterWhen (fun s i g => i.guarded g h ≠ [] ∧ Table.get s.ckp.ints (s.ctxOf g) = none ∧
      g.errorIn (g.tags &&& readOp (i.source g) ((i.source g).lane ((i.guarded g h).headD 0)) true a) = none) (.tfirst h d a e) h
    (fun s _ _ => s) fun s i gs _ _ =>
      let tags := match s.group i.gid with | some g => g.tags | none => 0
      let mask := readOp gs (gs.lane ((i.guarded gs h).headD 0)) true a
      let n := ((List.range 64).find? fun j => (tags &&& mask).getLsbD j).getD 64
      { regs := [(d, false, BitVec.ofNat 64 n)], preds := [(e, decide (n < 64))] }) ∧
  (∀ h a s i g k ks, s.current = some (i, g) → i.guarded g h = k :: ks →
    let mask := readOp (i.source g) ((i.source g).lane k) true a
    ∃ t u, exec (.tclr h a) s = .next t ∧ t.group i.gid = some u ∧ Moved i g u ∧ u.tags = g.tags &&& ~~~mask ∧
      u.terr = g.terr &&& ~~~mask ∧ t.mem = s.mem))

/-- R12, R144, R145, R148, R158, R163: in a quadrant's cycle its bundles meet the waits that their instructions have at issue; then it chooses
ready bundles of its own resident groups, at most two, and they join those that issue in this cycle, in the order of core, group slot and
lane; a throttled cycle, or the second cycle of a wide bundle, chooses none. No lane changes. At a regroup window the running lanes of a
resident group are bundled by their PCs. -/
def Obligations.IssueChoice : Prop :=
  (∀ core quad (throttled : Bool) (s0 : State),
    let s := s0.meetWaits core quad
    let picks := if throttled ∨ (Table.get s.run.busy (core * 4 + quad)).isSome then [] else s.choose core quad
    ∃ t : State, exec (.quadrantIssue core quad throttled) s0 = .next t ∧ t.sch.latch.Perm (s.sch.latch ++ picks) ∧
      (s.sch.latch.Pairwise (fun x y => s.latchPlace x ≤ s.latchPlace y) →
        t.sch.latch.Pairwise fun x y => s.latchPlace x ≤ s.latchPlace y) ∧
      (t.run.groups.map fun p => (p.1, p.2.lanes, p.2.s)) = (s.run.groups.map fun p => (p.1, p.2.lanes, p.2.s)) ∧
      t.mem = s.mem ∧ t.run.accs = s.run.accs ∧ t.run.teams = s.run.teams) ∧
  (∀ core quad (s : State), (s.choose core quad).length ≤ 2 ∧ ∀ x ∈ s.choose core quad, ∃ p ∈ s.run.groups,
    p.1 = x.1 ∧ p.2.core = core ∧ p.2.quad = quad ∧ p.2.st = .resident ∧ ∃ b ∈ p.2.bundles, b.lanes = x.2 ∧ s.stallOf p.1 p.2 b = none) ∧
  (∀ (gid : Nat) (s : State) (g : Group), s.group gid = some g → g.st = .resident →
    ∃ u : Group, exec (.regroupWindow gid) s = .next (s.setGroup gid u) ∧ { u with bundles := g.bundles } = g ∧
      (∀ k, k < g.width → k < 64 → (g.lane k).st = .running → ∃ b ∈ u.bundles, hasBit b.lanes k = true) ∧
      (∀ b ∈ u.bundles, ∀ j k, hasBit b.lanes j = true → hasBit b.lanes k = true → (g.lane j).st = .running →
        (g.lane k).st = .running → (g.lane j).pc = (g.lane k).pc))

/-- R69, R70, R141, R93, R123, R163, R165, R167, R169, R170: RESULT_WRITEBACK writes what waits under the number in each lane, adds the
exceptions, and closes the windows on it; nothing else changes. How lanes leave their waits: by the condition, with the predicate true; by
the limit, with it false; a sleeping lane at its wake time, in its place; a stalled arrival, once recorded, with the phase as its token. A
monitor fires when told to, or when its value has changed. -/
def Obligations.ArrivalsAndWaits : Prop :=
  (∀ (id : Nat) (s : State) (p : Pending) (g : Group), Table.get s.run.pend id = some p → s.group p.gid = some g →
    ∃ (t : State) (u : Group), exec (.resultWriteback id) s = .next t ∧ t.group p.gid = some u ∧ Table.get t.run.pend id = none ∧
      { t with run := s.run } = s ∧ t.run.accs = s.run.accs ∧ t.run.teams = s.run.teams ∧ u.width = g.width ∧
      u.s = p.regs.foldl (fun m r => match hasBit (-1) r.1, r.2.1 with | true, .s i => Sparse.set m i.toNat r.2.2.2 | _, _ => m) g.s ∧
      ∀ k, k < g.width → k < 64 →
        let l1 := (p.regs.filter fun r => r.1 == k).foldl (fun l r => l.write r.2.1 r.2.2.1 r.2.2.2) (g.lane k)
        let l2 := (p.preds.filter fun r => r.1 == k).foldl (fun l r => l.writePred r.2.1 r.2.2) l1
        u.lane k = { l2 with fpst := (p.exc.filter fun r => r.1 == k).foldl (fun x r => x ||| r.2.setWidth 32) l2.fpst
                             wins := l2.wins.filter fun w => w.1 != id }) ∧
  ((∀ gid lane s g l w b tok sc, s.waiting gid lane = some (g, l, w) → w.kind = .barrier b tok sc → lane < g.width →
    tokenDone (s.barrier g b).phase tok = true → s.loggedWait g lane = none →
    ∃ t u, exec (.waitSatisfied gid lane) s = .next t ∧ t.group gid = some u ∧
      (u.lane lane).data = (l.writePred w.result true).data ∧ (u.lane lane).pc = succPc l.pc ∧ (u.lane lane).retired = l.retired + 1 ∧
      (∀ w', (u.lane lane).st ≠ .stalled w') ∧ ∀ k, k < g.width → k ≠ lane → (u.lane k).data = (g.lane k).data) ∧
  (∀ gid lane s g l w b tok sc, s.waiting gid lane = some (g, l, w) → w.kind = .barrier b tok sc → lane < g.width →
    tokenDone (s.barrier g b).phase tok = false → w.left = some 0 → s.loggedWait g lane = none →
    ∃ t u, exec (.waitLimitExpired gid lane) s = .next t ∧ t.group gid = some u ∧
      (u.lane lane).data = (l.writePred w.result false).data ∧ (u.lane lane).pc = succPc l.pc ∧ (u.lane lane).retired = l.retired + 1 ∧
      t.mem = s.mem ∧ ∀ k, k < g.width → k ≠ lane → (u.lane k).data = (g.lane k).data) ∧
  (∀ gid lane s g l w b tok sc, s.waiting gid lane = some (g, l, w) → w.kind = .barrier b tok sc →
    tokenDone (s.barrier g b).phase tok = true → s.loggedWait g lane = none → exec (.waitLimitExpired gid lane) s = .next s) ∧
  (∀ gid lane s g wake, s.standing gid = some g → lane < g.width → (g.lane lane).st = .sleeping wake →
    wake.toNat ≤ (s.ptime g).toNat → (g.lane lane).meet = 0 → s.loggedSleep g lane = none → s.asleepInLog (s.ctxOf g) = false →
    ∃ t u, exec (.sleepWake gid lane) s = .next t ∧ t.group gid = some u ∧ (u.lane lane).st = .running ∧
      (u.lane lane).pc = (g.lane lane).pc ∧ (u.lane lane).data = (g.lane lane).data ∧ t.mem = s.mem) ∧
  (∀ gid lane s g wake, s.standing gid = some g → (g.lane lane).st = .sleeping wake → (s.ptime g).toNat < wake.toNat →
    s.loggedSleep g lane = none → exec (.sleepWake gid lane) s = .next s) ∧
  (∀ gid lane s g l w b count sc before again d, s.waiting gid lane = some (g, l, w) → lane < g.width →
    w.kind = .arrive b count sc before again false d → s.reached gid sc before = true → Table.get s.ckp.ints (s.ctxOf g) = none →
    hasBit ((s.barrier g b).mask g.gidx) lane = false →
    ∃ t u, exec (.barrierArrivalRecorded gid lane) s = .next t ∧ t.group gid = some u ∧
      (u.lane lane).data = (l.write d false ((s.barrier g b).phase.setWidth 64)).data ∧ (u.lane lane).pc = succPc l.pc ∧
      u.s = sWrite g.s d ((s.barrier g b).phase.setWidth 64)) ∧
  (∀ gid lane s g, s.standing gid = some g → lane < g.width → (g.lane lane).monitor.st = .armed →
    ∃ t u, exec (.monitorFire gid lane) s = .next t ∧ t.group gid = some u ∧
      u.lane lane = { g.lane lane with monitor := { (g.lane lane).monitor with st := .fired } } ∧
      ∀ k, k < g.width → k ≠ lane → u.lane k = g.lane k) ∧
  (∀ gid lane s g v, s.standing gid = some g → lane < g.width → (g.lane lane).monitor.st = .armed →
    s.readWord (s.ctxOf g) (g.lane lane).monitor.addr (g.lane lane).monitor.w64 = .ok v →
    ∃ t u, exec (.monitorPoll gid lane) s = .next t ∧ t.group gid = some u ∧
      (u.lane lane).monitor.st = (if v = (g.lane lane).monitor.expect then .armed else .fired) ∧
      ((∀ w, (g.lane lane).st = .stalled w → s.counterReached g w = false) →
        { u.lane lane with monitor := (g.lane lane).monitor, polled := (g.lane lane).polled } = g.lane lane) ∧
      ∀ w, (g.lane lane).st = .stalled w → s.counterReached g w = true → (u.lane lane).st = .stalled { w with met := true }))

/-- R177, R179, R184, R190, R194, R196, R200, R204: the life of an access, while its context keeps no log: bound to its bytes, done with its
value in the registers, combined, performed in memory or in the scratchpad, acknowledged, dropped or faulted. -/
def Obligations.AccessLife : Prop :=
  (∀ id s a t, Table.get s.run.accs id = some a → (∀ p ∈ s.mates id a, s.bindable p.1 p.2 = true) → s.viewGone a = false →
    (∀ p ∈ s.run.accs, p.1 = id → p.2 = a) → a.kind = .load t → Table.get s.ckp.ints a.ctx = none →
    ∃ u b, exec (.accessBound id) s = .next u ∧ Table.get u.run.accs id = some { a.sent s.lnk with st := .bound, bytes := b } ∧
      u.mem.cells = s.mem.cells ∧ (a.sp = true → b = s.spBytes a.team a.va.toNat a.size) ∧
      (∀ tr, a.sp = false → a.tr = some tr → (a.hint = .fresh ∨ a.acquires = true) → b = s.freshBytes a.core (tr.key a.va) a.size)) ∧
  (∀ id s a t g, Table.get s.run.accs id = some a → a.st = .bound → a.kind = .load t → s.group a.gid = some g →
    ∃ u v, exec (.accessDone id) s = .next u ∧ u.group a.gid = some v ∧ Table.get u.run.accs id = none ∧ u.mem = s.mem ∧
      v.s = sWrite g.s a.dst (MTy.extend t a.bytes) ∧
      ∀ k, k < g.width → v.lane k =
        (let l := if hasBit a.lanes k then (g.lane k).write a.dst (t == .b64) (MTy.extend t a.bytes) else g.lane k
         { l with wins := l.wins.filter fun w => w.1 != id })) ∧
  (∀ id s a, Table.get s.run.accs id = some a → s.combinable id a = true →
    ∃ u, exec (.accessCombined id) s = .next u ∧ { u with run := s.run, mem := s.mem } = s ∧ u.mem.cells = s.mem.cells ∧
      (a.uniform = false → u.mem = s.mem) ∧
      u.run.accs.getLast? = some (id, { a with st := .combined }) ∧ u.run.groups = s.run.groups) ∧
  (∀ id s a tr, Table.get s.run.accs id = some a → s.performable id a = true → a.kind = .store → a.sp = false → a.tr = some tr →
    Table.get s.ckp.ints a.ctx = none → tr.cls ≠ 3 → inAperture a.key = false → s.mem.views = [] → s.mem.wf = true →
    ∃ u, exec (.accessPerformed id) s = .next u ∧ Table.get u.run.accs id = some { a.sent s.lnk with st := .performed } ∧
      u.run.groups = s.run.groups ∧
      ∀ k, u.mem.byte k = if a.key ≤ k ∧ k < a.key + a.bytes.length then a.bytes.getD (k - a.key) 0 else s.mem.byte k) ∧
  (∀ id s a op t tr, Table.get s.run.accs id = some a → s.performable id a = true → a.kind = .atom op t → a.sp = false →
    a.tr = some tr → tr.cls ≠ 1 → s.viewGone a = false → Table.get s.ckp.ints a.ctx = none → inAperture a.key = false → s.mem.views = [] →
    s.mem.wf = true →
    let old := leNat (s.mem.bytes a.key a.size)
    let new := leBytes a.size (newValue op t old a.data.toNat a.cmp.toNat)
    ∃ u b, exec (.accessPerformed id) s = .next u ∧ Table.get u.run.accs id = some b ∧ b.st = .performed ∧
      b.data = BitVec.ofNat 64 (leNat (leBytes a.size (BitVec.ofNat 64 old).toNat)) ∧
      ∀ k, u.mem.byte k = if a.key ≤ k ∧ k < a.key + a.size then new.getD (k - a.key) 0 else s.mem.byte k) ∧
  (∀ id s a, Table.get s.run.accs id = some a → s.performable id a = true → a.kind = .store → a.sp = true →
    Table.get s.ckp.ints a.ctx = none →
    ∃ u, exec (.accessPerformed id) s = .next u ∧ Table.get u.run.accs id = none ∧ { u.mem with stalls := s.mem.stalls } = s.mem ∧
      ∀ tm, Table.get s.run.teams a.team = some tm →
        ∃ tm' : Team, Table.get u.run.teams a.team = some tm' ∧ tm'.sp = Sparse.setBytes tm.sp a.va.toNat a.bytes ∧
          { tm' with sp := tm.sp, marks := tm.marks, olds := tm.olds } = tm) ∧
  (∀ id s a, Table.get s.run.accs id = some a → a.st = .performed → a.fault = none → (∀ op t, a.kind ≠ .atom op t) →
    ∃ u, exec (.accessAcknowledged id) s = .next u ∧ Table.get u.run.accs id = none ∧ { u with run := s.run } = s ∧
      u.run.groups = s.run.groups) ∧
  (∀ id s a op t g, Table.get s.run.accs id = some a → a.st = .performed → a.fault = none → a.kind = .atom op t →
    s.group a.gid = some g →
    ∃ u v, exec (.accessAcknowledged id) s = .next u ∧ u.group a.gid = some v ∧ Table.get u.run.accs id = none ∧
      v.s = sWrite g.s a.dst (if t = .i32 then (a.data.setWidth 32 : Word).signExtend 64 else a.data) ∧
      ∀ k, k < g.width → v.lane k =
        (let l := if hasBit a.lanes k then (g.lane k).write a.dst (ATy.size t == 8) a.data else g.lane k
         { l with wins := l.wins.filter fun w => w.1 != id })) ∧
  (∀ id s a g, Table.get s.run.accs id = some a → a.st = .refused → s.group a.gid = some g →
    ∃ u, exec (.accessDropped id) s = .next u ∧ Table.get u.run.accs id = none ∧ u.mem = s.mem ∧
      u.group a.gid = some { g with unreachable := some (match g.unreachable with | some x => x | none => a.va) }) ∧
  (∀ id s a t c g, Table.get s.run.accs id = some a → a.fault = some c → a.kind = .load t → s.group a.gid = some g →
    Table.get s.ckp.ints a.ctx = none →
    ∃ u v, exec (.accessFaulted id) s = .next u ∧ u.group a.gid = some v ∧ Table.get u.run.accs id = none ∧
      ∀ k, k < g.width → hasBit a.bundle k = true → (g.lane k).st ≠ .exited →
        (v.lane k).st = .parked ∧ (v.lane k).pc = (g.lane k).regionPc ∧ (v.lane k).regionCtr = (g.lane k).regionBase ∧
        (v.lane k).reenter = true ∧ (v.lane k).v = (g.lane k).v ∧ ((g.lane k).st ≠ .parked →
        (v.lane k).fcode = (if hasBit a.lanes k then BitVec.ofNat 32 c.num else 0) ∧
        (v.lane k).faddr = (if hasBit a.lanes k then a.va else 0)))

/-- R49, R191, R208, R211 to R213, R363: uncorrectable data become zeros; a dirty view block is written back and stays clean; a walk gives the
accesses of its page their translation, or the fault PAGE_NOT_PRESENT, or begins again where its leaf has changed; an invalidation drops its
range's translations, and frees the stub that waited for it. -/
def Obligations.PagesAndLines : Prop :=
  (∀ line s, 64 * line + 64 ≤ Config.deviceBytes → inAperture (64 * line) = false → s.mem.views = [] → s.mem.wf = true →
    s.lineOwner line = none →
    ∃ t, exec (.uncorrectableData line) s = .next t ∧
      ∀ k, t.mem.byte k = if 64 * line ≤ k ∧ k < 64 * line + 64 then 0 else s.mem.byte k) ∧
  (∀ line s c, 64 * line + 64 ≤ Config.deviceBytes → s.lineOwner line = some c → s.partOf c < 12 →
    ∃ t, exec (.uncorrectableData line) s = .next t ∧ t.run = s.run ∧
      t.ckp.dbg = (s.setDbg (s.partOf c) 0x388 (s.dbgReg (s.partOf c) 0x388 + 1)).ckp.dbg) ∧
  (∀ win blk s v w, s.mem.views.find? (fun x => x.win == win && x.blk == blk) = some v → Table.get s.sys.windows win = some w →
    v.dirty = true →
    ∃ t : State, exec (.viewBlockWriteback win blk) s = .next t ∧ { t with mem := s.mem, ckp := s.ckp } = s ∧
      t.mem.cells = (s.mem.writeBack w v).cells ∧
      ∀ x ∈ t.mem.views, x.win = win → x.blk = blk → x.dirty = false) ∧
  (∀ win blk s v w, s.mem.views.find? (fun x => x.win == win && x.blk == blk) = some v → Table.get s.sys.windows win = some w →
    v.dirty = false → exec (.viewBlockWriteback win blk) s = .next s) ∧
  (∀ id s w, Table.get s.mem.walks id = some w → id < s.sch.nextId → w.read = none → s.walk w.ctx w.va = .invalid →
    ∃ t, exec (.walkComplete id) s = .next t ∧ Table.get t.mem.walks id = none ∧ t.mem.cells = s.mem.cells ∧ t.mem.tlb = s.mem.tlb ∧
      t.run.groups = s.run.groups ∧
      t.run.accs = s.run.accs.map fun p => (p.1, if w.serves 16 p.2 then { p.2 with fault := some .pageNotPresent } else p.2)) ∧
  (∀ id s w tr, Table.get s.mem.walks id = some w → w.read = some tr → tr.cls ≠ 7 → s.overtaken w tr = true →
    exec (.walkComplete id) s = .next (s.setWalk id { w with read := none })) ∧
  (∀ id s w tr, Table.get s.mem.walks id = some w → id < s.sch.nextId →
    (w.read = some tr ∧ s.overtaken w tr = false) ∨ (w.read = none ∧ s.walk w.ctx w.va = .found tr) → tr.cls ≠ 7 →
    ∃ t, exec (.walkComplete id) s = .next t ∧ Table.get t.mem.walks id = none ∧ t.run.groups = s.run.groups ∧
      ∃ e ∈ t.mem.tlb, e.core = none ∧ e.die = w.die ∧ e.ctx = w.ctx ∧ e.page = tr.page w.va ∧ e.tr.bits = tr.bits ∧
        e.tr.frame = tr.frame) ∧
  (∀ id s v, s.mem.invals.find? (fun p => p.2.ctx == v.ctx) = some (id, v) → Table.get s.mem.invals id = some v → v.ctr = none →
    (s.run.accs.all fun p => !(p.2.ctx == v.ctx && (match p.2.tr with | some t => v.covers t p.2.va | none => false))) = true →
    ∃ t : State, exec (.invalComplete id) s = .next t ∧ { t with mem := s.mem, sum := s.sum } = s ∧ Table.get t.mem.invals id = none ∧
      t.sum = { s.sum with stubs := s.sum.stubs.filter fun p => p.2.inval != some id } ∧ t.mem.cells = s.mem.cells ∧
      ∀ e ∈ t.mem.tlb, e.ctx = v.ctx → v.covers e.tr (BitVec.ofNat 64 (e.page * 2 ^ e.tr.bits)) = false)

/-! ### Engines -/

/-- R222 to R226, R231 to R235: BTL and BTS make the tag BUSY and put the transfer behind its queue; a shape without units makes the tag READY
at once. A tag of 64 or more faults RESOURCE_BOUND. STRQ puts its transfer behind the cluster's queue; STRCH answers whether it started,
stopped or claimed the channel. -/
def Obligations.TransferIssue : Prop :=
  ((∀ (load : Bool) h hint rel d a b c e s i g k ks, s.current = some (i, g) → BlockIssues s i g h load rel d a b c e k ks →
    let src := i.source g
    let l := src.lane k
    let sh := shapeOf src l c e
    let tag := (readOp src l true d).toNat
    ∃ (t : State) (u : Group), exec (if load then .btl h hint rel d a b c e else .bts h hint rel d a b c e) s = .next t ∧
      t.group i.gid = some u ∧ Moved i g u ∧ t.mem = s.mem ∧ t.run.accs = s.run.accs ∧
      u.tags = (if sh.1 = 0 ∨ sh.2.1 = 0 then g.tags ||| 1#64 <<< tag else g.tags &&& ~~~(1#64 <<< tag)) ∧
      u.terr = g.terr &&& ~~~(1#64 <<< tag) ∧
      t.eng.transfers = (if sh.1 = 0 ∨ sh.2.1 = 0 then s.eng.transfers else s.eng.transfers ++ [(s.sch.nextId,
        ⟨i.gid, g.core, g.team, s.ctxOf g, s.wid g 0, tag, load, readOp src l true a, srcN32 src l b, sh.1, sh.2.1, sh.2.2.1, sh.2.2.2,
          hint, [], [], none, 0⟩)])) ∧
  (∀ (load : Bool) h hint rel d a b c e s i g k ks, s.current = some (i, g) → i.guarded g h = k :: ks →
    64 ≤ (readOp (i.source g) ((i.source g).lane k) true d).toNat →
    exec (if load then .btl h hint rel d a b c e else .bts h hint rel d a b c e) s =
      .next (s.takeTrap i (faultsOf (k :: ks) .resourceBound fun _ => 0)))) ∧
  ((∀ h hint rel sfl dfl d a b c e s i g k ks, s.current = some (i, g) → i.guarded g h = k :: ks →
    let r (x : Opnd) : DWord := readOp (i.source g) ((i.source g).lane k) true x
    let unit (f : Bool) : Nat := if f then 4096 else 4
    let ctr := if c.isAbsent then 0 else r c
    (r b).toNat ≤ 2 ^ 40 → (r d).toNat % unit dfl = 0 → (r a).toNat % unit sfl = 0 → (r b).toNat % unit (sfl || dfl) = 0 → ctr.toNat % 8 = 0 →
    (s.queuedStreams (clusterOf g.core)).length < 64 →
    (rel = true → s.reached i.gid .die (s.earlier i g) = true) →
    ∃ t u x, exec (.strq h hint rel sfl dfl d a b c e) s = .next t ∧ t.group i.gid = some u ∧ Moved i g u ∧ t.mem = s.mem ∧
      t.eng.streams = s.eng.streams ++ [(s.sch.nextId, x)] ∧ x.cluster = clusterOf g.core ∧ x.ctx = s.ctxOf g ∧
      x.kernel = s.kernelIdx g ∧ x.weight = s.kernelWeight g ∧ x.done = [] ∧ x.got = [] ∧ x.phase = 0 ∧ x.dst = r d ∧ x.src = r a ∧
      x.len = (r b).toNat ∧ x.ctr = (if c.isAbsent then none else some ctr) ∧ x.add = (if e.isAbsent then 1 else r e) ∧ x.sfl = sfl ∧
      x.dfl = dfl ∧ x.hint = hint ∧ x.chan = none ∧ x.fault = none) ∧
  (∀ h hint rel sfl dfl d a b c e s i g k ks, s.current = some (i, g) → i.guarded g h = k :: ks →
    2 ^ 40 < (readOp (i.source g) ((i.source g).lane k) true b).toNat →
    exec (.strq h hint rel sfl dfl d a b c e) s = .next (s.takeTrap i (faultsOf (k :: ks) .resourceBound fun _ => 0))) ∧
  (∀ h d a b, WritesLaterWhen (fun _ i g => i.guarded g h ≠ [] ∧
      (readOp (i.source g) ((i.source g).lane ((i.guarded g h).headD 0)) true a).toNat < 4 ∧
      (readOp (i.source g) ((i.source g).lane ((i.guarded g h).headD 0)) true b).toNat % 64 = 0) (.strch h d a b) h
    (fun s i g =>
      let l := (i.source g).lane ((i.guarded g h).headD 0)
      let key := chanKey (clusterOf g.core) (g.core % 4 * 4 + (readOp (i.source g) l true a).toNat)
      match (s.chan key).start (s.ctxOf g) (s.kernelIdx g) (s.kernelWeight g) (readOp (i.source g) l true b) with | some c => s.setChan key c | none => s)
    fun s i gs _ _ =>
      let g := match s.group i.gid with | some x => x | none => gs
      let l := gs.lane ((i.guarded gs h).headD 0)
      let key := chanKey (clusterOf g.core) (g.core % 4 * 4 + (readOp gs l true a).toNat)
      { preds := [(d, ((s.chan key).start (s.ctxOf g) (s.kernelIdx g) (s.kernelWeight g) (readOp gs l true b)).isSome)] }) ∧
  (∀ ctx kernel weight (head : DWord), head ≠ 0 →
    chanIdle.start ctx kernel weight head = some ⟨.walking, head, ctx, kernel, weight, false⟩))

/-- R226, R227, R230, R233, R234, R236, R237: the steps of a block transfer, while its context keeps no log: a unit moves 64 bytes (of a store,
what stands in scratchpad, where no write that a release has not ordered left an older word to read); the last one makes the tag READY; an
unserviced fault ends the transfer with its tag in ERROR; a serviced one makes it wait, until the page is valid or the guardian refuses (the
refusal is the model's reading, log 83). The steps of the streamer, while the context keeps no log: a piece of one word is copied; a
transfer whose bytes have all been moved adds to its counter and leaves; a channel reads its record, and waits while the record is not its
own; it walks again once it is; a fault that no guardian serves ends the transfer, and one that a guardian serves makes it wait. -/
def Obligations.TransferSteps : Prop :=
  ((∀ id unit s x tr, Table.get s.eng.transfers id = some x → s.unitRuns id x unit = true → s.unitMeet id x unit = .ok tr →
    Table.get s.ckp.ints x.ctx = none → x.done.length + 1 ≠ x.rows * x.units → x.got = [] →
    ∃ t, exec (.transferUnitPerformed id unit) s = .next t ∧
      Table.get t.eng.transfers id = some { x with done := unit :: x.done } ∧ t.run.groups = s.run.groups ∧
      (x.load = true → ∀ tm, Table.get s.run.teams x.team = some tm → ∃ tm', Table.get t.run.teams x.team = some tm' ∧
        { tm' with sp := tm.sp, marks := tm.marks, olds := tm.olds } = tm ∧ (Sparse.wf tm.sp = true → ∀ a, Sparse.get tm'.sp a =
          if x.spAt unit ≤ a ∧ a < x.spAt unit + 64 then (s.load (tr.key (x.memAt unit)) 64).getD (a - x.spAt unit) 0
          else Sparse.get tm.sp a)) ∧
      (x.load = false → (∀ tm, Table.get s.run.teams x.team = some tm → ∀ o ∈ tm.olds, o.off < x.spAt unit ∨ x.spAt unit + 64 ≤ o.off) →
        inAperture (tr.key (x.memAt unit)) = false → s.mem.views = [] → s.mem.wf = true → t.run.teams = s.run.teams ∧
        t.mem.bytes (tr.key (x.memAt unit)) 64 = s.spBytes x.team (x.spAt unit) 64)) ∧
  (∀ id unit s x tr g, Table.get s.eng.transfers id = some x → s.unitRuns id x unit = true →
    s.unitMeet id x unit = .ok tr → x.done.length + 1 = x.rows * x.units → s.group x.gid = some g →
    ∃ t, exec (.transferUnitPerformed id unit) s = .next t ∧ Table.get t.eng.transfers id = none ∧
      t.group x.gid = some { g with tags := g.tags ||| 1#64 <<< x.tag }) ∧
  (∀ id s x c a g, Table.get s.eng.transfers id = some x → s.group x.gid = some g →
    (x.fault = some (c, a) ∨ (x.fault = none ∧ s.transferRuns id x = true ∧ s.unitFault id x = some (c, a) ∧ c.serviced = false)) →
    ∃ t u, exec (.transferError id) s = .next t ∧ Table.get t.eng.transfers id = none ∧ t.group x.gid = some u ∧
      u.tags = g.tags ||| 1#64 <<< x.tag ∧ u.terr = g.terr ||| 1#64 <<< x.tag ∧ Table.get u.tagFault x.tag = some (c, a) ∧
      u.lanes = g.lanes ∧ t.run.accs = s.run.accs ∧ (s.walk x.ctx a = .invalid → t.mem = s.mem)) ∧
  (∀ id s x c a, Table.get s.eng.transfers id = some x → x.fault = none → s.transferRuns id x = true → s.unitFault id x = some (c, a) →
    c.serviced = true →
    ∃ t, exec (.transferError id) s = .next t ∧ Table.get t.eng.transfers id = some { x with fault := some (c, a) } ∧
      t.run.groups = s.run.groups) ∧
  (∀ id s x c a tr, Table.get s.eng.transfers id = some x → x.fault = some (c, a) → s.translate x.ctx .load a = .ok tr →
    ∃ t : State, exec (.transferResume id) s = .next t ∧ Table.get t.eng.transfers id = some { x with fault := none } ∧
      { t with eng := s.eng } = s) ∧
  (∀ id s x c a e, Table.get s.eng.transfers id = some x → x.fault = some (c, a) → s.translate x.ctx .load a = .error e → e.serviced = true →
    exec (.transferResume id) s = .next s)) ∧
  ((∀ id k w s x sk st dk dt r, Table.get s.eng.streams id = some x → s.streamTurn id x = true → x.moved = false → s.pieceRuns x k = true →
    x.got = [] → x.words k = [w] → x.size k = 4 → Table.get s.ckp.ints x.ctx = none →
    s.side x.ctx false x.sfl (x.wordAt w) 4 id = .at sk st → s.side x.ctx true x.dfl (x.dstAt k) 4 id = .at dk dt →
    s.takeTurn x 4 = some r →
    inAperture sk = false → inAperture dk = false → s.mem.views = [] → s.mem.wf = true →
    ∃ t, execStreamPiece id k s = .next t ∧ Table.get t.eng.streams id = some { x with done := k :: x.done } ∧ t.run = s.run ∧
      Table.get t.eng.rounds x.cluster = some r ∧ t.mem.bytes dk 4 = s.mem.bytes sk 4) ∧
  (∀ id s x, Table.get s.eng.streams id = some x → s.streamTurn id x = true → x.moved = true → x.fault = none → x.reading = false →
    s.streamsStopped x.ctx = false → x.chan = none → x.ctr = none →
    ∃ t, exec (.streamerTransferComplete id) s = .next t ∧ Table.get t.eng.streams id = none ∧ t.run = s.run ∧ t.mem.cells = s.mem.cells) ∧
  (∀ id s x a tr ta, Table.get s.eng.streams id = some x → s.streamTurn id x = true → x.moved = true → x.fault = none → x.reading = false →
    s.streamsStopped x.ctx = false → x.chan = none → x.phase ≤ 1 → x.ctr = some a → s.translate x.ctx .atomic a = .ok ta →
    s.engineWrite x.ctx a 32 (some id) = .ok tr → tr.cls ≠ 1 → inAperture (tr.key a) = false → s.mem.views = [] → s.mem.wf = true →
    ∃ t, exec (.streamerTransferComplete id) s = .next t ∧ Table.get t.eng.streams id = none ∧ t.run = s.run ∧
      t.mem.bytes (tr.key a) 8 = leBytes 8 (BitVec.ofNat 64 (leNat (s.mem.bytes (tr.key a) 8)) + x.add).toNat) ∧
  (∀ cluster chan s tr, let k := chanKey cluster chan
    (s.chan k).st = .walking → (s.eng.streams.all fun p => p.2.chan != some k) = true →
    s.engineRead (s.chan k).ctx (s.chan k).cur = .ok tr → leNat ((s.load (tr.key (s.chan k).cur) 64).drop 48 |>.take 4) % 2 = 0 →
    ∃ t, exec (.chainRecordRead cluster chan) s = .next t ∧ t.chan k = { s.chan k with st := .waiting } ∧ t.eng.streams = s.eng.streams ∧
      t.run = s.run) ∧
  (∀ cluster chan s tr x, let k := chanKey cluster chan
    (s.chan k).st = .walking → (s.eng.streams.all fun p => p.2.chan != some k) = true →
    s.engineRead (s.chan k).ctx (s.chan k).cur = .ok tr → leNat ((s.load (tr.key (s.chan k).cur) 64).drop 48 |>.take 4) % 2 = 1 →
    recStream cluster k (s.chan k) (s.load (tr.key (s.chan k).cur) 64) = some x →
    ∃ t id, exec (.chainRecordRead cluster chan) s = .next t ∧ t.chan k = s.chan k ∧ t.eng.streams = s.eng.streams ++ [(id, x)]) ∧
  (∀ cluster chan s b, let k := chanKey cluster chan
    (s.chan k).st = .waiting → s.vload (s.chan k).ctx ((s.chan k).cur + 48) 4 = .ok b →
    ∃ t : State, exec (.chainWake cluster chan) s = .next t ∧ { t with eng := s.eng } = s ∧
      t.chan k = (if leNat b % 2 = 1 then { s.chan k with st := .walking } else s.chan k)) ∧
  (∀ id s x c a, Table.get s.eng.streams id = some x → x.chan = none →
    (x.fault = some (c, a) ∨ (x.fault = none ∧ s.streamTurn id x = true ∧ s.streamFault id x = some (c, a) ∧ c.serviced = false)) →
    ∃ t, exec (.streamerFault id) s = .next t ∧ Table.get t.eng.streams id = none ∧ t.run = s.run) ∧
  (∀ id s x c a, Table.get s.eng.streams id = some x → x.fault = none → s.streamTurn id x = true → s.streamFault id x = some (c, a) →
    c.serviced = true →
    ∃ t, exec (.streamerFault id) s = .next t ∧ Table.get t.eng.streams id = some { x with fault := some (c, a) } ∧ t.run = s.run))

/-- R254 to R259: the lane tile instructions on a tile that nothing uses: TZERO, TLD.SP, TST.SP and QNT are performed at once (the last two
behind the bundle's earlier writes of those bytes; TLD.SP reads what stands there, where no write left an older word to read); TST issues
its 64 stores, a wide release once the group's earlier accesses have arrived (R194); TLD issues its 64 reads and its bundle waits for them.
A tile that is in use makes the bundle wait behind its order; an undeclared one faults RESOURCE_BOUND. -/
def Obligations.LaneTileInstructions : Prop :=
  (∀ h all d s i g k ks, let tile := (readOp (i.source g) ((i.source g).lane k) true d).toNat
    s.current = some (i, g) → TileFree s i g h k ks tile →
    ∃ t u, exec (.tzero h all d) s = .next t ∧ t.group i.gid = some u ∧ Moved i g u ∧ t.mem = s.mem ∧
      t.tile g.team tile = (if all then tileZero else { s.tile g.team tile with vals := [] }) ∧
      ∀ j, j ≠ tile → t.tile g.team j = s.tile g.team j) ∧
  (∀ h d b s i g k ks, let tile := (readOp (i.source g) ((i.source g).lane k) true d).toNat
    let off := srcN32 (i.source g) ((i.source g).lane k) b
    s.current = some (i, g) → TileFree s i g h k ks tile → off % 64 = 0 → off + 4096 ≤ s.allot g →
    (∀ tm, Table.get s.run.teams g.team = some tm → ∀ o ∈ tm.olds, o.off < off ∨ off + 4096 ≤ o.off) →
    ∃ t u, exec (.tldSp h d b) s = .next t ∧ t.group i.gid = some u ∧ Moved i g u ∧ t.mem = s.mem ∧
      t.tile g.team tile = { s.tile g.team tile with vals := tileOfBytes (s.spBytes g.team off 4096) }) ∧
  (∀ h d b s i g k ks, let tile := (readOp (i.source g) ((i.source g).lane k) true d).toNat
    let off := srcN32 (i.source g) ((i.source g).lane k) b
    s.current = some (i, g) → TileFree s i g h k ks tile → off % 64 = 0 → off + 4096 ≤ s.allot g → SpQuiet s i off 4096 →
    ∃ t u, exec (.tsts h d b) s = .next t ∧ t.group i.gid = some u ∧ Moved i g u ∧ t.mem = s.mem ∧
      t.tile g.team tile = s.tile g.team tile ∧
      ∀ tm, Table.get s.run.teams g.team = some tm → ∃ tn, Table.get t.run.teams g.team = some tn ∧
        tn.sp = Sparse.setBytes tm.sp off ((List.range 64).flatMap (s.tile g.team tile).piece) ∧
        { tn with sp := tm.sp, marks := tm.marks, olds := tm.olds } = tm) ∧
  (∀ h d b s i g k ks p, let tile := (readOp (i.source g) ((i.source g).lane k) true d).toNat
    let off := srcN32 (i.source g) ((i.source g).lane k) b
    s.current = some (i, g) → TileFree s i g h k ks tile → off % 64 = 0 → off + 4096 ≤ s.allot g → p ∈ s.run.accs → p.2.sp = true →
    p.2.kind.writes = true → p.2.gid = i.gid → p.2.lanes &&& i.lanes ≠ 0 → p.2.st = .queued → p.2.inst < s.sch.nextId →
    overlap off 4096 p.2.va.toNat p.2.size = true → exec (.tsts h d b) s = .next (s.waitAtIssue i 8)) ∧
  (∀ h col d b s i g k ks, let tile := (readOp (i.source g) ((i.source g).lane k) true d).toNat
    let off := srcN32 (i.source g) ((i.source g).lane k) b
    s.current = some (i, g) → TileFree s i g h k ks tile → off % 32 = 0 → off + 1024 ≤ s.allot g → SpQuiet s i off 1024 →
    ∃ t u, exec (.qnt h col d b) s = .next t ∧ t.group i.gid = some u ∧ Moved i g u ∧ t.mem = s.mem ∧
      (t.tile g.team tile).vals = (s.tile g.team tile).vals ∧ (t.tile g.team tile).nans = (s.tile g.team tile).nans ∧
      ∀ tm, Table.get s.run.teams g.team = some tm → ∃ tn, Table.get t.run.teams g.team = some tn ∧
        tn.sp = Sparse.setBytes tm.sp off (((s.tile g.team tile).quant col).flatMap fun y => leBytes 32 y.1.bits)) ∧
  (∀ h hint ord sc d a b s i g k ks, let tile := (readOp (i.source g) ((i.source g).lane k) true d).toNat
    let addr := readOp (i.source g) ((i.source g).lane k) true a
    let pitch := if b.isAbsent then 128 else readOp (i.source g) ((i.source g).lane k) true b
    s.current = some (i, g) → TileFree s i g h k ks tile → addr.toNat % 64 = 0 → pitch.toNat % 64 = 0 → s.room i.gid 64 = true →
    (ord = .rel → Scope.outer sc = true → s.reached i.gid sc s.sch.nextId = true) →
    ∃ t u, exec (.tst h hint ord sc d a b) s = .next t ∧ t.group i.gid = some u ∧ Moved i g u ∧
      ∀ n, n < 64 → ∃ p ∈ t.run.accs, s.sch.nextId ≤ p.1 ∧ p.2.kind = .store ∧ p.2.gid = i.gid ∧ p.2.size = 64 ∧
        p.2.va = addr + BitVec.ofNat 64 (n / 2) * pitch + BitVec.ofNat 64 (64 * (n % 2)) ∧ p.2.bytes = (s.tile g.team tile).piece n ∧
        p.2.ord = ord ∧ p.2.sc = sc) ∧
  (∀ h hint ord sc d a b s i g k ks, let tile := (readOp (i.source g) ((i.source g).lane k) true d).toNat
    let addr := readOp (i.source g) ((i.source g).lane k) true a
    let pitch := if b.isAbsent then 128 else readOp (i.source g) ((i.source g).lane k) true b
    s.current = some (i, g) → TileFree s i g h k ks tile → addr.toNat % 64 = 0 → pitch.toNat % 64 = 0 → s.room i.gid 64 = true →
    ∃ t u, exec (.tld h hint ord sc d a b) s = .next t ∧ t.group i.gid = some u ∧ t.tile g.team tile = s.tile g.team tile ∧
      (∀ j, j < g.width → hasBit i.lanes j = true → (u.lane j).pc = (g.lane j).pc ∧ (u.lane j).data = (g.lane j).data ∧
        ∃ w, (u.lane j).st = .stalled w ∧ w.kind = .tile s.sch.nextId) ∧
      ∀ n, n < 64 → ∃ p ∈ t.run.accs, p.2.kind = .line s.sch.nextId n ∧ p.2.gid = i.gid ∧ p.2.size = 64 ∧
        p.2.va = addr + BitVec.ofNat 64 (n / 2) * pitch + BitVec.ofNat 64 (64 * (n % 2))) ∧
  (∀ h all d s i g k ks, let tile := (readOp (i.source g) ((i.source g).lane k) true d).toNat
    s.current = some (i, g) → i.guarded g h = k :: ks → tile < s.declaredTiles g → (s.coreOps g.core).length < 32 →
    Table.get s.ckp.ints (s.ctxOf g) = none → s.tileOrder g.team tile ≠ [] →
    ∃ t u x, exec (.tzero h all d) s = .next t ∧ t.group i.gid = some u ∧ Table.get t.eng.tileOps s.sch.nextId = some x ∧
      x.team = g.team ∧ x.tile = tile ∧ x.kind = .zero all ∧ x.started = false ∧ t.tile g.team tile = s.tile g.team tile ∧
      ∀ j, j < g.width → hasBit i.lanes j = true → (u.lane j).pc = (g.lane j).pc ∧ (u.lane j).data = (g.lane j).data ∧
        ∃ w, (u.lane j).st = .stalled w ∧ w.kind = .tile s.sch.nextId) ∧
  (∀ h all d s i g k ks, s.current = some (i, g) → i.guarded g h = k :: ks →
    s.declaredTiles g ≤ (readOp (i.source g) ((i.source g).lane k) true d).toNat →
    exec (.tzero h all d) s = .next (s.takeTrap i (faultsOf (k :: ks) .resourceBound fun _ => 0)))

/-- R247, R251 to R253, R260: MMA is accepted behind its tile's order and joins the open commit group, and its bundle goes on; MCOMMIT closes
the group and answers its number; MWAIT goes on when the groups up to its number are done and none of them aborted, and waits while one is
not; TSTAT answers the status word, and .clr clears the counts. -/
def Obligations.MatrixInstructions : Prop :=
  (∀ h ty rel d a b (n : BitVec 9) e s i g k ks, s.current = some (i, g) → i.guarded g h = k :: ks →
    let l := (i.source g).lane k
    let tile := (readOp (i.source g) l true d).toNat
    let st := readOp (i.source g) l true e
    let z := match ty with | .bf16 => 16 | _ => 32
    let sl := match ty with | .bf16 => 512 | _ => 1024
    let sa := if e.isAbsent then sl else field st 31 0
    let sb := if e.isAbsent then sl else field st 63 32
    let pa := srcN32 (i.source g) l a
    let pb := srcN32 (i.source g) l b
    tile < s.declaredTiles g → n ≠ 0 → n.toNat ≤ 255 → pa % z = 0 → pb % z = 0 → sa % z = 0 → sb % z = 0 → (s.coreOps g.core).length < 32 →
    Table.get s.ckp.ints (s.ctxOf g) = none → (rel = true → s.reached i.gid .team (s.earlier i g) = true) →
    ∃ t u x, exec (.mma h ty rel d a b (.imm n) e) s = .next t ∧ t.group i.gid = some u ∧ Moved i g u ∧ t.mem = s.mem ∧
      (rel = false → t.run.teams = s.run.teams) ∧
      (t.run.teams.map fun p => (p.1, { p.2 with olds := [] })) = (s.run.teams.map fun p => (p.1, { p.2 with olds := [] })) ∧
      Table.get t.eng.tileOps s.sch.nextId = some x ∧ x.team = g.team ∧ x.tile = tile ∧
      x.kind = .mma ty pa pb n.toNat sa sb ∧ x.commit = g.mcmade + 1 ∧ x.started = false ∧
      ∃ c ∈ u.commits, c.sealed = false ∧ 0 < c.left) ∧
  (∀ h ty rel d a b c e s i g k ks, s.current = some (i, g) → i.guarded g h = k :: ks →
    s.declaredTiles g ≤ (readOp (i.source g) ((i.source g).lane k) true d).toNat →
    exec (.mma h ty rel d a b c e) s = .next (s.takeTrap i (faultsOf (k :: ks) .resourceBound fun _ => 0))) ∧
  (∀ h d s i g k ks, s.current = some (i, g) → i.guarded g h = k :: ks →
    ∃ t u p, exec (.mcommit h d) s = .next t ∧ t.group i.gid = some u ∧ u.mcmade = g.mcmade + 1 ∧
      Table.get t.run.pend s.sch.nextId = some p ∧ (∀ j ∈ k :: ks, (j, d, true, g.mcmade + 1) ∈ p.regs) ∧
      (∀ c ∈ u.commits, c.number = g.mcmade + 1 → c.sealed = true) ∧ t.mem = s.mem) ∧
  (∀ h s i g k ks, s.current = some (i, g) → i.guarded g h = k :: ks → g.mcmade.toNat ≤ g.mcdone.toNat → g.unreported g.mcmade = none →
    ∃ t, exec (.mwait h .absent) s = .next t ∧ Ran s t i g (i.effects g h fun _ _ _ => {})) ∧
  (∀ h s i g k ks, s.current = some (i, g) → i.guarded g h = k :: ks → g.mcdone.toNat < g.mcmade.toNat →
    ∃ t u, exec (.mwait h .absent) s = .next t ∧ t.group i.gid = some u ∧ ∀ j, j < g.width → hasBit i.lanes j = true →
      (u.lane j).pc = (g.lane j).pc ∧ (u.lane j).data = (g.lane j).data ∧
        ∃ w, (u.lane j).st = .stalled w ∧ w.kind = .mwait g.mcmade.toNat ∧ w.left = none) ∧
  (∀ h clr d a s i g k ks, let tile := (readOp (i.source g) ((i.source g).lane k) true a).toNat
    s.current = some (i, g) → i.guarded g h = k :: ks → tile < s.declaredTiles g →
    (∃ tm, Table.get s.run.teams g.team = some tm ∧ tile < tm.tiles.length) →
    let w := s.tile g.team tile
    ∃ t u p, exec (.tstat h clr d a) s = .next t ∧ t.group i.gid = some u ∧ Moved i g u ∧
      Table.get t.run.pend s.sch.nextId = some p ∧ (∀ j ∈ k :: ks, (j, d, true, BitVec.ofNat 64 (w.nans.toNat * 2 ^ 40 +
        (s.tileOrder g.team tile).length * 2 ^ 32 + w.underflows.toNat * 2 ^ 16 + w.overflows.toNat)) ∈ p.regs) ∧
      t.tile g.team tile = (if clr then { w with nans := 0, underflows := 0, overflows := 0 } else w))

/-- R242 to R244, R248 to R250, R253: the steps of the tile engine: an MMA that is first in its tile's order starts and computes its slices from
its operands as it reads them, all as they stand where no write left an older word to read; it retires with the tile's new values in one
step; it aborts with the tile as it was and the record in its commit group; a lane tile instruction that has become first is performed, and
its bundle goes on; a TLD writes its tile once its 64 reads are in. -/
def Obligations.TileEngineSteps : Prop :=
  (∀ id s x k a b n sa sb vs drop, Table.get s.eng.tileOps id = some x → x.kind = .mma k a b n sa sb → x.started = false →
    s.opTurn id x = true → ((s.coreOps x.core).filter fun p => p.2.started).length < 4 →
    let r := s.readOperands x
    (r.1.withOperands r.2).mmaSlices x.team (s.teamAllot x.team) k a b sa sb n n (s.tile x.team x.tile).list 0 = .ok (vs, drop) →
    ∃ t : State, exec (.mmaStart id) s = .next t ∧ { t with eng := s.eng } = r.1 ∧
      Table.get t.eng.tileOps id = some { r.2 with started := true, result := some (tileVals vs, drop) }) ∧
  (∀ id s x k a b n sa sb off, Table.get s.eng.tileOps id = some x → x.kind = .mma k a b n sa sb → x.started = false →
    s.opTurn id x = true → ((s.coreOps x.core).filter fun p => p.2.started).length < 4 →
    let r := s.readOperands x
    (r.1.withOperands r.2).mmaSlices x.team (s.teamAllot x.team) k a b sa sb n n (s.tile x.team x.tile).list 0 = .error off →
    ∃ t : State, exec (.mmaStart id) s = .next t ∧ { t with eng := s.eng } = r.1 ∧
      Table.get t.eng.tileOps id = some { r.2 with started := true, abort := some (BitVec.ofNat 64 off) }) ∧
  (∀ (s : State) (x : TileOp), (∀ tm, Table.get s.run.teams x.team = some tm → tm.olds = []) → s.readOperands x = (s, x)) ∧
  (∀ (id : Nat) (s : State) (x : TileOp) (vals : Sparse 32) (drop : Nat), Table.get s.eng.tileOps id = some x → x.result = some (vals, drop) →
    (∃ tm, Table.get s.run.teams x.team = some tm ∧ x.tile < tm.tiles.length) →
    ∃ t, exec (.mmaRetire id) s = .next t ∧ Table.get t.eng.tileOps id = none ∧ t.mem = s.mem ∧
      (t.tile x.team x.tile).vals = vals ∧
      (t.tile x.team x.tile).nans.toNat = Nat.min ((s.tile x.team x.tile).nans.toNat + drop) 0xFFFFFF ∧
      ∀ k, k ≠ x.tile → t.tile x.team k = s.tile x.team k) ∧
  (∀ id s x off g, Table.get s.eng.tileOps id = some x → x.abort = some off → s.group x.gid = some g →
    ∃ t u, exec (.mmaAbort id) s = .next t ∧ Table.get t.eng.tileOps id = none ∧ t.run.teams = s.run.teams ∧ t.mem = s.mem ∧
      t.group x.gid = some u ∧ u.lanes = g.lanes ∧
      ∀ c ∈ g.commits, c.number = x.commit → c.abort = none → ∃ c' ∈ u.commits, c'.number = x.commit ∧ c'.abort = some (.scratchBounds, off)) ∧
  (∀ id s x g all k, Table.get s.eng.tileOps id = some x → x.kind = .zero all → s.group x.gid = some g → s.opTurn id x = true →
    x.started = false → g.tileWaiter id = some k → k < 64 → (∃ tm, Table.get s.run.teams x.team = some tm ∧ x.tile < tm.tiles.length) →
    ∃ t u, exec (.tileOpPerformed id) s = .next t ∧ Table.get t.eng.tileOps id = none ∧ t.group x.gid = some u ∧
      t.tile x.team x.tile = (if all then tileZero else { s.tile x.team x.tile with vals := [] }) ∧
      ∀ j, j < g.width → hasBit (g.waitersWith k) j = true → (u.lane j).pc = succPc (g.lane j).pc ∧
        (u.lane j).data = (g.lane j).data ∧ (u.lane j).retired = (g.lane j).retired + 1) ∧
  (∀ id s x g addr pitch acq sc k, Table.get s.eng.tileOps id = some x → x.kind = .load addr pitch acq sc → s.group x.gid = some g →
    s.opTurn id x = true → x.started = true → 64 ≤ x.got.length → g.tileWaiter id = some k → k < 64 →
    (∃ tm, Table.get s.run.teams x.team = some tm ∧ x.tile < tm.tiles.length) →
    ∃ t u, exec (.tileOpPerformed id) s = .next t ∧ Table.get t.eng.tileOps id = none ∧ t.group x.gid = some u ∧
      t.tile x.team x.tile = { s.tile x.team x.tile with
        vals := tileOfBytes ((List.range 64).flatMap fun n => (Table.get x.got n).getD []) } ∧
      ∀ j, j < g.width → hasBit (g.waitersWith k) j = true → (u.lane j).pc = succPc (g.lane j).pc ∧
        (u.lane j).data = (g.lane j).data ∧ (u.lane j).retired = (g.lane j).retired + 1)

/-! ### Kernels, queues and calls -/

/-- R269, R270, R276, R278, R284, R297: SPAWN: a kernel with the six values of s[B] to s[B + 5] and its join record enters as ACCEPTED, holding
a spawn slot, and every active lane moves on; without a free slot the bundle waits. A register or an address out of place traps. The
dispatcher then reads the header of the accepted kernel, and the values where the launch names them: a good header that can be placed makes
it DISPATCHING, a bad one refuses it, and a header page that must wait keeps it ACCEPTED. A header that has been read is not read again,
whatever stands in memory since (R267). QPOST, while its context keeps no log: with room in a queue of the context, the record goes into the
ring with SEQ, WRIDX rises, and the predicate and the index say so; without, the predicate is false, the index all ones, and the queue as it
was; a queue that another QPOST has locked makes it wait. -/
def Obligations.SpawnAndPost : Prop :=
  ((∀ h sc a (n : BitVec 6) c s i g k ks, s.current = some (i, g) → i.guarded g h = k :: ks →
    let src := i.source g
    let hdr := readOp src (src.lane k) true a
    let join := if c.isAbsent then none else some (readOp src (src.lane k) true c)
    n.toNat + 5 < s.sregs g → hdr.toNat % 128 = 0 → (join.getD 0).toNat % 16 = 0 → s.reached i.gid sc (s.earlier i g) = true →
    (s.spawnSlots (s.partOf (s.ctxOf g)) < 256 →
      ∃ t u, exec (.spawn h sc a (.s n) c) s = .next t ∧ t.group i.gid = some u ∧ Moved i g u ∧ t.mem = s.mem ∧
        t.run.teams = s.run.teams ∧ Table.get t.ker.kernels s.sch.nextId = some ⟨s.ctxOf g, s.partOf (s.ctxOf g), hdr, headerOf hdr [],
          (List.range 6).map fun j => Sparse.get src.s (n.toNat + j), join, .accepted, 0, 0, true, none, 0, none, none, none, none⟩) ∧
    (256 ≤ s.spawnSlots (s.partOf (s.ctxOf g)) → exec (.spawn h sc a (.s n) c) s = .next (s.waitAtIssue i 11))) ∧
  (∀ h sc a (n : BitVec 6) c s i g k ks, s.current = some (i, g) → i.guarded g h = k :: ks → s.sregs g ≤ n.toNat + 5 →
    exec (.spawn h sc a (.s n) c) s = .next (s.takeTrap i (faultsOf (k :: ks) .resourceBound fun _ => 0))) ∧
  (∀ h sc a (n : BitVec 6) c s i g k ks, s.current = some (i, g) → i.guarded g h = k :: ks → n.toNat + 5 < s.sregs g →
    (readOp (i.source g) ((i.source g).lane k) true a).toNat % 128 ≠ 0 →
    exec (.spawn h sc a (.s n) c) s =
      .next (s.takeTrap i (faultsOf (k :: ks) .alignment fun _ => readOp (i.source g) ((i.source g).lane k) true a))) ∧
  (∀ id s k b, let hdr := headerOf k.hdrVa b
    Table.get s.ker.kernels id = some k → k.st = .accepted → k.early = none → k.verdict = none →
    k.text = some b ∨ (k.text = none ∧ s.loadWaits k.ctx k.hdrVa = false ∧ s.vload k.ctx k.hdrVa 128 = .ok b) → headerOk b hdr = true → s.empty.placeableSomewhere k.part hdr = true →
    (k.args = none → ∃ t, execKernelRead id s = .next t ∧ t.run = s.run ∧ t.mem = (s.touchLaunch k).mem ∧
      Table.get t.ker.kernels id = some { k with hdr := hdr, st := .dispatching, live := hdr.teams, est := 1024 * hdr.x1, text := none }) ∧
    (∀ a vs, k.args = some a → s.loadWaits k.ctx a = false → s.loadWaits k.ctx (a + 40) = false → s.launchValues k.ctx a = .ok vs →
      ∃ t, execKernelRead id s = .next t ∧ t.run = s.run ∧ t.mem = (s.touchLaunch k).mem ∧ Table.get t.ker.kernels id =
        some { k with hdr := hdr, vals := vs, st := .dispatching, live := hdr.teams, est := 1024 * hdr.x1, args := none, text := none })) ∧
  (∀ id s k b, Table.get s.ker.kernels id = some k → k.st = .accepted → k.verdict = none →
    k.text = some b ∨ (k.text = none ∧ s.loadWaits k.ctx k.hdrVa = false ∧ s.vload k.ctx k.hdrVa 128 = .ok b) → k.early = some .illegalEncoding ∨ (k.early = none ∧ headerOk b (headerOf k.hdrVa b) = false) →
    s.refusalWaits k id = false →
    ∃ t, execKernelRead id s = .next t ∧ t.run = s.run ∧ Table.get t.ker.kernels id = none ∧ ∀ l x, k.launch = some l →
      Table.get s.ker.queues l.queue = some x → (t.queue l.queue).lasterr = BitVec.ofNat 64 (l.index.toNat % 2 ^ 56 * 256 + 1)) ∧
  (∀ id s k, Table.get s.ker.kernels id = some k → k.st = .accepted → k.text = none → k.verdict = none → s.loadWaits k.ctx k.hdrVa = true →
    ∃ t, execKernelRead id s = .next t ∧ t.ker = s.ker ∧ t.run = s.run)) ∧
  ((∀ h sc d (q : Nat) a b e s i g k ks t1 t2, s.current = some (i, g) → i.guarded g h = k :: ks →
    let src := i.source g
    let rec' := readOp src (src.lane k) true b
    let x := s.queue q
    let slot := x.base + BitVec.ofNat 64 (64 * (x.wr.toNat % x.size))
    (match a with | .imm y => y.toNat | _ => srcN32 src (src.lane k) a) = q → q < 1024 → rec'.toNat % 64 = 0 →
    s.reached i.gid sc (s.earlier i g) = true → Table.get s.ckp.ints (s.ctxOf g) = none → x.takes (s.ctxOf g) = true →
    x.lock = none → s.overdue (s.ctxOf g) slot i.gid = false →
    s.engineRead (s.ctxOf g) rec' 64 = .ok t1 → s.engineWrite (s.ctxOf g) slot 64 (some i.gid) = .ok t2 →
    ∃ s1 t : State, exec (.qpost h sc d a b e) s = .next t ∧ s1.run = s.run ∧ s1.sch = s.sch ∧ s1.queue q = { x with wr := x.wr + 1 } ∧
      Ran s1 t i g (i.effects g h fun _ _ _ => { regs := [(e, true, x.wr)], preds := [(d, true)] }) ∧
      (inAperture (t1.key rec') = false → inAperture (t2.key slot) = false → s.mem.views = [] → s.mem.wf = true →
        t.mem.bytes (t2.key slot) 64 = (s.mem.bytes (t1.key rec') 64).take 60 ++ leBytes 4 (x.wr.toNat % 2 ^ 32))) ∧
  (∀ h sc d (q : Nat) a b e s i g k ks, s.current = some (i, g) → i.guarded g h = k :: ks →
    let src := i.source g
    (match a with | .imm y => y.toNat | _ => srcN32 src (src.lane k) a) = q → q < 1024 →
    (readOp src (src.lane k) true b).toNat % 64 = 0 → s.reached i.gid sc (s.earlier i g) = true →
    Table.get s.ckp.ints (s.ctxOf g) = none → (s.queue q).takes (s.ctxOf g) = false → (s.queue q).lock = none →
    ∃ t, exec (.qpost h sc d a b e) s = .next t ∧
      Ran s t i g (i.effects g h fun _ _ _ => { regs := [(e, true, -1)], preds := [(d, false)] })) ∧
  (∀ h sc d (q : Nat) a b e s i g k ks, s.current = some (i, g) → i.guarded g h = k :: ks →
    let src := i.source g
    (match a with | .imm y => y.toNat | _ => srcN32 src (src.lane k) a) = q → q < 1024 →
    (readOp src (src.lane k) true b).toNat % 64 = 0 → s.reached i.gid sc (s.earlier i g) = true →
    s.locked (s.queue q) = true → (s.queue q).lockedBy g i.lanes = false → exec (.qpost h sc d a b e) s = .next (s.waitAtIssue i 11)) ∧
  (∀ h sc d (q : Nat) a b e s i g k ks, s.current = some (i, g) → i.guarded g h = k :: ks →
    (match a with | .imm y => y.toNat | _ => srcN32 (i.source g) ((i.source g).lane k) a) = q → 1024 ≤ q →
    exec (.qpost h sc d a b e) s = .next (s.takeTrap i (faultsOf (k :: ks) .resourceBound fun _ => 0))))

/-- R311 to R314: SVC posts its calls by ascending number, each in the lowest FREE record: when all are posted the bundle moves on and each
lane's handle, the record's index and generation, arrives later; with numbers left it waits. SVCW gives each lane its reply, traps on a
stale handle or a refused call, and waits while the record is posted or claimed; CTXQ reads an item. The context keeps no log. -/
def Obligations.SystemCalls : Prop :=
  (∀ h d a (v : BitVec 8) (c : BitVec 9) s i g p left hs, let calls := callsOf i g h a
    s.current = some (i, g) → i.guarded g h ≠ [] → (c = 0 ∨ v.toNat + 2 * c.toNat ≤ (s.declared g).1) →
    s.reached i.gid .sys (s.earlier i g) = true → Table.get s.ckp.ints (s.ctxOf g) = none →
    s.postCalls i.gid (i.source g) v.toNat c.toNat calls = (p, left, hs) →
    (left = [] →
      let es := i.effects g h fun _ k _ => handleEff d hs k
      ∃ t : State, exec (.svc h d a (.v v) (.imm c)) s = .next { t with run := { t.run with
          pend := Table.set t.run.pend s.sch.nextId (waitingResults i.gid es) } } ∧
        Ran { p with sch := { p.sch with nextId := s.sch.nextId + 1 } } t i g (es.map fun q => (q.1, q.2.awaited s.sch.nextId h.la.toNat))) ∧
    (left ≠ [] → ∃ u, exec (.svc h d a (.v v) (.imm c)) s = .next (p.setGroup i.gid u) ∧
      MovedBut i g u (fun k => hasBit i.lanes k) ∧ ∀ k ∈ i.guarded g h, k < g.width → ∃ w, (u.lane k).st = .stalled w ∧
        w.kind = .posting d v.toNat c.toNat left hs ∧ w.reason = 15 ∧ w.left = none)) ∧
  (∀ (s : State) gid src base nargs n m r x, (s.freeRecords (s.ctxOf src)).head? = some r → s.callRec (s.ctxOf src) r = some x →
    let w := (x.gen + 1) % 2 ^ 24 * 256 + r
    s.postCalls gid src base nargs [(n, m)] =
      ((s.postCall gid src base nargs n r (maskLanes m)).1, [], (maskLanes m).map fun k => (k, w))) ∧
  (∀ (s : State) gid src base nargs c rest, s.freeRecords (s.ctxOf src) = [] →
    s.postCalls gid src base nargs (c :: rest) = (s, c :: rest, [])) ∧
  (∀ h d a s i g (f : Nat → DWord), s.current = some (i, g) → Table.get s.ckp.ints (s.ctxOf g) = none → i.guarded g h ≠ [] →
    (∀ k ∈ i.guarded g h, s.replyFor g k (srcN32 (i.source g) ((i.source g).lane k) a) = .replied (f k)) →
    ∃ s1 t, exec (.svcw h d a) s = .next t ∧ s1.run = s.run ∧ s1.sch = s.sch ∧
      Ran s1 t i g (i.effects g h fun _ k _ => { regs := [(d, true, f k)] })) ∧
  (∀ h d a s i g (f : Nat → DWord), s.current = some (i, g) → i.guarded g h ≠ [] →
    (∀ k ∈ i.guarded g h, s.replyFor g k (srcN32 (i.source g) ((i.source g).lane k) a) = .refused (f k)) →
    ∃ s1 : State, exec (.svcw h d a) s = .next (s1.takeTrap i (faultsOf (i.guarded g h) .serviceRequired f)) ∧ s1.run = s.run ∧
      s1.sch = s.sch) ∧
  (∀ h d a s i g, s.current = some (i, g) → i.guarded g h ≠ [] →
    (∀ k ∈ i.guarded g h, s.replyFor g k (srcN32 (i.source g) ((i.source g).lane k) a) = .stale) →
    exec (.svcw h d a) s = .next (s.takeTrap i (faultsOf (i.guarded g h) .resourceBound fun k =>
      BitVec.ofNat 64 (srcN32 (i.source g) ((i.source g).lane k) a)))) ∧
  (∀ h d a s i g, s.current = some (i, g) → i.guarded g h ≠ [] →
    (∀ k ∈ i.guarded g h, s.replyFor g k (srcN32 (i.source g) ((i.source g).lane k) a) = .waits) →
    ∃ u, exec (.svcw h d a) s = .next (s.setGroup i.gid u) ∧ MovedBut i g u (fun k => (i.guarded g h).contains k) ∧
      ∀ k ∈ i.guarded g h, k < g.width → ∃ w, (u.lane k).st = .stalled w ∧
        w.kind = .svcw d (BitVec.ofNat 32 (srcN32 (i.source g) ((i.source g).lane k) a)) ∧ w.left = none) ∧
  (∀ h d (n : BitVec 9) c, WritesWhen (fun s _ g => Table.get s.ckp.ints (s.ctxOf g) = none ∧
      Table.get s.ctx.contexts (s.ctxOf g) = some c) (.ctxq h d (.imm n)) h
    fun s _ g _ _ => { regs := [(d, true, s.ctxItem (s.ctxOf g) c n.toNat)] })

/-- R282, R286, R289, R290, R292, R297: a queue of good size, base, partition and context becomes ACTIVE with its indexes zero; one of which any
is bad stays without EN, and Glen records it; clearing EN discards what is pending; a write to WRIDX that runs past the ring overruns the
queue, and any other only stores; RESET drops what is pending; both wait while a QPOST has the page locked. A queue left with nothing
pending and no kernel keeps no positive deficit. Nothing else changes. -/
def Obligations.QueueStates : Prop :=
  (∀ host q cfg s, let x := s.queue q
    (s.privileged host (field cfg 35 32) = false ∨ x.cfg.getLsbD 7 = true) → exec (.queueEnable host q cfg) s = .next s) ∧
  (∀ host q cfg s c, let x := s.queue q
    q < 1024 → s.privileged host (field cfg 35 32) = true → x.cfg.getLsbD 7 = false → 4 ≤ field cfg 4 0 → field cfg 4 0 ≤ 16 →
    x.base.toNat % (64 * 2 ^ field cfg 4 0) = 0 → Table.get s.ctx.contexts (field cfg 47 36) = some c →
    c.record.part = field cfg 35 32 → c.st ≠ .tornDown → s.partEnabled (field cfg 35 32) = true →
    ∃ t y, exec (.queueEnable host q cfg) s = .next t ∧ t = s.setQueue q y ∧ y.st = .active ∧ y.wr = 0 ∧ y.rd = 0 ∧ y.dropped = 0 ∧
      y.lasterr = 0 ∧ y.base = x.base ∧ y.cfg.getLsbD 7 = true ∧ y.size = 2 ^ field cfg 4 0 ∧ y.ctx = field cfg 47 36 ∧
      y.part = field cfg 35 32 ∧ y.record = none) ∧
  (∀ host q cfg s, let x := s.queue q
    q < 1024 → s.privileged host (field cfg 35 32) = true → x.cfg.getLsbD 7 = false →
    (field cfg 4 0 < 4 ∨ 16 < field cfg 4 0 ∨ x.base.toNat % (64 * 2 ^ field cfg 4 0) ≠ 0 ∨ s.partEnabled (field cfg 35 32) = false ∨
      ∀ c, Table.get s.ctx.contexts (field cfg 47 36) = some c → c.record.part ≠ field cfg 35 32 ∨ c.st = .tornDown) →
    ∃ t y, exec (.queueEnable host q cfg) s = .next t ∧ t.queue q = y ∧ y.cfg.getLsbD 7 = false ∧ y.st = x.st ∧
      t.sys.glenSeq = s.sys.glenSeq + 1 ∧ { t with ker := s.ker, sys := s.sys } = s) ∧
  (∀ host q s, let x := s.queue q
    s.privileged host x.part = true →
    ∃ y, exec (.queueDisable host q) s = .next (s.setQueue q y) ∧
      y = { x with cfg := y.cfg, st := .disabled, rd := x.wr, record := none, deficit := s.deficitLeft q } ∧
      y.cfg.getLsbD 7 = false ∧ ∀ j, j ≠ 7 → y.cfg.getLsbD j = x.cfg.getLsbD j) ∧
  (∀ q v s, let x := s.queue q
    q < 1024 → s.locked x = false → ¬ ((x.st = .active ∨ x.st = .waiting) ∧ x.size < (v - x.rd).toNat) →
    exec (.wridxWrite q v) s = .next (s.setQueue q { x with
      wr := v, record := (if v = x.rd then none else x.record), deficit := if v = x.rd then s.deficitLeft q else x.deficit })) ∧
  (∀ q v s, q < 1024 → s.locked (s.queue q) = true → exec (.wridxWrite q v) s = .next (s.holdBack (.row (.wridxWrite q v)))) ∧
  (∀ q s, s.locked (s.queue q) = true → exec (.queueReset q) s = .next (s.holdBack (.row (.queueReset q)))) ∧
  (∀ q v s, let x := s.queue q
    q < 1024 → s.locked x = false → (x.st = .active ∨ x.st = .waiting) → x.size < (v - x.rd).toNat →
    ∃ t, exec (.wridxWrite q v) s = .next t ∧ t.run = s.run ∧ t.ker.kernels = s.ker.kernels ∧ t.queue q = { x with
      wr := v, rd := v, st := .overrun, record := none, deficit := s.deficitLeft q
      dropped := BitVec.ofNat 32 (Nat.min (x.dropped.toNat + (v - x.rd).toNat) (2 ^ 32 - 1)) } ∧
      ∀ p, p ≠ q → t.queue p = s.queue p) ∧
  (∀ q s, let x := s.queue q
    s.locked x = false → (x.st = .active ∨ x.st = .waiting ∨ x.st = .overrun) → exec (.queueReset q) s = .next (s.setQueue q { x with
      st := .active, rd := x.wr, asked := false, record := none, deficit := s.deficitLeft q
      dropped := BitVec.ofNat 32 (Nat.min (x.dropped.toNat + (x.wr - x.rd).toNat) (2 ^ 32 - 1)) })) ∧
  (∀ q s, s.locked (s.queue q) = false → (s.queue q).st = .disabled ∨ (s.queue q).st = .suspended → exec (.queueReset q) s = .next s)

/-- R283 to R285, R288: a queue reads its head record once, when it has arrived, and keeps it; it takes it when the kernel it took before allows
it and its dependency is met: RDIDX rises by one and the kernel enters, ACCEPTED, to be refused where the record is malformed; while one of
these fails the queue waits. -/
def Obligations.RecordTaken : Prop :=
  (∀ q s b, let x := s.queue q
    let f (o n : Nat) : Nat := bytesField b o n
    (x.st = .active ∨ x.st = .waiting) → x.pending ≠ 0 → x.pending ≤ x.size → s.dispatches x.ctx = true → x.record = some b →
    s.previousAllows x (f 56 2 / 4 % 2 == 1) = true → (∀ a, recordDep b = some a → s.loadWaits x.ctx a = false) → s.depMet x.ctx b = true →
    ∃ t kn, exec (.recordTake q) s = .next t ∧
      t.queue q = { x with st := .active, rd := x.rd + 1, asked := false, record := none, last := some s.sch.nextId } ∧
      Table.get t.ker.kernels s.sch.nextId = some kn ∧ kn.ctx = x.ctx ∧ kn.part = s.partOf x.ctx ∧ kn.hdrVa = BitVec.ofNat 64 (f 0 8) ∧
      kn.vals = List.replicate 6 0 ∧ kn.st = .accepted ∧ kn.slot = false ∧ t.run = s.run ∧
      (recordBad b = true → kn.early = some .illegalEncoding) ∧
      (recordBad b = false → kn.early = none ∧ kn.args = (if f 8 8 = 0 then none else some (BitVec.ofNat 64 (f 8 8))) ∧
        kn.join = (if f 48 8 = 0 then none else some (BitVec.ofNat 64 (f 48 8))) ∧
        kn.launch = some ⟨q, x.rd, if f 56 2 % 4 = 2 then some (BitVec.ofNat 64 (f 16 8), BitVec.ofNat 64 (f 24 8)) else none,
          BitVec.ofNat 64 (f 32 8), BitVec.ofNat 64 (f 40 8)⟩)) ∧
  (∀ q s b, let x := s.queue q
    (x.st = .active ∨ x.st = .waiting) → x.pending ≠ 0 → x.pending ≤ x.size → s.dispatches x.ctx = true → x.record = some b →
    (s.previousAllows x (bytesField b 56 2 / 4 % 2 == 1) = false ∨
      ((∀ a, recordDep b = some a → s.loadWaits x.ctx a = false) ∧ s.depMet x.ctx b = false)) →
    ∃ t, exec (.recordTake q) s = .next t ∧ t.queue q = { x with st := .waiting } ∧ t.ker.kernels = s.ker.kernels ∧ t.run = s.run) ∧
  (∀ q s b, let x := s.queue q
    let va := x.base + BitVec.ofNat 64 (64 * (x.rd.toNat % x.size))
    (x.st = .active ∨ x.st = .waiting) → x.pending ≠ 0 → x.pending ≤ x.size → s.dispatches x.ctx = true → x.record = none →
    s.loadWaits x.ctx va = false → s.vload x.ctx va 64 = .ok b →
    (bytesField b 60 4 ≠ x.rd.toNat % 2 ^ 32 →
      exec (.recordTake q) s = .next ((s.touched x.ctx va).setQueue q { x with st := .waiting, asked := false })) ∧
    (bytesField b 60 4 = x.rd.toNat % 2 ^ 32 → s.previousAllows x (bytesField b 56 2 / 4 % 2 == 1) = false →
      ∃ t, exec (.recordTake q) s = .next t ∧ t.queue q = { x with st := .waiting, asked := false, record := some b } ∧
        t.ker.kernels = s.ker.kernels ∧ t.run = s.run) ∧
    (bytesField b 60 4 = x.rd.toNat % 2 ^ 32 → s.previousAllows x (bytesField b 56 2 / 4 % 2 == 1) = true → recordDep b = none →
      ∃ t kn, exec (.recordTake q) s = .next t ∧
        t.queue q = { x with st := .active, rd := x.rd + 1, asked := false, record := none, last := some s.sch.nextId } ∧
        Table.get t.ker.kernels s.sch.nextId = some kn ∧ kn.st = .accepted ∧ kn.ctx = x.ctx ∧
        kn.hdrVa = BitVec.ofNat 64 (bytesField b 0 8) ∧ t.run = s.run)) ∧
  (∀ q s, (s.queue q).pending = 0 → exec (.recordTake q) s = .next s)

/-- R272, R274, R276, R277, R279, R291, R295: the offered kernel's next team starts on the core with fresh lanes at the kernel's entry; a
retired team makes its join add and leaves; a flushed kernel leaves, and its completion counter is added to; a spawn write enters a kernel
with the values it carries. The correction c becomes c × M / (P − Pidle), no less than a quarter and no more than four; without a resident
team it stays. The partition is overdrawn, and withholds issue, while its draw exceeds the allowance. The idle draw is measured anew: any
value (log 7). -/
def Obligations.TeamsAndKernels : Prop :=
  ((∀ kernel core quads s k, Table.get s.ker.kernels kernel = some k → s.offered kernel k = true →
    s.placeable k.part k.hdr core = true → s.quadsOk core k.hdr quads = true → k.hdr.unit = 1 →
    Table.get s.ckp.ints k.ctx = none → (∀ n, s.sch.nextId ≤ n → Table.get s.run.groups n = none ∧ Table.get s.run.teams n = none) →
    let tid := s.sch.nextId
    ∃ t tm, exec (.teamDispatch kernel core quads) s = .next t ∧ Table.get t.run.teams tid = some tm ∧ tm.kernel = kernel ∧
      tm.tix = k.hdr.tix k.nextTix ∧ tm.core = core ∧ tm.groups.length = k.hdr.x1 ∧ tm.sp = [] ∧
      Table.get t.ker.kernels kernel = some { k with
        nextTix := k.nextTix + 1, st := if k.nextTix + 1 = k.hdr.teams then .running else k.st
        slot := k.slot && k.nextTix + 1 != k.hdr.teams } ∧
      t.mem.cells = s.mem.cells ∧ (∀ p ∈ s.run.groups, p ∈ t.run.groups) ∧
      ∀ j, j < k.hdr.x1 → ∃ g, t.group (tid + 1 + j) = some g ∧ g.team = tid ∧ g.gidx = j ∧ g.core = core ∧ g.quad = quads.getD j 0 ∧
        g.st = .resident ∧ g.width = k.hdr.width ∧ (∀ n, n < 6 → n < k.hdr.sregs → Sparse.get g.s n = k.vals.getD n 0) ∧
        ∀ l, l < g.width → (g.lane l).pc = k.hdr.entry ∧ (g.lane l).st = .running ∧ (g.lane l).v = [] ∧ (g.lane l).p = 0 ∧
          (g.lane l).sr ≠ 0 ∧ (g.lane l).regionPc = k.hdr.entry ∧ (g.lane l).fpst = 0 ∧ (g.lane l).h = false) ∧
  (∀ team s tm k, Table.get s.run.teams team = some tm → tm.retiring = true →
    (tm.freed = true ∨ (∀ p ∈ s.eng.transfers, p.2.team ≠ team) ∧ ∀ p ∈ s.eng.tileOps, p.2.team ≠ team) →
    s.teamQuiescing tm = false → Table.get s.ker.kernels tm.kernel = some k → k.join = none →
    ∃ t : State, exec (.teamRetire team) s = .next t ∧ Table.get t.run.teams team = none ∧ t.mem = s.mem ∧ t.run.groups = s.run.groups ∧
      Table.get t.ker.kernels tm.kernel = some { k with
        live := k.live - 1, est := (tm.cycles + 63) / 64, st := if k.live = 1 ∧ k.st = .running then .flushing else k.st }) ∧
  (∀ team s tm k j tr, Table.get s.run.teams team = some tm → tm.retiring = true →
    (tm.freed = true ∨ (∀ p ∈ s.eng.transfers, p.2.team ≠ team) ∧ ∀ p ∈ s.eng.tileOps, p.2.team ≠ team) →
    s.teamQuiescing tm = false → s.teamQuiet team = true → Table.get s.ker.kernels tm.kernel = some k → k.join = some j →
    Table.get s.ckp.ints k.ctx = none → s.overdue k.ctx j team = false → s.translate k.ctx .atomic j = .ok tr → tr.cls ≠ 1 →
    s.engineWrite k.ctx j 1 (some team) = .ok tr → s.engineWrite k.ctx j 32 = .ok tr → inAperture (tr.key j) = false → s.mem.views = [] →
    s.mem.wf = true →
    ∃ t : State, exec (.teamRetire team) s = .next t ∧ Table.get t.run.teams team = none ∧ t.run.groups = s.run.groups ∧
      leNat (t.mem.bytes (tr.key j) 8) = (leNat (s.mem.bytes (tr.key j) 8) + 1) % 2 ^ 64 ∧
      Table.get t.ker.kernels tm.kernel = some { k with
        live := k.live - 1, est := (tm.cycles + 63) / 64, st := if k.live = 1 ∧ k.st = .running then .flushing else k.st }) ∧
  (∀ team s tm, Table.get s.run.teams team = some tm → tm.retiring = false → exec (.teamRetire team) s = .next s) ∧
  (∀ kernel s k, Table.get s.ker.kernels kernel = some k → k.st = .flushing → (s.run.accs.any fun p => p.2.kernel == kernel) = false →
    (s.eng.streams.any fun p => p.2.kernel == kernel && p.2.chan.isNone) = false →
    (s.ker.records.any fun p => p.kernel == kernel) = false → s.quiescing k.ctx = false → k.launch = none →
    ∃ t : State, exec (.kernelFlushComplete kernel) s = .next t ∧ Table.get t.ker.kernels kernel = none ∧ t.mem.cells = s.mem.cells ∧
      t.run = s.run ∧ ∀ x ∈ t.mem.roCopies, x.kernel ≠ kernel) ∧
  (∀ kernel s k l tr, Table.get s.ker.kernels kernel = some k → k.st = .flushing → (s.run.accs.any fun p => p.2.kernel == kernel) = false →
    (s.eng.streams.any fun p => p.2.kernel == kernel && p.2.chan.isNone) = false →
    (s.ker.records.any fun p => p.kernel == kernel) = false → k.launch = some l → l.cpla ≠ 0 →
    Table.get s.ckp.ints k.ctx = none → s.overdue k.ctx l.cpla kernel = false → s.translate k.ctx .atomic l.cpla = .ok tr → tr.cls ≠ 1 →
    s.engineWrite k.ctx l.cpla 1 (some kernel) = .ok tr → s.engineWrite k.ctx l.cpla 32 = .ok tr →
    inAperture (tr.key l.cpla) = false →
    s.mem.views = [] → s.mem.wf = true →
    ∃ t : State, exec (.kernelFlushComplete kernel) s = .next t ∧ Table.get t.ker.kernels kernel = none ∧
      leNat (t.mem.bytes (tr.key l.cpla) 8) = (leNat (s.mem.bytes (tr.key l.cpla) 8) + l.cpln.toNat) % 2 ^ 64) ∧
  (∀ host ctx bytes s c, let hdr : DWord := BitVec.ofNat 64 (bytesField bytes 0 8)
    let join : DWord := BitVec.ofNat 64 (bytesField bytes 56 8)
    Table.get s.ctx.contexts ctx = some c → c.st ≠ .building → c.st ≠ .tornDown → bytes.length = 64 → hdr.toNat % 128 = 0 →
    join.toNat % 16 = 0 →
    (s.spawnSlots c.record.part < 256 →
      ∃ t : State, exec (.spawnWrite host ctx 0 bytes) s = .next t ∧ { t with sch := s.sch, ker := s.ker } = s ∧
        Table.get t.ker.kernels s.sch.nextId = some ⟨ctx, c.record.part, hdr, headerOf hdr [],
          (List.range 6).map fun j => BitVec.ofNat 64 (bytesField bytes (8 + 8 * j) 8), if join = 0 then none else some join, .accepted, 0, 0,
          true, none, 0, none, none, none, none⟩) ∧
    (256 ≤ s.spawnSlots c.record.part → exec (.spawnWrite host ctx 0 bytes) s =
      .next { s with sch := { s.sch with held := s.sch.held ++ [.row (.spawnWrite host ctx 0 bytes)] } }))) ∧
  (∀ part measured s, ∃ t e, exec (.energyCorrection part measured) s = .next t ∧ { t with sch := s.sch } = { s with ker := { s.ker with
      energy := Table.set s.ker.energy part e } } ∧
    let sum := (s.residentEnergy part).sum
    let d := s.energyOf part
    e.measured = measured ∧ t.overdrawn part = decide (256 * s.allowanceOf part < e.pidle + measured) ∧
    (sum = 0 → e.cNum = d.cNum ∧ e.cDen = d.cDen) ∧
    (sum ≠ 0 → 0 < e.cDen ∧ e.cDen ≤ 4 * e.cNum ∧ e.cNum ≤ 4 * e.cDen) ∧
    (sum ≠ 0 → sum ≤ 4 * measured → measured ≤ 4 * sum → e.cNum * sum = measured * e.cDen))

/-! ### Contexts -/

/-- R298 to R302: CREATE copies a record of an enabled partition for a host with privilege; START makes the creator the guardian; ADDG and
HANDOVER give guardians; a command that the state, the standing or the operand forbids changes nothing but its status. -/
def Obligations.ContextCommands : Prop :=
  (∀ host ctx s, CanCommand s host → ctx < 4096 → s.context ctx = none → (s.page host).arg.toNat % 1024 = 0 →
    s.present (s.page host).arg.toNat 1024 = true →
    let r := recordOf (s.load (s.page host).arg.toNat 1024)
    r.part < 12 → s.partEnabled r.part = true → s.privileged host r.part = true →
    ∃ t c, exec (.create host ctx) s = .next t ∧ (t.page host).stat = 0 ∧ t.context ctx = some c ∧ c.record = r ∧ c.creator = host ∧
      c.st = .building ∧ c.guardians = [] ∧ t.run = s.run ∧ t.mem = s.mem ∧ t.ker = s.ker ∧ ∀ n, n ≠ ctx → t.context n = s.context n) ∧
  (∀ host ctx s, CanCommand s host → (s.page host).arg.toNat % 1024 = 0 → s.present (s.page host).arg.toNat 1024 = true →
    ((s.context ctx).isSome = true ∨ s.partEnabled (recordOf (s.load (s.page host).arg.toNat 1024)).part = false) →
    ∃ t, exec (.create host ctx) s = .next t ∧ OnlyStatus s t host 1) ∧
  (∀ host ctx s, CanCommand s host → (s.page host).arg.toNat % 1024 ≠ 0 →
    ∃ t, exec (.create host ctx) s = .next t ∧ OnlyStatus s t host 6) ∧
  (∀ host ctx s c, CanCommand s host → s.context ctx = some c → c.st = .building → c.creator = host →
    s.startable ctx c.record = true →
    ∃ t, exec (.start host ctx) s = .next t ∧ (t.page host).stat = 0 ∧
      t.context ctx = some { c with st := .guarded, guardians := [⟨host, 0⟩] } ∧ t.run = s.run ∧ t.mem = s.mem ∧ t.ker = s.ker) ∧
  (∀ host ctx s c, CanCommand s host → s.context ctx = some c → c.st = .building → c.creator = host →
    s.startable ctx c.record = false → ∃ t, exec (.start host ctx) s = .next t ∧ OnlyStatus s t host 6) ∧
  (∀ host ctx s c, CanCommand s host → s.context ctx = some c → c.st ≠ .tornDown → c.guards host = true →
    (c.st = .guarded ∨ c.st = .shared) → s.attached (s.page host).named = true → c.guards (s.page host).named = false →
    c.guardians.length < 3 →
    ∃ t, exec (.addg host ctx) s = .next t ∧ (t.page host).stat = 0 ∧
      t.context ctx = some { c with st := .shared, guardians := c.guardians ++ [⟨(s.page host).named, 0⟩] } ∧ t.run = s.run ∧
      t.mem = s.mem) ∧
  (∀ host ctx s c, CanCommand s host → s.context ctx = some c → (c.st = .guarded ∨ c.st = .shared) → c.guards host = true →
    s.attached (s.page host).named = true → c.guards (s.page host).named = false → 3 ≤ c.guardians.length →
    ∃ t, exec (.addg host ctx) s = .next t ∧ OnlyStatus s t host 5) ∧
  (∀ host ctx s c, CanCommand s host → s.context ctx = some c → c.st = .guarded → c.guards host = true →
    s.attached (s.page host).named = true → c.guards (s.page host).named = false → c.events = [] →
    ∃ t, exec (.handover host ctx) s = .next t ∧ (t.page host).stat = 0 ∧
      t.context ctx = some { c with guardians := [⟨(s.page host).named, 0⟩] } ∧ t.run = s.run ∧ t.mem = s.mem) ∧
  (∀ host ctx s c ins, CanCommand s host → s.context ctx = some c → c.st ≠ .tornDown → c.guards host = false →
    ins ∈ [Instr.addg host ctx, .handover host ctx, .release host ctx, .suspend host ctx, .resume host ctx,
      .resumeg host ctx, .evvec host ctx] → ∃ t, exec ins s = .next t ∧ OnlyStatus s t host 2) ∧
  (∀ host ctx s c, let s1 := s.limitsFirst ctx
    CanCommand s1 host → s1.context ctx = some c → c.st ≠ .tornDown → c.guards host = false →
    ∃ t, exec (.renew host ctx) s = .next t ∧ OnlyStatus s1 t host 2) ∧
  (∀ host ctx s ins, CanCommand s host → s.context ctx = none →
    ins ∈ [Instr.start host ctx, .renew host ctx, .addg host ctx, .handover host ctx, .release host ctx, .suspend host ctx, .resume host ctx,
      .resumeg host ctx, .teardown host ctx, .nonce host ctx, .inval host ctx, .evvec host ctx] →
    ∃ t, exec ins s = .next t ∧ OnlyStatus s t host 1)

/-- R301, R302, R305, R307, R306, R309: a guardian that releases or whose lease runs out leaves, and its departure leaves the context SHARED,
GUARDED or ORPHANED by the number that remain; an adoption that passes the checks makes the host the guardian, and any ADOPT of a context in
use draws a new nonce; a lease or an orphan limit that has run out is applied before either; an orphan whose limit comes, and a context that
is torn down, loses all its work; its number is free once its performed accesses have ended. SUSPEND stops a running context and its queues;
the suspension is complete when every team is saved and the streamers' work stands at a boundary; RESUME takes them up again, and a group
marked meanwhile that was not saved goes on. RESUMEG sends a parked group's lanes on, to a PC or where they stand, at once in a running
context, and in a suspended one when it is restored. -/
def Obligations.ContextLives : Prop :=
  (let after (n : Nat) : CtxState := match n with | 0 => .orphaned | 1 => .guarded | _ => .shared
  let leaves (t : State) (ctx host : Nat) (c : Context) : Prop := ∃ d, t.context ctx = some d ∧
    d.guardians = (c.guardians.filter fun g => g.host != host) ∧
    d.st = (if c.st = .suspended then .suspended else after d.guardians.length) ∧ d.record = c.record ∧ (d.guardians = [] → d.orphan = 0)
  let gone (s t : State) (ctx : Nat) : Prop := (∃ d, t.context ctx = some d ∧ d.st = .tornDown ∧ d.guardians = [] ∧ d.tearing = true) ∧
    (∀ p ∈ t.run.groups, p ∈ s.run.groups ∧ s.ctxOf p.2 ≠ ctx) ∧ (∀ p ∈ t.run.accs, p.2.ctx = ctx → p.2.st = .performed) ∧
    (∀ p ∈ t.ker.kernels, p.2.ctx ≠ ctx) ∧ (∀ p ∈ t.ker.queues, p.2.ctx = ctx → p.2.st = .disabled ∧ p.2.rd = p.2.wr) ∧
    (∀ p ∈ t.eng.transfers, p.2.ctx ≠ ctx) ∧ (∀ e ∈ t.mem.tlb, e.ctx ≠ ctx)
  (∀ host ctx s c, CanCommand s host → s.context ctx = some c → c.st ≠ .tornDown → c.guards host = true →
    ∃ t, exec (.release host ctx) s = .next t ∧ (t.page host).stat = 0 ∧ leaves t ctx host c ∧ t.run.groups = s.run.groups ∧
      t.ker = (s.askAgain ctx).ker) ∧
  (∀ ctx host s c, s.context ctx = some c → (∃ g ∈ c.guardians, g.host = host ∧ c.record.leaseNs ≤ g.age) →
    ∃ t, exec (.leaseExpiry ctx host) s = .next t ∧ leaves t ctx host c ∧ t.run.groups = s.run.groups ∧ t.ker = (s.askAgain ctx).ker) ∧
  (∀ ctx host s c, s.context ctx = some c → (∀ g ∈ c.guardians, g.host = host → g.age < c.record.leaseNs) →
    exec (.leaseExpiry ctx host) s = .next s) ∧
  (∀ ctx (s : State), (∀ c, s.context ctx = some c → (∀ g ∈ c.guardians, g.age < c.record.leaseNs) ∧
      ∀ n, c.record.limitNs = some n → c.orphan < n) → s.limitsFirst ctx = s) ∧
  (∀ host ctx s0 c, let s := s0.limitsFirst ctx
    CanCommand s host → s.context ctx = some c → c.st ≠ .tornDown → c.events = [] → adoptCheck host ctx (s.page host) c = 0 →
    ∃ t d, exec (.adopt host ctx) s0 = .next t ∧ (t.page host).stat = 0 ∧ t.context ctx = some d ∧ d.guardians = [⟨host, 0⟩] ∧
      d.st = (if c.st = .orphaned then .guarded else c.st) ∧ d.orphan = 0 ∧ d.nonce = Config.adoptionNonce s.sch.free ∧ t.run = s.run) ∧
  (∀ host ctx s0 c, let s := s0.limitsFirst ctx
    CanCommand s host → s.context ctx = some c → adoptCheck host ctx (s.page host) c ≠ 0 →
    ∃ t, exec (.adopt host ctx) s0 = .next t ∧
      (t.page host).stat = BitVec.ofNat 64 (adoptCheck host ctx (s.page host) c) ∧
      t.context ctx = some { c with nonce := Config.adoptionNonce s.sch.free } ∧ t.sys.glenSeq = s.sys.glenSeq + 1 ∧ t.run = s.run) ∧
  (∀ host ctx s, CanCommand s host → s.context ctx = none →
    ∃ t, exec (.adopt host ctx) s = .next t ∧ (t.page host).stat = (if adoptMessageOk ctx (s.page host).msg then 1 else 6) ∧
      t.sys.glenSeq = s.sys.glenSeq + 1 ∧ { t with ctx := s.ctx, sys := s.sys } = s) ∧
  (∀ host ctx s c, CanCommand s host → s.context ctx = some c → c.st ≠ .tornDown →
    (c.guards host = true ∨ s.privileged host c.record.part = true) →
    ∃ t, exec (.teardown host ctx) s = .next t ∧ (t.page host).stat = 0 ∧ gone s t ctx) ∧
  (∀ ctx s c n, s.context ctx = some c → c.record.limitNs = some n → n ≤ c.orphan →
    (c.st = .orphaned ∨ (c.st = .suspended ∧ c.guardians = [])) → ∃ t, exec (.orphanLimit ctx) s = .next t ∧ gone s t ctx) ∧
  (∀ ctx s c n, s.context ctx = some c → c.record.limitNs = some n → c.orphan < n → exec (.orphanLimit ctx) s = .next s) ∧
  (∀ ctx s c, s.context ctx = some c → c.tearing = true → (∀ p ∈ s.run.accs, p.2.ctx ≠ ctx) →
    ∃ t : State, exec (.teardownComplete ctx) s = .next t ∧ t.context ctx = none ∧ { t with ctx := s.ctx } = s) ∧
  (∀ ctx s c, s.context ctx = some c → c.tearing = true → (∃ p ∈ s.run.accs, p.2.ctx = ctx) →
    exec (.teardownComplete ctx) s = .next s)) ∧
  ((∀ host ctx s c, CanCommand s host → s.context ctx = some c → c.guards host = true → (c.st = .guarded ∨ c.st = .shared) →
    ∃ t, exec (.suspend host ctx) s = .next t ∧ (t.page host).stat = 0 ∧
      t.context ctx = some { c with st := .suspended, suspending := true } ∧ t.run = s.run ∧ t.mem = s.mem ∧
      t.ker.queues = s.ker.queues.map fun p => (p.1, if p.2.ctx = ctx ∧ (p.2.st = .active ∨ p.2.st = .waiting ∨ p.2.st = .overrun)
        then { p.2 with prior := p.2.st, st := .suspended, asked := false } else p.2)) ∧
  (∀ ctx s c, s.context ctx = some c → c.suspending = true → s.allSaved ctx = true → s.streamsAtBoundary ctx = true →
    exec (.suspensionComplete ctx) s = .next ((s.saveStreams ctx).setContext ctx { c with suspending := false })) ∧
  (∀ ctx s c, s.context ctx = some c → s.allSaved ctx = false ∨ s.streamsAtBoundary ctx = false →
    exec (.suspensionComplete ctx) s = .next s) ∧
  (∀ host ctx s c, CanCommand s host → s.context ctx = some c → c.guards host = true → c.st = .suspended →
    (∀ p ∈ s.ker.queues, p.2.ctx = ctx → p.2.st ≠ .suspended) →
    let st : CtxState := if c.guardians.length = 1 then .guarded else .shared
    (c.marked = [] → ∃ t, exec (.resume host ctx) s = .next t ∧ (t.page host).stat = 0 ∧
      t.context ctx = some { c with st := st, suspending := false } ∧ t.run.groups = s.run.groups ∧ t.mem = s.mem) ∧
    (∀ gid pc g, c.marked = [(gid, pc)] → s.group gid = some g → g.st = .parked →
      ∃ t u, exec (.resume host ctx) s = .next t ∧ (t.page host).stat = 0 ∧
        t.context ctx = some { c with st := st, suspending := false, marked := [] } ∧ t.group gid = some u ∧ u.st = .resident ∧
        t.mem = s.mem)) ∧
  (∀ host ctx s c gid g k, CanCommand s host → s.context ctx = some c → c.guards host = true → (c.st = .guarded ∨ c.st = .shared) →
    s.group gid = some g → s.ctxOf g = ctx → g.st = .parked → s.wid g 0 = (s.page host).arg →
    (∀ p ∈ s.run.groups, s.ctxOf p.2 = ctx → s.wid p.2 0 = (s.page host).arg → p = (gid, g)) →
    k < g.width → (g.lane k).st = .parked → (g.lane k).meet = 0 →
    ∃ t u, exec (.resumeg host ctx) s = .next t ∧ (t.page host).stat = 0 ∧ t.group gid = some u ∧ u.st = .resident ∧
      u.debugParked = false ∧ (u.lane k).st = .running ∧
      (u.lane k).pc = (if (s.page host).arg2 = 0 then (g.lane k).pc else (s.page host).arg2) ∧ (u.lane k).data =
        { (g.lane k).data with reenter := (g.lane k).reenter && (s.page host).arg2 == 0 } ∧ t.mem = s.mem) ∧
  (∀ host ctx s c gid g, CanCommand s host → s.context ctx = some c → c.guards host = true → c.st = .suspended →
    s.group gid = some g → s.ctxOf g = ctx → g.st = .saved true → s.wid g 0 = (s.page host).arg →
    (∀ p ∈ s.run.groups, s.ctxOf p.2 = ctx → s.wid p.2 0 = (s.page host).arg → p = (gid, g)) →
    ∃ t, exec (.resumeg host ctx) s = .next t ∧ (t.page host).stat = 0 ∧
      t.context ctx = some { c with marked := Table.set c.marked gid (s.page host).arg2 } ∧ t.run = s.run ∧ t.mem = s.mem))

/-- R213, R300, R301, R305, R422, R424: RENEW restarts the lease of its host alone, unless it has run out; NONCE shows the nonce; INVAL posts an
invalidation; EVRING sets the ring and empties it; EVVEC sets a vector; a write to the ring's head makes room. -/
def Obligations.GuardianCommands : Prop :=
  (∀ host ctx s0 c, let s := s0.limitsFirst ctx
    CanCommand s host → s.context ctx = some c → c.st ≠ .tornDown → c.guards host = true →
    ∃ t, exec (.renew host ctx) s0 = .next t ∧ (t.page host).stat = 0 ∧ t.run = s.run ∧ t.mem = s.mem ∧
      t.context ctx = some { c with guardians := c.guardians.map fun g => if g.host = host then { g with age := 0 } else g }) ∧
  (∀ host ctx s c, CanCommand s host → s.context ctx = some c → c.st ≠ .tornDown →
    ∃ t, exec (.nonce host ctx) s = .next t ∧ t = s.setPage host { s.page host with nonce := c.nonce, stat := 0 }) ∧
  (∀ host ctx s c, let p := s.page host
    CanCommand s host → s.context ctx = some c → c.st ≠ .tornDown →
    (c.guards host = true ∨ s.privileged host c.record.part = true) → p.invVa.toNat % 65536 = 0 → p.invLen.toNat % 65536 = 0 →
    p.invCtr.toNat / 2 % 4 = 0 → (p.invCtr.toNat % 2 = 1 ∨ s.rangeOk c.record.part (p.invCtr.toNat / 8 * 8) 8 false = true) →
    (s.mem.invals.filter fun v => v.2.part == c.record.part).length < 64 →
    ∃ t v, exec (.inval host ctx) s = .next t ∧ (t.page host).stat = 0 ∧ t.mem.invals = s.mem.invals ++ [(s.sch.nextId, v)] ∧
      v.ctx = ctx ∧ v.base = p.invVa ∧ v.len = p.invLen ∧
      v.ctr = some (if p.invCtr.toNat % 2 = 1 then hostKey host (p.invCtr.toNat / 8 * 8) else p.invCtr.toNat / 8 * 8) ∧
      t.mem.cells = s.mem.cells ∧ t.run = s.run) ∧
  (∀ host ctx s c, CanCommand s host → s.context ctx = some c → c.st ≠ .tornDown → c.guards host = true →
    (s.page host).invVa.toNat % 65536 ≠ 0 → ∃ t, exec (.inval host ctx) s = .next t ∧ OnlyStatus s t host 6) ∧
  (∀ host ctx s, CanCommand s host → 6 ≤ field (s.page host).arg 4 0 → field (s.page host).arg 4 0 ≤ 16 →
    ((s.page host).arg &&& ~~~0xFFF#64).toNat % (64 * 2 ^ field (s.page host).arg 4 0) = 0 → (∀ p ∈ s.ctx.contexts, p.2.events = []) →
    ∃ t, exec (.evring host ctx) s = .next t ∧ (t.page host).stat = 0 ∧ (t.page host).evBase = ((s.page host).arg &&& ~~~0xFFF#64) ∧
      (t.page host).evLog = field (s.page host).arg 4 0 ∧ (t.page host).evHead = 0 ∧ (t.page host).evTail = 0 ∧ t.mem = s.mem) ∧
  (∀ host ctx s, CanCommand s host → (field (s.page host).arg 4 0 < 6 ∨ 16 < field (s.page host).arg 4 0) →
    ∃ t, exec (.evring host ctx) s = .next t ∧ OnlyStatus s t host 6) ∧
  (∀ host ctx s c, CanCommand s host → s.context ctx = some c → c.st ≠ .tornDown → c.guards host = true →
    (s.page host).arg.toNat ≤ 2047 →
    ∃ t, exec (.evvec host ctx) s = .next t ∧ (t.page host).stat = 0 ∧ t.run = s.run ∧ t.mem = s.mem ∧
      t.context ctx = some { c with vecs := Table.set c.vecs host (s.page host).arg.toNat }) ∧
  (∀ host v s, s.attached host = true → (∀ p ∈ s.ctx.contexts, p.2.events = []) →
    ∃ t : State, exec (.eventRingHeadWrite host v) s = .next t ∧ t.page host = { s.page host with evHead := v } ∧
      { t with ctx := s.ctx } = s) ∧
  (∀ host v s, s.attached host = false → exec (.eventRingHeadWrite host v) s = .next s)

/-- R143, R239, R262, R306, R327, R349: a team with nothing outstanding, a retiring one with work of the engines left too, is saved: its groups
keep their lanes, and each save header stands in the pool; a team with work outstanding issues no more. A saved team is seated on its core,
and a group in transit on the core where it lands: its lanes hold what they held. -/
def Obligations.SaveAndRestore : Prop :=
  (∀ team s tm k c, Table.get s.run.teams team = some tm → Table.get s.ker.kernels tm.kernel = some k → s.context k.ctx = some c →
    tm.saved = false → s.workless team tm = false → s.teamSettled team tm = true → tm.groups.Nodup →
    ∃ t, exec (.teamPreempt team) s = .next t ∧ Table.get t.run.teams team = some { tm with saved := true, stopping := false, regs := [] } ∧
      ∀ gid ∈ tm.groups, ∀ g, s.group gid = some g → ∃ u, t.group gid = some u ∧ u.st = .saved (g.st == .parked) ∧ u.lanes = g.lanes ∧
        u.s = g.s ∧ u.bundles = [] ∧ u.flags.getLsbD 0 = true ∧ ∃ hd n, Table.get t.ctx.headers gid = some hd ∧
        { hd with team := 0 } = { s.saveHeader c.record g with team := 0 } ∧ Table.get t.ctx.slots g.team = some n ∧
        hd.team = BitVec.ofNat 64 (64 * n)) ∧
  (∀ team s tm k, Table.get s.run.teams team = some tm → Table.get s.ker.kernels tm.kernel = some k → tm.saved = false →
    s.workless team tm = false → s.teamSettled team tm = false →
    exec (.teamPreempt team) s = .next (s.setTeam team { tm with stopping := true })) ∧
  (∀ team core quads s tm k gid g, Table.get s.run.teams team = some tm → Table.get s.ker.kernels tm.kernel = some k →
    tm.saved = true → s.dispatches k.ctx = true → core / 4 ∈ s.clusters k.part →
    1 ≤ s.teamRoom core { k.hdr with xs := tm.groups.length :: k.hdr.xs.drop 1 } →
    s.quadsOk core { k.hdr with xs := tm.groups.length :: k.hdr.xs.drop 1 } quads = true → tm.groups = [gid] → s.group gid = some g →
    g.st = .saved false → (∀ l ∈ g.lanes, l.st = .running ∧ l.meet = 0 ∧ l.monitor.st ≠ .armed) → (∀ c, s.context k.ctx = some c → Table.get c.marked gid = none) →
    ∃ t u tn, exec (.teamRestore team core quads) s = .next t ∧ t.group gid = some u ∧ u.st = .resident ∧ u.core = core ∧
      u.quad = quads.getD 0 0 ∧ u.lanes = g.lanes ∧ u.s = g.s ∧ Table.get t.run.teams team = some tn ∧ tn.saved = false ∧ tn.core = core ∧
      tn.sp = tm.sp ∧ tn.tiles = tm.tiles ∧ t.mem.cells = s.mem.cells) ∧
  (∀ gid core quad s g, s.group gid = some g → g.st = .inTransit → g.core = core → g.quad = quad →
    (∀ l ∈ g.lanes, l.st = .running ∧ l.meet = 0 ∧ l.monitor.st ≠ .armed) →
    (∀ c, s.context (s.ctxOf g) = some c → Table.get c.marked gid = none) →
    ∃ t u, exec (.migrateLand gid core quad) s = .next t ∧ t.group gid = some u ∧ u.st = .resident ∧ u.core = core ∧ u.quad = quad ∧
      u.lanes = g.lanes ∧ u.s = g.s ∧ t.mem.cells = s.mem.cells ∧ ∀ x ∈ t.mem.l1, x.core = core → x.ro = true) ∧
  (∀ gid core quad s g, s.group gid = some g → g.st ≠ .inTransit → exec (.migrateLand gid core quad) s = .next s)

/-! ### Links -/

/-- R334 to R338, R344, R346, R436: commands and events of the Avryn ports. A command that the port's state does not allow leaves the port,
DARKLIM apart, and is recorded by Glen; a host without authority changes nothing. -/
def Obligations.Ports : Prop :=
  (∀ host n v s ins, s.authority host = false → ins ∈ [Instr.portTrain host n v, .portDarken host n v, .portRelock host n v,
    .portDown host n v, .fabcfgWrite host v] → exec ins s = .next s) ∧
  (∀ host n v s, let p := { s.port n with darklim := field v 31 16 }
    s.authority host = true → n < 16 →
    (∃ t, exec (.portTrain host n v) s = .next t ∧
      PortBecomes s t n (if p.st = .down then { p with st := .training, train := 0 } else p) ∧
      (p.st ≠ .down → t.sys.glenSeq = s.sys.glenSeq + 1)) ∧
    (∃ t, exec (.portDarken host n v) s = .next t ∧
      PortBecomes s t n (if p.st = .locked ∨ p.st = .degraded then { p with st := .dark, dark := 0 } else p) ∧
      (p.st = .dark → t.sys = s.sys)) ∧
    (∃ t, exec (.portRelock host n v) s = .next t ∧
      PortBecomes s t n (if p.st = .dark then { p with st := .relocking, train := 0 } else p)) ∧
    ∃ t, exec (.portDown host n v) s = .next t ∧ PortBecomes s t n { portReset with darklim := p.darklim }) ∧
  (∀ n peer lat s, n < 16 → (∀ m ∈ s.lnk.markers, m.2.port = n → m.2.sent = true) → peer < 16 → ((s.port n).st = .training ∨ (s.port n).st = .relocking) → peer ≠ s.lnk.fdev →
    ∃ t p, exec (.portTrainingDone n peer lat) s = .next t ∧ PortBecomes s t n p ∧ p.st = .locked ∧ p.peer = some peer ∧ p.lat = lat ∧
      p.darklim = (s.port n).darklim ∧
      p.alw = (if (s.port n).st = .relocking ∧ (s.port n).peer = some peer then (s.port n).alw else [128, 128, 32, 8])) ∧
  (∀ n lat s, n < 16 → s.lnk.fdev < 16 → ((s.port n).st = .training ∨ (s.port n).st = .relocking) →
    ∃ t, exec (.portTrainingDone n s.lnk.fdev lat) s = .next t ∧
      PortBecomes s t n { portReset with darklim := (s.port n).darklim }) ∧
  (∀ n s, n < 16 → ((s.port n).st = .training ∨ (s.port n).st = .relocking) →
    ∃ t, exec (.portTrainingFailed n) s = .next t ∧ PortBecomes s t n { portReset with darklim := (s.port n).darklim }) ∧
  (∀ n s, n < 16 → ((s.port n).st = .locked ∨ (s.port n).st = .degraded) →
    (∃ t, exec (.portFrameFail n) s = .next t ∧ PortBecomes s t n { s.port n with st := .relocking, train := 0 }) ∧
    (∃ t, exec (.darkenFlit n) s = .next t ∧ PortBecomes s t n { s.port n with st := .dark, dark := 0 }) ∧
    ∀ count, ∃ t, exec (.portFrameReplay n count) s = .next t ∧ PortBecomes s t n
      { s.port n with repl := (s.port n).repl + count, replays := (0, count) :: (s.port n).replays }) ∧
  (∀ n lost s, n < 16 → (s.port n).st = .locked →
    ∃ t, exec (.portDegrade n lost) s = .next t ∧ PortBecomes s t n (if lost = true ∨ 64 < (s.port n).repl then
      { s.port n with st := .degraded, laneLost := lost, clean := 0 } else s.port n)) ∧
  (∀ n s, n < 16 → (s.port n).st = .degraded →
    ∃ t, exec (.portRecover n) s = .next t ∧ PortBecomes s t n (if (s.port n).laneLost = false ∧ 100000000 ≤ (s.port n).clean then
      { s.port n with st := .locked } else s.port n)) ∧
  (∀ n s, n < 16 → (s.port n).st = .dark →
    ∃ t, exec (.darkLimit n) s = .next t ∧ PortBecomes s t n
      (if (if (s.port n).darklim = 0 then 1000 else (s.port n).darklim) * 1000000 ≤ (s.port n).dark then
        { portReset with darklim := (s.port n).darklim } else s.port n)) ∧
  (∀ n cls s, n < 16 → (cls = 3 → ∀ m ∈ s.lnk.markers, m.2.port = n → m.2.sent = true) → ((s.port n).st = .locked ∨ (s.port n).st = .degraded) → (s.port n).alw.getD cls 0 < [128, 128, 32, 8].getD cls 0 →
    ∃ t, exec (.allowanceReturn n cls) s = .next t ∧
      PortBecomes s t n { s.port n with alw := (s.port n).alw.modify cls (· + 1) })

/-- R20, R21, R334, R339 to R342, R347: each route that changes adds one to the domain generation, an access to a peer that has become
unreachable ends, and the loss clears VALID of %tskew; with a new member every copy of the time counter steps, together and never backwards,
and Glen records it; flows enter the set-aside queues, one of this device's once it congests its port, and leave them, such a one once it
has stayed calm for 20 µs; a reply timer of 1 ms ends an access, a load whose value the peer has read too; a marker completes when nothing
stands ahead of it. -/
def Obligations.RoutesAndFlows : Prop :=
  (∀ (l : Links) (s : State), let t := s.setLinks l
    let changed := (List.range 16).filter fun f => s.lnk.route f != l.route f
    t.lnk.generation = s.lnk.generation + BitVec.ofNat 64 changed.length ∧ t.run.groups = s.run.groups ∧ t.mem = s.mem ∧
    (∀ f, f < 16 → t.lnk.route f = l.route f) ∧
    ((∃ f ∈ changed, l.route f = .none) → t.sch.skew.getLsbD 63 = false) ∧
    ((∃ f ∈ changed, s.lnk.route f = .none) → t.sch.skew.getLsbD 63 = false ∧ t.sys.glenSeq = s.sys.glenSeq + 1 ∧
      ∀ d e, d < s.sch.clocks.length → e < s.sch.clocks.length →
        t.sch.time d = t.sch.time e ∧ (s.sch.time d).toNat ≤ (t.sch.time e).toNat) ∧
    ∀ p ∈ s.run.accs, ∀ f ∈ changed, l.route f = .none → p.2.endsWith f = true → (p.1, p.2.timeOut) ∈ t.run.accs) ∧
  (∀ host v s, s.authority host = true →
    ∃ t : State, exec (.fabcfgWrite host v) s = .next t ∧ t.lnk.fen = v.getLsbD 4 ∧ t.mem = s.mem ∧ t.run.groups = s.run.groups ∧
      t.lnk.fdev = (if (s.lnk.ports.all fun p => p.2.st == .down) = true then field v 3 0 else s.lnk.fdev) ∧
      field t.sch.skew 31 16 = (if v.getLsbD 4 then 40 else 0xFFFF) ∧
      (s.lnk.fen = false → v.getLsbD 4 = true → t.sch.skew.getLsbD 63 = false)) ∧
  (∀ dev peers s, ∃ t : State, exec (.portStateControlFlit dev peers) s = .next t ∧ Table.get t.lnk.remote dev = some peers ∧
    t.lnk.ports = s.lnk.ports ∧ t.mem = s.mem ∧ t.run.groups = s.run.groups) ∧
  (∀ port src dst die s, port < 16 → (s.lnk.flows.any fun f => f.port == port && f.src == src && f.dst == dst && f.die == die) = false →
    let q := s.setAside port
    let t0 : State := { s with lnk := { s.lnk with flows := s.lnk.flows ++ [⟨port, src, dst, die, q, 0⟩] } }
    q < 8 ∧ (∀ p, p < 8 → s.lnk.inQueue port q ≠ 0 → s.lnk.inQueue port p ≠ 0 ∧ s.asideFlits port q ≤ s.asideFlits port p) ∧
      exec (.congestionNotice port src dst die) s = .next t0 ∧
      (src = s.lnk.fdev → exec (.flowCongested port src dst die) s = .next (if s.congesting port dst die then t0 else s)) ∧
      (src ≠ s.lnk.fdev → ∃ t : State, exec (.flowCongested port src dst die) s = .next t ∧ { t with lnk := s.lnk } = s ∧
        t.lnk.flows = t0.lnk.flows)) ∧
  (∀ port src dst die s, ∃ t : State, exec (.flowReleased port src dst die) s = .next t ∧
    { t with lnk := { t.lnk with flows := s.lnk.flows } } = s ∧
    ∀ f, f ∈ t.lnk.flows ↔ f ∈ s.lnk.flows ∧
      ¬(f.port = port ∧ f.src = src ∧ f.dst = dst ∧ f.die = die ∧ (src = s.lnk.fdev → 20000 ≤ f.calm))) ∧
  (∀ id s a tr, Table.get s.run.accs id = some a → a.tr = some tr → tr.cls = 2 → a.sp = false → a.fault = none → a.st ≠ .refused → 1000000 ≤ a.waited →
    ∃ t : State, exec (.replyTimerExpiry id) s = .next t ∧ { t with run := s.run } = s ∧ t.run.groups = s.run.groups ∧
      Table.get t.run.accs id = some (if a.kind = .store then { a with st := .refused } else { a with fault := some .remoteTimeout })) ∧
  (∀ id s a, Table.get s.run.accs id = some a → a.waited < 1000000 → exec (.replyTimerExpiry id) s = .next s) ∧
  (∀ id s m, Table.get s.lnk.markers id = some m → s.markerDone m = true → exec (.drainMarkerComplete id) s =
    .next { s with lnk := { s.lnk with markers := Table.set s.lnk.markers id { m with done := true } } }) ∧
  (∀ id s m, Table.get s.lnk.markers id = some m → s.markerDone m = false → exec (.drainMarkerComplete id) s = .next s)

/-! ### Sumac -/

/-- R356, R366 to R371, while the context keeps no log: DSEND to the own device of a range in class deferred or held, when the receiver has
room, makes the stub and its hold entry, and the stub's number arrives later; DDROP waits while the stub is dropped; DPULL starts the pulls
of the unpulled tiles; DSTAT reads its word. A DSEND out of bounds traps, and so does a DDROP or a DPULL without a stub. -/
def Obligations.StubInstructions : Prop :=
  (∀ h d a b c e s i g k ks, s.current = some (i, g) → i.guarded g h = k :: ks → Table.get s.ckp.ints (s.ctxOf g) = none →
    let r (x : Opnd) : DWord := readOp (i.source g) ((i.source g).lane k) true x
    0 < (r b).toNat → (r b).toNat ≤ 2 ^ 36 → (r a).toNat % 4096 = 0 → (r b).toNat % 4096 = 0 →
    s.reached i.gid .dom (s.earlier i g) = true → s.liveStub (s.ctxOf g) (r a) = none →
    ¬ ((s.swRegs (s.ctxOf g)).base.toNat ≤ (r a).toNat ∧
      (r a).toNat < (s.swRegs (s.ctxOf g)).base.toNat + (s.swRegs (s.ctxOf g)).size.toNat) →
    s.sendable (s.ctxOf g) (r a) (r b).toNat = true → field (r c) 35 32 = s.lnk.fdev → s.sum.holds.length < 65536 →
    (s.touchRange (s.ctxOf g) (r a) (r b).toNat).receiveCode ((r c).setWidth 32) (r b) (r a) = 0 →
    let es := i.effects g h fun _ _ _ => ({ regs := [(d, true, BitVec.ofNat 64 (s.lnk.fdev * 2 ^ 16 + s.freeStub))] } : Eff)
    ∃ s1 t : State, exec (.dsend h d a b c e) s = .next { t with run := { t.run with
        pend := Table.set t.run.pend s1.sch.nextId (waitingResults i.gid es) } } ∧ s1.run = s.run ∧
      Ran { s1 with sch := { s1.sch with nextId := s1.sch.nextId + 1 } } t i g (es.map fun p => (p.1, p.2.awaited s1.sch.nextId h.la.toNat)) ∧
      ∃ x y n, Table.get s1.sum.stubs s.freeStub = some x ∧ Table.get s1.sum.holds n = some y ∧ Table.get s.sum.holds n = none ∧
        x.hold = n ∧ x.ctx = ((r c).setWidth 32 : BitVec 32).toNat / 2 ^ 20 ∧ x.len = r b ∧ x.st = .active ∧ x.pulled = [] ∧
        x.va.toNat % 65536 = (r a).toNat % 65536 ∧ y.octx = s.ctxOf g ∧ y.base = r a ∧ y.len = r b ∧ y.dev = s.lnk.fdev ∧ y.stub = s.freeStub) ∧
  (∀ h d a b c e s i g k ks, s.current = some (i, g) → i.guarded g h = k :: ks →
    let len := readOp (i.source g) ((i.source g).lane k) true b
    (len = 0 ∨ 2 ^ 36 < len.toNat) →
    exec (.dsend h d a b c e) s = .next (s.takeTrap i (faultsOf (k :: ks) .resourceBound fun _ => 0))) ∧
  (∀ h a s i g k ks n x, s.current = some (i, g) → i.guarded g h = k :: ks →
    s.liveStub (s.ctxOf g) (readOp (i.source g) ((i.source g).lane k) true a) = some (n, x) →
    ∃ t u, exec (.ddrop h a) s = .next t ∧ t.group i.gid = some u ∧
      ∀ j ∈ i.guarded g h, j < g.width → (u.lane j).data = (g.lane j).data ∧ ∃ w, (u.lane j).st = .stalled w ∧ w.kind = .dropped n x.serial ∧
        w.left = none) ∧
  (∀ h (w : Bool) a b s i g k ks ins, s.current = some (i, g) → i.guarded g h = k :: ks →
    s.liveStub (s.ctxOf g) (readOp (i.source g) ((i.source g).lane k) true a) = none →
    ins ∈ [Instr.ddrop h a, .dpull h w a b] → exec ins s = .next (s.takeTrap i (faultsOf (k :: ks) .stubInvalid fun _ =>
      readOp (i.source g) ((i.source g).lane k) true a))) ∧
  (∀ h a s i g k ks n x, s.current = some (i, g) → i.guarded g h = k :: ks →
    let va := readOp (i.source g) ((i.source g).lane k) true a
    s.liveStub (s.ctxOf g) va = some (n, x) → x.st = .active → x.va.toNat + x.len.toNat ≤ 2 ^ 64 →
    ∃ t u y, exec (.dpull h false a .absent) s = .next t ∧ t.group i.gid = some u ∧ Moved i g u ∧ t.mem = s.mem ∧ s.setStub n y = { t with run := s.run } ∧
      y = { x with pulling := y.pulling } ∧
      ∀ j, x.tile va ≤ j → j < x.past → (j ∈ x.pulled ∨ j ∈ y.pulling)) ∧
  (∀ h d a, WritesLaterWhen (fun s i g => i.guarded g h ≠ [] ∧ Table.get s.ckp.ints (s.ctxOf g) = none) (.dstat h d a) h (fun s _ _ => s)
    fun s i gs _ _ => { regs := [(d, true, match s.group i.gid with
      | some g => s.stubWord (s.ctxOf g) (readOp gs (gs.lane ((i.guarded gs h).headD 0)) true a)
      | none => 0)] })

/-! ### Links -/

/-- R342, R343, R348 to R352, R17, R19 to R22, R333: DRAIN, once its group's fabric accesses are sent, answers true when its markers complete at
once, and otherwise waits, as it does before they are sent, with a limit of 0 until its nanosecond ends; MIGRATE, while the context keeps no
log, sends a lone quiet group to a free core of the die that homes the address, or answers false, and sets ACC in the entry that translates
it; LKQ reads an item. A die link that has failed three replays retrains, and after four failed trainings is DOWN, which Glen records; a
copy of the time counter never moves backwards and is corrected by 1 ns in 10,000; VALID of %tskew is cleared by a skew found, which Glen
records, and set by an alignment of all copies. -/
def Obligations.LinkInstructions : Prop :=
  ((∀ h d a b s i g k ks, s.current = some (i, g) → i.guarded g h = k :: ks → (∀ p ∈ s.lnk.markers, p.1 < s.sch.nextId) →
    let mask := readOp (i.source g) ((i.source g).lane k) true a
    let lim := if b.isAbsent then none else some (srcN32 (i.source g) ((i.source g).lane k) b)
    let ports := (List.range 16).filter fun p => mask.getLsbD p
    let clear : Prop := ∀ p ∈ ports, s.markerDone (s.marker p) = true
    let r := s.placeMarkers ports
    let stalls (t : State) (kind : WaitKind) : Prop := ∃ u : Group, t.group i.gid = some u ∧ t.mem = s.mem ∧ u.width = g.width ∧
      ∀ j, j < g.width → hasBit i.lanes j = true → (u.lane j).pc = (g.lane j).pc ∧ (u.lane j).data = (g.lane j).data ∧
        ∃ w, (u.lane j).st = .stalled w ∧ w.left = lim ∧ (j ∈ i.guarded g h → w.kind = kind ∧ w.result = d)
    (s.sentAll i.gid (s.earlier i g) = false → ∃ t, exec (.drain h d a b) s = .next t ∧ stalls t (.drainSend (s.earlier i g) ports)) ∧
    (s.sentAll i.gid (s.earlier i g) = true → clear → ∃ s1 t, exec (.drain h d a b) s = .next t ∧ s1.run = s.run ∧ s1.lnk = s.lnk ∧ s1.mem = s.mem ∧
      Ran s1 t i g (i.effects g h fun _ _ _ => { preds := [(d, true)] })) ∧
    (s.sentAll i.gid (s.earlier i g) = true → r.1.drained r.2 ports.length = true → ∃ t, exec (.drain h d a b) s = .next t ∧
      Ran (r.1.withdraw r.2 ports.length) t i g (i.effects g h fun _ _ _ => { preds := [(d, true)] })) ∧
    (s.sentAll i.gid (s.earlier i g) = true → r.1.drained r.2 ports.length = false → ∃ t, exec (.drain h d a b) s = .next t ∧
      stalls t (.drain s.sch.nextId ports))) ∧
  (∀ h tr d a s i g k ks kn, s.current = some (i, g) → i.guarded g h = k :: ks → s.kernelOf g = some kn → kn.hdr.x1 ≤ 1 →
    kn.hdr.scratch ≤ 64 → Table.get s.ckp.ints (s.ctxOf g) = none →
    let va := readOp (i.source g) ((i.source g).lane k) true a
    let s0 := match s.walk (s.ctxOf g) va with | .found t => if t.cls = 7 then s else (s.setAccessed t false).1 | _ => s
    let dest := s0.homeDie (s.ctxOf g) va
    let moved (t : State) (ok : Bool) : Prop := ∃ u : Group, t.group i.gid = some u ∧ u.width = g.width ∧
      (u.st = if ok then .inTransit else g.st) ∧ (ok = false → u.core = g.core) ∧
      ∀ j, j < g.width → (u.lane j).data = (g.after (i.effects g h fun _ _ _ => { preds := [(d, ok)] }) j).data ∧
        (u.lane j).pc = (if hasBit i.lanes j then succPc i.pc else (g.lane j).pc)
    (dest = none → ∃ t, exec (.migrate h tr d a) s = .next t ∧ moved t false ∧ t.mem = s0.mem) ∧
    (∀ die e, dest = some (die, e) → die = dieOf g.core → ∃ t, exec (.migrate h tr d a) s = .next t ∧ moved t false ∧ t.mem = s0.mem) ∧
    (∀ die e, dest = some (die, e) → die ≠ dieOf g.core → s0.groupQuiet i.gid g.team = true →
      (∃ c ∈ s0.coresOn kn.part die, s0.landable c kn.hdr = true) →
      ∃ t u, exec (.migrate h tr d a) s = .next t ∧ moved t true ∧ t.group i.gid = some u ∧ u.core ∈ s0.coresOn kn.part die ∧
        s0.landable u.core kn.hdr = true ∧ u.flags.getLsbD 1 = true ∧ u.bundles = [])) ∧
  (∀ h tr d a s i g k ks kn, s.current = some (i, g) → i.guarded g h = k :: ks → s.kernelOf g = some kn →
    (1 < kn.hdr.x1 ∨ 64 < kn.hdr.scratch) →
    exec (.migrate h tr d a) s = .next (s.takeTrap i (faultsOf (k :: ks) .resourceBound fun _ => 0))) ∧
  (∀ h d (n : BitVec 9) b, WritesWhen (fun s i g => Table.get s.ckp.ints (s.ctxOf g) = none ∧
      (n = 0 → indexIn (i.source g) ((i.source g).lane ((i.guarded g h).headD 0)) b ≤ 15)) (.lkq h d (.imm n) b) h
    fun s i g0 _ _ => { regs := [(d, true, s.linkItem n.toNat (indexIn g0 (g0.lane ((i.guarded g0 h).headD 0)) b))] }) ∧
  (∀ h d b s i g k ks, s.current = some (i, g) → i.guarded g h = k :: ks →
    15 < indexIn (i.source g) ((i.source g).lane k) b →
    exec (.lkq h d (.imm 0) b) s = .next (s.takeTrap i (faultsOf (k :: ks) .resourceBound fun _ => 0)))) ∧
  ((∀ link count s x, Table.get s.lnk.dieLinks link = some x → x.st = .locked → 3 ≤ count → exec (.dieFrameReplay link count) s =
    .next { s with lnk := { s.lnk with dieLinks := Table.set s.lnk.dieLinks link ⟨.retraining, 0⟩ } }) ∧
  (∀ link count s, count < 3 → exec (.dieFrameReplay link count) s = .next s) ∧
  (∀ link s x, Table.get s.lnk.dieLinks link = some x → x.st = .retraining → exec (.dieLinkTrained link) s =
    .next { s with lnk := { s.lnk with dieLinks := Table.set s.lnk.dieLinks link ⟨.locked, 0⟩ } }) ∧
  (∀ link s x, Table.get s.lnk.dieLinks link = some x → x.st = .retraining → x.fails < 3 → exec (.dieLinkTrainingFailed link) s =
    .next { s with lnk := { s.lnk with dieLinks := Table.set s.lnk.dieLinks link { x with fails := x.fails + 1 } } }) ∧
  (∀ link s x, Table.get s.lnk.dieLinks link = some x → x.st = .retraining → 3 ≤ x.fails → 8 ≤ link →
    ∃ t : State, exec (.dieLinkTrainingFailed link) s = .next t ∧ Table.get t.lnk.dieLinks link = some ⟨.down, 4⟩ ∧ t.run = s.run ∧
      t.mem = s.mem ∧ t.sys.glenSeq = s.sys.glenSeq + 1) ∧
  (∀ link s x gid g, Table.get s.lnk.dieLinks link = some x → x.st = .retraining → 3 ≤ x.fails → link < 8 → s.run.groups = [(gid, g)] →
    dieOf g.core = link → g.st = .resident →
    ∃ (t : State) (u : Group), exec (.dieLinkTrainingFailed link) s = .next t ∧ Table.get t.lnk.dieLinks link = some ⟨.down, 4⟩ ∧
      t.group gid = some u ∧ u.st = .parked ∧ ∀ k, k < g.width → k < 64 → (g.lane k).st ≠ .exited →
        (u.lane k).st = .parked ∧ (u.lane k).fcode = 0x3F) ∧
  (∀ die v s, ∃ t : State, exec (.timeAlign die v) s = .next t ∧ { t with sch := s.sch, sys := s.sys } = s ∧ (∀ d, t.sch.time d = s.sch.time d) ∧
    (die < s.sch.slews.length → (t.sch.slews.getD die ⟨0, 0⟩).left = (v.toNat : Int) - ((s.sch.time die).toNat : Int)) ∧
    t.sch.skew.setWidth 63 = s.sch.skew.setWidth 63 ∧
    t.sch.skew.getLsbD 63 = t.sch.bounded ∧
    t.sys.glenSeq = s.sys.glenSeq + (if s.sch.skew.getLsbD 63 = true ∧ t.sch.bounded = false then 1 else 0)) ∧
  (∀ (c : Sched) (dt d : Nat), let x := c.slews.getD d ⟨0, 0⟩
    let n := Nat.min x.left.natAbs ((x.run + dt) / 10000)
    d < c.clocks.length → (c.time d).toNat + 2 * dt < 2 ^ 64 → x.run < 10000 →
    (c.time d).toNat ≤ ((c.pass dt).time d).toNat ∧
    (((c.pass dt).time d).toNat : Int) = (c.time d).toNat + dt + (if 0 ≤ x.left then (n : Int) else -n) ∧
    (d < c.slews.length → ((c.pass dt).slews.getD d ⟨0, 0⟩).left = x.left - (if 0 ≤ x.left then (n : Int) else -n))) ∧
  (∀ die s, ∃ t : State, exec (.skewDetected die) s = .next t ∧ t.sch.skew.getLsbD 63 = false ∧
    t.sch.skew.setWidth 63 = s.sch.skew.setWidth 63 ∧ t.sys.glenSeq = s.sys.glenSeq + 1 ∧ t.mem = s.mem ∧ t.run = s.run))

/-! ### Sumac -/

/-- R357 to R360, R363, R364: each step of a stub completes: a stub that can be received takes its number, window and staging; a pulled tile
lands in its staging frame, and the last in the range completes the stub; every 100 ms an ACTIVE stub renews its entry, and an
acknowledgement restarts its patience; a stub whose origin is lost, or has acknowledged nothing for 1 s, becomes LOST, and the lanes that
wait for its tiles learn which will not come. SWCTL takes EN only where its checks pass. -/
def Obligations.StubSteps : Prop :=
  (∀ n tile data s x, s.stub n = some x → tile ∈ x.pulling → data.length = 4096 →
    let frame := x.frames.getD (tile / 16) 0 + 4096 * (tile % 16)
    inAperture frame = false → s.mem.views = [] → s.mem.wf = true →
    ∃ t y, exec (.tilePulled n tile data) s = .next t ∧ t.stub n = some y ∧ t.mem.bytes frame 4096 = data ∧ tile ∈ y.pulled ∧
      tile ∉ y.pulling ∧ t.run = s.run ∧ y = { x with pulled := y.pulled, pulling := y.pulling, st := y.st } ∧
      (x.st = .active → (∀ k, x.first ≤ k → k < x.past → k ∈ y.pulled) → y.st = .complete) ∧
      (x.st ≠ .active ∨ (∃ k, x.first ≤ k ∧ k < x.past ∧ k ∉ y.pulled) → y.st = x.st)) ∧
  (∀ n s x, s.stub n = some x → x.st = .active → 100000000 ≤ x.renew → s.local x.origin = true →
    exec (.holdRenewal n) s = .next ((s.setStub n { x with renew := 0 }).message (.renewalReachesOrigin x.hold))) ∧
  (∀ n s x, s.stub n = some x → exec (.renewalAcknowledgement n) s = .next (s.setStub n { x with quiet := 0 })) ∧
  (∀ n s x ins, s.stub n = some x → x.st = .active →
    (ins = Instr.lostMessage n ∨ (ins = Instr.renewalTimeout n ∧ 1000000000 ≤ x.quiet)) →
    ∃ t : State, exec ins s = .next t ∧ t.stub n = some { x with st := .lost, pulling := [] } ∧ t.mem = s.mem ∧
      ∀ gid g, s.group gid = some g → ∃ u, t.group gid = some u ∧ { u with lanes := g.lanes } = g ∧
        ∀ k, (u.lane k).data = (g.lane k).data ∧ (u.lane k).pc = (g.lane k).pc ∧
          ∀ w lo hi, (g.lane k).st = .stalled w → w.kind = .pulled n x.serial lo hi none →
            (u.lane k).st = .stalled { w with kind := .pulled n x.serial lo hi (x.missing lo hi) }) ∧
  (∀ handle len tag origin sender octx base hold s, s.receiveCode handle len base = 0 → 0 < len.toNat → len.toNat ≤ 2 ^ 36 →
    len.toNat % 4096 = 0 → base.toNat % 4096 = 0 →
    ∃ t x, exec (.stubReceipt handle len tag origin sender octx base hold) s = .next t ∧ t.stub s.freeStub = some x ∧
      x.ctx = handle.toNat / 2 ^ 20 ∧ x.len = len ∧ x.origin = origin ∧ x.octx = octx ∧ x.obase = base ∧ x.hold = hold ∧ x.st = .active ∧
      x.pulled = [] ∧ x.va.toNat % 65536 = base.toNat % 65536 ∧ t.run = s.run) ∧
  (∀ host ctx ctl s c, s.context ctx = some c → (c.st = .tornDown ∨ s.privileged host c.record.part = false) →
    exec (.sumacEnable host ctx ctl) s = .next s) ∧
  (∀ host ctx ctl s c, let r := s.swRegs ctx
    s.context ctx = some c → (c.st = .building ∨ c.st = .guarded ∨ c.st = .shared) → s.privileged host c.record.part = true →
    r.ctl.getLsbD 0 = false → ctl.getLsbD 0 = true →
    ∃ (t : State) (x : SwRegs), exec (.sumacEnable host ctx ctl) s = .next t ∧ t.swRegs ctx = x ∧ t.run = s.run ∧ t.mem = s.mem ∧
      (x.ctl.getLsbD 0 = true ↔ 4 ≤ field ctl 7 4 ∧ field ctl 7 4 ≤ 12 ∧ r.base.toNat % 65536 = 0 ∧ r.size.toNat % 65536 = 0 ∧
        r.size.toNat ≤ 2 ^ 46 ∧ r.inbox.toNat % (64 * 2 ^ field ctl 7 4) = 0 ∧ r.stage.toNat % 65536 = 0 ∧ r.stageSz.toNat % 65536 = 0 ∧
        s.rangeOk c.record.part r.stage.toNat r.stageSz.toNat true = true) ∧
      (x.ctl.getLsbD 0 = false → t.sys.glenSeq = s.sys.glenSeq + 1))

/-- R360 to R362, R364, R366, R405: each step of the origin completes: a pull is answered with the tile, or LOST where the range no longer
translates; a renewal restarts the lease and is acknowledged; a lease of 1 s, a drop, or a completion clears its entry; a granted request
adds an entry, and another is answered LOST; a write held past HOLDLIM faults PAGE_HELD; 1 s after a restore the pages that it kept held
keep only what has been granted. -/
def Obligations.HoldSteps : Prop :=
  (∀ hold tile s h b, Table.get s.sum.holds hold = some h → s.local h.dev = true →
    s.vload h.octx (BitVec.ofNat 64 (h.base.toNat / 65536 * 65536 + 4096 * tile)) 4096 = .ok b →
    exec (.pullServe hold tile) s = .next { s with sch := { s.sch with agenda := s.sch.agenda ++ [.tilePulled h.stub tile b] } }) ∧
  (∀ hold tile s h e, Table.get s.sum.holds hold = some h → s.local h.dev = true →
    s.vload h.octx (BitVec.ofNat 64 (h.base.toNat / 65536 * 65536 + 4096 * tile)) 4096 = .error e →
    exec (.pullServe hold tile) s = .next { s with sch := { s.sch with agenda := s.sch.agenda ++ [.lostMessage h.stub] } }) ∧
  (∀ hold s h, Table.get s.sum.holds hold = some h → h.age < 1000000000 → s.local h.dev = true → exec (.renewalReachesOrigin hold) s =
    .next ({ s with sum := { s.sum with holds := Table.set s.sum.holds hold { h with age := 0 } } }.message (.renewalAcknowledgement h.stub))) ∧
  (∀ hold s h ins, Table.get s.sum.holds hold = some h →
    ((ins = Instr.holdExpiry hold ∧ 1000000000 ≤ h.age) ∨ ins ∈ [Instr.dropMessage hold, .stubCompletionMessage hold]) →
    ∃ t : State, exec ins s = .next t ∧ Table.get t.sum.holds hold = none ∧ (∀ m, m ≠ hold → Table.get t.sum.holds m = Table.get s.sum.holds m) ∧
      t.run = s.run ∧ t.sum.stubs = s.sum.stubs) ∧
  (∀ hold s h, Table.get s.sum.holds hold = some h → h.age < 1000000000 → exec (.holdExpiry hold) s = .next s) ∧
  (∀ octx base len dev stub restored s, s.sendable octx base len.toNat = true → s.sum.holds.length < 65536 → 0 < len.toNat →
    ∃ (t : State) (n : Nat), exec (.holdEntryRequest octx base len dev stub restored) s = .next t ∧ Table.get s.sum.holds n = none ∧
      Table.get t.sum.holds n = some ⟨octx, base, len, dev, stub, 0⟩ ∧ t.run = s.run ∧
      (s.local dev = false → t.sum.stubs = s.sum.stubs) ∧
      (s.local dev = true → ∀ x, s.stub stub = some x → t.stub stub = some { x with hold := n })) ∧
  (∀ octx base len dev stub restored s, ¬ (s.sendable octx base len.toNat = true ∧ s.sum.holds.length < 65536 ∧ 0 < len.toNat) →
    exec (.holdEntryRequest octx base len dev stub restored) s =
      .next (if s.local dev then { s with sch := { s.sch with agenda := s.sch.agenda ++ [.lostMessage stub] } } else s)) ∧
  (∀ id s a tr, Table.get s.run.accs id = some a → a.tr = some tr → tr.cls = 5 → s.heldOn a.ctx a.va = true → a.kind.writes = true →
    a.fault = none → (a.st = .queued ∨ a.st = .combined) → s.holdLimNs a.ctx ≤ a.waited →
    ∃ t : State, exec (.holdLimit id) s = .next t ∧ Table.get t.run.accs id = some { a with fault := some .pageHeld } ∧
      { t with run := s.run } = s ∧ t.run.groups = s.run.groups) ∧
  (∀ ctx s, Table.get s.sum.restoredLeft ctx = some 0 →
    ∃ t : State, exec (.restoredHoldWindow ctx) s = .next t ∧ Table.get t.sum.restoredLeft ctx = none ∧ (∀ r ∈ t.sum.restored, r.1 ≠ ctx) ∧
      t.sum.holds = s.sum.holds ∧ t.run = s.run)

/-! ### Clove -/

/-- R375, R376, R379 to R388, R379 to R381: what an iteration answers and leaves. A handle that names no sequence faults; a stopped sequence
answers so and stays; without rules a token is emitted as it came and discards drafts, a draft is kept while fewer than 16 are, SQCONF
confirms the oldest drafts, SQREJ drops them all; SQRULE puts a good record in place with its counter zero; SQCLOSE frees the sequence and
raises its generation. A confirmed position. CONF rises and saturates; a STOP or STOP.TRAP that hits ends the sequence, before any INJECT or
FORK, drops its drafts and its run, and is the one of highest PRIO, lowest index; else an INJECT puts its first token in place and the
others in the run; without either the token stands. -/
def Obligations.SequenceIterations : Prop :=
  (let done (t : State) (id : Nat) (x : Iter) (a : Answer) : Prop := Table.get t.clv.iters id = some { x with answer := some a }
  (∀ seq id x s, NextIteration s seq id x → s.seqOf (s.iterCtx x) x.handle = none →
    ∃ t, exec (.cloveIteration seq) s = .next t ∧ done t id x (0, 0, false, some (.resourceBound, x.handle.setWidth 64)) ∧
      t.clv.seqs = s.clv.seqs ∧ t.run = s.run) ∧
  (∀ seq id x s n q d k, NextIteration s seq id x → s.seqOf (s.iterCtx x) x.handle = some (n, q) → q.stopped = true → x.kind = .tok d k →
    ∃ t, exec (.cloveIteration seq) s = .next t ∧ done t id x (0xFFFFFFFF, 0x7F02, false, none) ∧ t.clv.seqs = s.clv.seqs ∧ t.run = s.run) ∧
  (∀ seq id x s n q tok, NextIteration s seq id x → s.seqOf (s.iterCtx x) x.handle = some (n, q) → q.stopped = false →
    x.kind = .tok false tok → q.run = [] → s.rulesFor q = [] → q.drafts.length ≤ 16 →
    ∃ t y, exec (.cloveIteration seq) s = .next t ∧ done t id x (tok, BitVec.ofNat 32 (q.drafts.length * 2 ^ 16 + 0x7F00), false, none) ∧
      Table.get t.clv.seqs n = some y ∧ y.hist = (q.hist ++ [tok]).drop ((q.hist ++ [tok]).length - 32) ∧ y.drafts = [] ∧ y.stopped = false ∧
      y.conf = (if q.conf = 0xFFFFFFFF then q.conf else q.conf + 1) ∧ y.hits = q.hits ∧ y.rules = q.rules ∧ t.run = s.run ∧ t.mem = (s.unstall id).mem) ∧
  (∀ seq id x s n q tok, NextIteration s seq id x → s.seqOf (s.iterCtx x) x.handle = some (n, q) → q.stopped = false →
    x.kind = .tok true tok → q.run = [] → q.drafts.length < 16 → s.rulesFor q = [] →
    ∃ t, exec (.cloveIteration seq) s = .next t ∧ done t id x (tok, 0x7F00, false, none) ∧
      Table.get t.clv.seqs n = some { q with drafts := q.drafts ++ [(tok, [])] } ∧ t.run = s.run) ∧
  (∀ seq id x s n q tok, NextIteration s seq id x → s.seqOf (s.iterCtx x) x.handle = some (n, q) → q.stopped = false →
    x.kind = .tok true tok → 16 ≤ q.drafts.length →
    ∃ t, exec (.cloveIteration seq) s = .next t ∧ done t id x (0xFFFFFFFF, 0x7F80, false, none) ∧ t.clv.seqs = s.clv.seqs ∧ t.run = s.run) ∧
  (∀ seq id x s n q m, NextIteration s seq id x → s.seqOf (s.iterCtx x) x.handle = some (n, q) → q.stopped = false →
    x.kind = .conf m → q.drafts = [] →
    ∃ t, exec (.cloveIteration seq) s = .next t ∧ done t id x (0, 0x7F00, false, none) ∧ t.clv.seqs = s.clv.seqs ∧ t.run = s.run) ∧
  (∀ seq id x s n q tok hs r, NextIteration s seq id x → s.seqOf (s.iterCtx x) x.handle = some (n, q) → q.stopped = false →
    x.kind = .conf 1 → q.drafts = (tok, hs) :: r → s.rulesFor { q with drafts := r } = [] → s.rulesFor q = [] →
    ∃ t y, exec (.cloveIteration seq) s = .next t ∧ done t id x (0, 0x01007F00, false, none) ∧ Table.get t.clv.seqs n = some y ∧
      y.hist = (q.hist ++ [tok]).drop ((q.hist ++ [tok]).length - 32) ∧ y.drafts = r ∧ y.stopped = false ∧ t.run = s.run) ∧
  (∀ seq id x s n q, NextIteration s seq id x → s.seqOf (s.iterCtx x) x.handle = some (n, q) → q.stopped = false → x.kind = .rej →
    q.drafts.length ≤ 16 →
    ∃ t, exec (.cloveIteration seq) s = .next t ∧ done t id x (0, BitVec.ofNat 32 (q.drafts.length * 2 ^ 16 + 0x7F00), false, none) ∧
      Table.get t.clv.seqs n = some { q with drafts := [] } ∧ t.run = s.run) ∧
  (∀ seq id x s n q j r, NextIteration s seq id x → s.seqOf (s.iterCtx x) x.handle = some (n, q) → x.kind = .rule j (some r) →
    ∃ t, exec (.cloveIteration seq) s = .next t ∧ done t id x (0, 0, true, none) ∧
      Table.get t.clv.seqs n = some { q with rules := Table.set q.rules j r, hits := Sparse.set q.hits j 0 } ∧ t.run = s.run) ∧
  (∀ seq id x s n q j, NextIteration s seq id x → s.seqOf (s.iterCtx x) x.handle = some (n, q) → x.kind = .rule j none →
    ∃ t, exec (.cloveIteration seq) s = .next t ∧ done t id x (0, 0, false, none) ∧ t.clv.seqs = s.clv.seqs ∧ t.run = s.run) ∧
  (∀ seq id x s n q, NextIteration s seq id x → s.seqOf (s.iterCtx x) x.handle = some (n, q) → x.kind = .close →
    ∃ t : State, exec (.cloveIteration seq) s = .next t ∧ done t id x (0, 0, false, none) ∧ Table.get t.clv.seqs n = none ∧
      (∀ m, m ≠ n → Table.get t.clv.seqs m = Table.get s.clv.seqs m) ∧
      t.clv.gens = Sparse.set s.clv.gens n (Sparse.get s.clv.gens n + 1) ∧ t.run = s.run)) ∧
  (∀ (rules : List (Nat × Rule)) (q : Sequence) (tok : Word) (forced : Bool), (rules.map (·.1)).Nodup →
    let c := confirmAt rules q tok forced
    let hit (r : Nat × Rule) : Prop := r ∈ rules ∧ ((forced = false ∧ r.2.matches (q.hist ++ [tok]) = true) ∨
      (r.2.en = true ∧ ∃ k, r.2.csel = some k ∧
        let now := if k = 127 then c.seq.conf else Sparse.get c.seq.seenHits k
        let was := if k = 127 then q.seenConf else Sparse.get q.seenHits k
        r.2.n ≤ now.toNat ∧ was.toNat < r.2.n))
    c.seq.conf = (if q.conf = 0xFFFFFFFF then q.conf else q.conf + 1) ∧ c.seq.rules = q.rules ∧ c.seq.ctx = q.ctx ∧
    ((∃ r, hit r ∧ (r.2.act = 1 ∨ r.2.act = 2)) → ∃ r, hit r ∧ (r.2.act = 1 ∨ r.2.act = 2) ∧ c.rule = r.1 ∧ c.seq.stopped = true ∧
      c.seq.drafts = [] ∧ c.seq.run = [] ∧ c.emitted = tok ∧ c.disc = q.drafts.length ∧
      c.trap = (if r.2.act = 2 then some (tok, r.1) else none) ∧
      ∀ r', hit r' → (r'.2.act = 1 ∨ r'.2.act = 2) → r'.2.prio < r.2.prio ∨ (r'.2.prio = r.2.prio ∧ r.1 ≤ r'.1)) ∧
    ((∀ r, hit r → r.2.act ≠ 1 ∧ r.2.act ≠ 2 ∧ r.2.act ≠ 3 ∧ r.2.act ≠ 4) → c.emitted = tok ∧ c.rule = 0x7F ∧ c.seq.stopped = q.stopped ∧
      c.seq.drafts = q.drafts ∧ c.seq.run = q.run ∧ c.trap = none ∧ c.fork = false) ∧
    ((∀ r, hit r → r.2.act ≠ 1 ∧ r.2.act ≠ 2 ∧ r.2.act ≠ 4) → (∃ r, hit r ∧ r.2.act = 3) → ∃ r, hit r ∧ r.2.act = 3 ∧ c.rule = r.1 ∧
      c.emitted = r.2.inj.headD 0 ∧ c.seq.run = r.2.inj.drop 1 ∧ c.seq.drafts = [] ∧ c.inject = true ∧ c.seq.stopped = q.stopped))

/-- R376, R377, R382, R389, R390: SQBIND, while the context keeps no log, takes a free sequence of the partition's share at once, or answers all
ones; the others send one iteration for each guarded lane and their bundle waits, until every answer is there; SHARE and shared rules are
written by hosts with authority. -/
def Obligations.SequenceInstructions : Prop :=
  (∀ h d a b s i g k ks, s.current = some (i, g) → i.guarded g h = k :: ks → Table.get s.ckp.ints (s.ctxOf g) = none →
    let part := s.partOf (s.ctxOf g)
    let one : Bool := (d.isS || d.isAbsent) && a.uniform && b.uniform
    let r (x : Opnd) (j : Nat) : DWord := readOp (i.source g) ((i.source g).lane j) true x
    (∀ j ∈ k :: ks, a.isAbsent = false → (r a j).toNat % 8 = 0) →
    s.seqsHeld part + (if one then 1 else (k :: ks).length) ≤ (Sparse.get s.clv.shares part).toNat →
    s.clv.seqs.length + (if one then 1 else (k :: ks).length) ≤ 65536 →
    ∃ (f : Nat → Nat) (s1 t : State),
      let es := i.effects g h fun _ j _ => ({ regs := [(d, false, (s.seqHandle (f j)).setWidth 64)] } : Eff)
      exec (.sqbind h d a b) s = .next { t with run := { t.run with
        pend := Table.set t.run.pend s.sch.nextId (waitingResults i.gid es) } } ∧ s1.run = s.run ∧ s1.mem = s.mem ∧
      Ran s1 t i g (es.map fun p => (p.1, p.2.awaited s.sch.nextId h.la.toNat)) ∧
      (∀ j ∈ k :: ks, ∀ m ∈ k :: ks, f j = f m ↔ (j = m ∨ one = true)) ∧
      ∀ j ∈ k :: ks, Table.get s.clv.seqs (f j) = none ∧ Table.get s1.clv.seqs (f j) = some ⟨s.ctxOf g, part, [], [], [], 0, [], 0, [], [],
        r b (if one then k else j), if a.isAbsent then none else some (r a (if one then k else j)), false⟩) ∧
  (∀ h d a b s i g k ks, s.current = some (i, g) → i.guarded g h = k :: ks → Table.get s.ckp.ints (s.ctxOf g) = none →
    (∀ j ∈ k :: ks, a.isAbsent = false → (readOp (i.source g) ((i.source g).lane j) true a).toNat % 8 = 0) →
    s.freeSeq (s.partOf (s.ctxOf g)) = none →
    let es := i.effects g h fun _ _ _ => ({ regs := [(d, false, 0xFFFFFFFF)] } : Eff)
    ∃ t : State, exec (.sqbind h d a b) s = .next { t with run := { t.run with
        pend := Table.set t.run.pend s.sch.nextId (waitingResults i.gid es) } } ∧
      Ran { s with sch := { s.sch with nextId := s.sch.nextId + 1 } } t i g (es.map fun p => (p.1, p.2.awaited s.sch.nextId h.la.toNat))) ∧
  (∀ h rel d a b e s i g k ks ins (kind : Nat → IterKind) d' e' (one : Bool), s.current = some (i, g) → i.guarded g h = k :: ks →
    (rel = true → s.reached i.gid .sys (s.earlier i g) = true) →
    let v (x : Opnd) (j : Nat) : Word := (readOp (i.source g) ((i.source g).lane j) false x).setWidth 32
    ((∃ draft, ins = Instr.sqtok h draft rel d a b e ∧ kind = (fun j => .tok draft (v b j)) ∧ d' = d ∧ e' = e ∧
        one = (a.uniform && b.uniform && d.isAbsent && e.isAbsent)) ∨
     (ins = Instr.sqconf h rel d a b ∧ kind = (fun j => .conf (Nat.min 16 (match b with | .imm x => x.toNat | _ => (v b j).toNat))) ∧
        d' = .absent ∧ e' = d ∧ one = (a.uniform && b.uniform && d.isAbsent)) ∨
     (rel = false ∧ ins = Instr.sqrej h d a ∧ kind = (fun _ => .rej) ∧ d' = .absent ∧ e' = d ∧ one = (a.uniform && d.isAbsent)) ∨
     (rel = false ∧ ins = Instr.sqclose h a ∧ kind = (fun _ => .close) ∧ d' = .absent ∧ e' = .absent ∧ one = a.uniform)) →
    ∃ t u, exec ins s = .next t ∧ t.group i.gid = some u ∧ t.mem = s.mem ∧
      (∀ j ∈ k :: ks, ∃ p ∈ t.clv.iters, p.2 = ⟨s.sch.nextId, i.gid, if one then laneMask (k :: ks) else laneMask [j],
        v a (if one then k else j), kind (if one then k else j), d', e', none, s.sch.cycle, 64 * g.core + g.slot⟩) ∧
      ∀ j ∈ k :: ks, j < g.width → (u.lane j).pc = (g.lane j).pc ∧ (u.lane j).data = (g.lane j).data ∧
        ∃ w, (u.lane j).st = .stalled w ∧ w.kind = .clove s.sch.nextId ∧ w.left = none) ∧
  (∀ h d a b c s i g k ks (f : Nat → Trans), s.current = some (i, g) → i.guarded g h = k :: ks →
    let v (x : Opnd) (j : Nat) : Word := (readOp (i.source g) ((i.source g).lane j) false x).setWidth 32
    let va (j : Nat) : DWord := readOp (i.source g) ((i.source g).lane j) true c
    let idx (j : Nat) : Nat := match b with | .imm x => x.toNat | _ => (v b j).toNat
    let one : Bool := a.uniform && b.uniform && c.uniform && d.isAbsent
    (∀ j ∈ k :: ks, idx j ≤ 15 ∧ (va j).toNat % 128 = 0 ∧ (s.seqOf (s.ctxOf g) (v a j)).isSome = true ∧ s.engineRead (s.ctxOf g) (va j) = .ok (f j)) →
    ∃ t u, exec (.sqrule h d a b c) s = .next t ∧ t.group i.gid = some u ∧ t.mem = s.mem ∧
      (∀ j ∈ k :: ks, ∃ p ∈ t.clv.iters, p.2 = ⟨s.sch.nextId, i.gid, if one then laneMask (k :: ks) else laneMask [j],
        v a (if one then k else j), .rule (idx (if one then k else j)) (ruleOf (s.load ((f (if one then k else j)).key (va (if one then k else j))) 128)),
        d, .absent, none, s.sch.cycle, 64 * g.core + g.slot⟩) ∧
      ∀ j ∈ k :: ks, j < g.width → (u.lane j).data = (g.lane j).data ∧ ∃ w, (u.lane j).st = .stalled w ∧ w.kind = .clove s.sch.nextId) ∧
  (∀ h d (a : BitVec 8) b c s i g k ks, s.current = some (i, g) → i.guarded g h = k :: ks →
    let v (x : Opnd) (j : Nat) : Word := (readOp (i.source g) ((i.source g).lane j) false x).setWidth 32
    let idx (j : Nat) : Nat := match b with | .imm x => x.toNat | _ => (v b j).toNat
    (∀ j ∈ k :: ks, idx j ≤ 15 ∧ (readOp (i.source g) ((i.source g).lane j) true c).toNat % 128 = 0 ∧
      s.seqOf (s.ctxOf g) (v (.v a) j) = none) →
    exec (.sqrule h d (.v a) b c) s =
      .next (s.takeTrap i ((k :: ks).map fun j => (j, Code.resourceBound, (v (.v a) j).setWidth 64)))) ∧
  (∀ gid lane s g l w inst x em st, s.waiting gid lane = some (g, l, w) → w.kind = .clove inst → s.answered inst = true →
    g.waitersWith lane = laneMask [lane] → w.muted = false → lane < 64 → lane < g.width → Table.get s.ckp.ints (s.ctxOf g) = none →
    s.iterFor inst lane = some x → x.answer = some (em, st, false, none) → (∀ j r, x.kind ≠ .rule j r) → x.d.isS = false → x.e.isS = false →
    ∃ t u, exec (.waitSatisfied gid lane) s = .next t ∧ t.group gid = some u ∧
      (u.lane lane).data = ((l.write x.d false (em.setWidth 64)).write x.e false (st.setWidth 64)).data ∧
      (u.lane lane).pc = succPc l.pc ∧ (u.lane lane).retired = l.retired + 1) ∧
  (∀ host p v s, s.authority host = false ∨ 12 ≤ p → exec (.cloveShareWrite host p v) s = .next s) ∧
  (∀ host p v s, s.authority host = true → p < 12 → s.seqsHeld p ≤ field v 16 0 →
    field v 16 0 + (((List.range 12).filter (· != p)).map fun k => (Sparse.get s.clv.shares k).toNat).sum ≤ 65536 →
    exec (.cloveShareWrite host p v) s =
      .next { s with clv := { s.clv with shares := Sparse.set s.clv.shares p (BitVec.ofNat 17 (field v 16 0)) } }) ∧
  (∀ host p v s, s.authority host = true → p < 12 → field v 16 0 < s.seqsHeld p →
    ∃ t : State, exec (.cloveShareWrite host p v) s = .next t ∧ { t with sys := s.sys } = s ∧ t.sys.glenSeq = s.sys.glenSeq + 1) ∧
  (∀ host p j bytes s, s.authority host = true → p < 12 → j < 64 → bytes.length = 128 → exec (.sharedRuleWrite host p j bytes) s =
    .next { s with clv := { s.clv with shared := Table.set s.clv.shared (p * 64 + j) bytes } })

/-! ### The interval -/

/-- R394 to R397, R406, R417: EN starts interval 0, or is refused with a record of Glen's; clearing EN frees it, or waits for a boundary in
progress; at rank 0 a boundary begins where it is due or asked for, 200 µs ahead, and at another rank REQ, CKPT.req and a full log area ask
rank 0 for it; the member quiesces at its instant. CKPT reads GEN, begins a boundary, or waits for a generation. -/
def Obligations.Intervals : Prop :=
  (∀ host ctx ctl s c, s.context ctx = some c → s.privileged host c.record.part = true → (s.ck ctx).en = false →
    let y := { s.ck ctx with ctl := ctl &&& 0xFFFFFFFF00C00006#64 }
    ∃ t : State, exec (.checkpointEnable host ctx ctl) s = .next t ∧ t.run = s.run ∧ t.mem = s.mem ∧
      (s.ckptOk ctx c y = true → t.ck ctx = { y with ctl := y.ctl ||| 1, cmd := 0 } ∧ t.sys = s.sys ∧
        ∃ x, t.int ctx = some x ∧ x.st = .running ∧ x.number = 0 ∧ x.gen = 0 ∧ x.begun = 0) ∧
      (s.ckptOk ctx c y = false → t.ck ctx = y ∧ t.int ctx = s.int ctx ∧ t.sys.glenSeq = s.sys.glenSeq + 1)) ∧
  (∀ host ctx s c x, s.context ctx = some c → s.int ctx = some x → s.privileged host c.record.part = true → x.busy = false →
    Table.get s.ckp.regs ctx = some (s.ck ctx) →
    ∃ t : State, exec (.checkpointDisable host ctx) s = .next t ∧ t.int ctx = none ∧ (t.ck ctx).en = false ∧ { t with ckp := s.ckp } = s) ∧
  (∀ host ctx s c x, s.context ctx = some c → s.int ctx = some x → s.privileged host c.record.part = true → x.busy = true →
    exec (.checkpointDisable host ctx) s = .next { s with sch := { s.sch with held := s.sch.held ++ [.checkpointOff host ctx] } }) ∧
  (∀ ctx s c x, s.context ctx = some c → s.int ctx = some x → c.st ≠ .building → x.st = .running → s.rank ctx = 0 →
    s.boundaryDue ctx x = true → x.instant = none →
    ∃ t : State, exec (.boundaryBegin ctx) s = .next t ∧ t.run = s.run ∧ t.mem = s.mem ∧
      t.int ctx = some { x with begun := x.number.toNat + 1, instant := some (s.sch.time 8 + 200000) }) ∧
  (∀ ctx s x, s.int ctx = some x → s.boundaryDue ctx x = false → exec (.boundaryBegin ctx) s = .next s) ∧
  (∀ ctx s c x, s.context ctx = some c → s.int ctx = some x → c.st ≠ .building → x.st = .running → s.rank ctx ≠ 0 → x.instant = none →
    x.out = false → (s.ck ctx).logs = true → s.logLeft ctx x < 65536 →
    exec (.boundaryBegin ctx) s = .next (s.setInt ctx { x with asked := true })) ∧
  (∀ ctx now s x, s.int ctx = some x → x.st = .running → s.rank ctx ≠ 0 → x.instant = none → x.out = false →
    ∃ t : State, exec (.boundaryInstantReceipt ctx now) s = .next t ∧ t.run = s.run ∧ t.mem = s.mem ∧
      t.int ctx = some { x with begun := x.number.toNat + 1, instant := some now, asked := false }) ∧
  (∀ ctx now s x, s.int ctx = some x → x.out = true → exec (.boundaryInstantReceipt ctx now) s = .next s) ∧
  (∀ host ctx s c x, s.context ctx = some c → s.int ctx = some x → s.privileged host c.record.part = true → s.rank ctx ≠ 0 →
    x.st = .running → x.instant = none → x.out = false →
    exec (.req host ctx) s = .next ((s.setInt ctx { x with asked := true }).setCk ctx { s.ck ctx with cmd := 2 })) ∧
  (∀ host ctx s c x, s.context ctx = some c → s.int ctx = some x → s.privileged host c.record.part = true → s.rank ctx = 0 →
    x.st = .running → x.instant = none →
    ∃ t : State, exec (.req host ctx) s = .next t ∧ t.run = s.run ∧ t.mem = s.mem ∧ (t.ck ctx).cmd = 2 ∧
      t.int ctx = some { x with begun := x.number.toNat + 1, instant := some (s.sch.time 8 + 200000) }) ∧
  (∀ ctx s x at', s.int ctx = some x → x.instant = some at' → x.st = .running → at'.toNat ≤ (s.sch.time 8).toNat →
    exec (.quiesce ctx) s = .next ((s.mapChans ctx Channel.save).setInt ctx { x with
      st := .quiescing, wait := 0, drained := [], prepared := [], acked := [], fence := none })) ∧
  (∀ ctx s x at', s.int ctx = some x → x.instant = some at' → (s.sch.time 8).toNat < at'.toNat → exec (.quiesce ctx) s = .next s) ∧
  (∀ h d, WritesWhen (fun s _ g => s.int (s.ctxOf g) = none) (.ckptGen h d) h fun _ _ _ _ _ => { regs := [(d, true, -1)] }) ∧
  (∀ h d x, WritesWhen (fun s _ g => s.int (s.ctxOf g) = some x ∧ x.st = .running ∧ (s.ck (s.ctxOf g)).logs = false) (.ckptGen h d) h
    fun _ _ _ _ _ => { regs := [(d, true, BitVec.ofNat 64 x.gen)] }) ∧
  (∀ h d, WritesWhen (fun s _ g => s.int (s.ctxOf g) = none) (.ckptReq h d) h fun _ _ _ _ _ => { regs := [(d, true, -1)] }) ∧
  (∀ h d s i g x, s.current = some (i, g) → i.guarded g h ≠ [] → s.int (s.ctxOf g) = some x → x.st = .running → x.instant = none →
    (s.ck (s.ctxOf g)).logs = false → s.rank (s.ctxOf g) = 0 → x.number.toNat + 2 < 2 ^ 64 →
    ∃ s1 t, exec (.ckptReq h d) s = .next t ∧ s1.run = s.run ∧ s1.mem = s.mem ∧
      s1.int (s.ctxOf g) = some { x with begun := x.number.toNat + 1, instant := some (s.sch.time 8 + 200000) } ∧
      Ran s1 t i g (i.effects g h fun _ _ _ => { regs := [(d, true, BitVec.ofNat 64 (x.number.toNat + 2))] })) ∧
  (∀ h d s i g x, s.current = some (i, g) → i.guarded g h ≠ [] → s.int (s.ctxOf g) = some x → x.st = .running → x.instant = none →
    x.out = false → (s.ck (s.ctxOf g)).logs = false → s.rank (s.ctxOf g) ≠ 0 → x.begun + 1 < 2 ^ 64 →
    ∃ s1 t, exec (.ckptReq h d) s = .next t ∧ s1 = s.setInt (s.ctxOf g) { x with asked := true } ∧
      Ran s1 t i g (i.effects g h fun _ _ _ => { regs := [(d, true, BitVec.ofNat 64 (x.begun + 1))] })) ∧
  (∀ h d (a : BitVec 8), WritesWhen (fun s i g => s.int (s.ctxOf g) = none ∧ i.guarded g h ≠ []) (.ckptWait h d (.v a)) h
    fun _ _ _ _ _ => { regs := [(d, true, -1)] }) ∧
  (∀ h d (a : BitVec 8) s i g k ks x, s.current = some (i, g) → i.guarded g h = k :: ks → s.int (s.ctxOf g) = some x → x.st = .running →
    x.gen < 2 ^ 64 →
    let want := readOp (i.source g) ((i.source g).lane k) true (.v a)
    x.gen < want.toNat →
    ∃ t u, exec (.ckptWait h d (.v a)) s = .next t ∧ t.group i.gid = some u ∧ t.mem = s.mem ∧
      ∀ j ∈ i.guarded g h, j < g.width → (u.lane j).data = (g.lane j).data ∧ (u.lane j).pc = (g.lane j).pc ∧
        ∃ w, (u.lane j).st = .stalled w ∧ w.kind = .checkpoint d want ∧ w.left = none)

/-- R396 to R401, R404, R402, R403, R410 to R412: once every team is saved and every access ended the member is DRAINED, and at the cut, which a
member that has reported takes on receipt, it takes its snapshot and the next interval begins; the granules marked are copied; with the
units written and acknowledged PREP rises; COMMIT writes the root; the last acknowledgement ends SNAPSHOT; a discard takes the number back;
a committed generation whose drain has run is in flash; a parity member adds another member's unit to its row's parity unit and writes it.
RESTORE refuses a context that is not BUILDING; a generation that is nowhere here is LOST, or awaited from the other members of a job; a
generation makes the context GUARDED, its interval that generation's. GO goes back to the generation that begins the interval and replays; a
stop is reached when the lane has retired its count; when the log is consumed and every lane is back where it was the replay goes on with
the next held interval's, and ends after the last. -/
def Obligations.BoundaryAndRestore : Prop :=
  ((∀ ctx s x, s.int ctx = some x → x.st = .quiescing → (s.ck ctx).ndev = 1 → s.rank ctx = 0 → 0 ∉ x.drained → s.quiesced ctx x = true →
    exec (.drained ctx 0) s = .next ((s.setInt ctx { x with drained := 0 :: x.drained }).message (.cut ctx))) ∧
  (∀ ctx s x, s.int ctx = some x → s.quiesced ctx x = false → exec (.drained ctx (s.rank ctx)) s = .next s) ∧
  (∀ ctx s x, s.int ctx = some x → s.rank ctx ∉ x.drained → exec (.cut ctx) s = .next s) ∧
  (∀ ctx s x, s.int ctx = some x → x.st = .quiescing → s.rank ctx ∈ x.drained →
    ∃ (t : State) (y : Interval), exec (.cut ctx) s = .next t ∧ t.int ctx = some y ∧ y.st = .snapshot ∧ y.number = x.number + 1 ∧
      y.tcut = s.sch.time 8 ∧ y.instant = none ∧ y.allDirty = false ∧ y.gen = x.gen ∧ y.clock = 0 ∧ y.work = 0 ∧ y.fence = none ∧
      y.written = 0 ∧ y.unacked = [] ∧ Table.get y.logs (x.number.toNat + 1) = some [] ∧
      (∃ z, Table.get y.snaps (x.number.toNat + 1) = some z ∧ z.groups = t.groupsOf ctx ∧ z.teams = s.teamsOf ctx ∧
        z.counts = s.retiredCounts ctx ∧ z.maps = s.granules ctx ∧
        ∀ v f, (v, f) ∈ s.granules ctx → (x.allDirty = true ∨ f ∈ x.dirty) → v ∈ z.fresh) ∧
      ((s.dbgReg (s.partOf ctx) 0).getLsbD 1 = false → t.mem.cells = s.mem.cells ∧ y.dirty = [] ∧
        ∀ f, f ∈ y.marked ↔ (∃ v, (v, f) ∈ s.granules ctx) ∧ (x.allDirty = true ∨ f ∈ x.dirty)) ∧
      ∀ gid g, s.group gid = some g → ∃ u, t.group gid = some u ∧ u.width = g.width ∧ ∀ k, k < g.width →
        u.lane k = (if s.ctxOf g = ctx then { g.lane k with retired := 0 } else g.lane k) ∨
        (s.ctxOf g ≠ ctx ∧ (s.groupsOf ctx).any (fun p => p.1 == gid))) ∧
  (∀ ctx granule s x y, s.int ctx = some x → granule ∈ x.marked → Table.get x.snaps x.number.toNat = some y →
    ∃ (t : State) (z : Interval) (w : Snapshot), exec (.granuleCopy ctx granule) s = .next t ∧ t.int ctx = some z ∧ granule ∉ z.marked ∧
      Table.get z.snaps x.number.toNat = some w ∧ { t with ckp := s.ckp } = s ∧
      ∀ v, (v, granule) ∈ y.maps → Table.get w.granules v = some (s.mem.granule granule)) ∧
  (∀ ctx granule s x, s.int ctx = some x → granule ∉ x.marked → exec (.granuleCopy ctx granule) s = .next s) ∧
  (∀ ctx s x y, s.int ctx = some x → x.st = .snapshot → x.marked = [] → x.prep ≠ x.number.toNat → Table.get x.snaps x.number.toNat = some y →
    y.unitCount ≤ x.written → x.unacked = [] →
    ∃ (t : State) (z : Interval), exec (.prepared ctx) s = .next t ∧ t.int ctx = some z ∧ z.prep = x.number.toNat ∧ z.st = .snapshot ∧
      t.run = s.run ∧
      t.sch.agenda = s.sch.agenda ++ (if s.rank ctx = 0 then [.preparedReport ctx 0] else []) ∧
      (inAperture ((s.ck ctx).root.toNat + 8) = false → s.mem.views = [] → s.mem.wf = true →
        t.mem.bytes ((s.ck ctx).root.toNat + 8) 8 = leBytes 8 x.number.toNat)) ∧
  (∀ ctx s x y, s.int ctx = some x → Table.get x.snaps x.number.toNat = some y → (x.marked ≠ [] ∨ x.written < y.unitCount ∨ x.unacked ≠ []) →
    exec (.prepared ctx) s = .next s) ∧
  (∀ ctx rank s x, s.int ctx = some x → x.st = .snapshot → s.rank ctx = 0 → rank < (s.ck ctx).ndev → rank ∉ x.prepared →
    (rank = 0 → x.prep = x.number.toNat) →
    ∃ t : State, exec (.preparedReport ctx rank) s = .next t ∧ t.int ctx = some { x with prepared := rank :: x.prepared } ∧
      t.sch.agenda = s.sch.agenda ++ (if s.everyRank ctx (rank :: x.prepared) then [.commit ctx x.number.toNat] else [])) ∧
  (∀ ctx s x, s.int ctx = some x → x.st = .snapshot → x.prep = x.number.toNat → x.gen ≠ x.number.toNat →
    ∃ (t : State) (z : Interval), exec (.commit ctx x.number.toNat) s = .next t ∧ t.int ctx = some z ∧ z.gen = x.number.toNat ∧ t.run = s.run ∧
      t.sch.agenda = s.sch.agenda ++ [.commitAcknowledged ctx (s.rank ctx)] ∧
      (inAperture (s.ck ctx).root.toNat = false → s.mem.views = [] → s.mem.wf = true →
        t.mem.bytes (s.ck ctx).root.toNat 64 = leBytes 8 x.number.toNat ++ leBytes 8 x.prep ++ leBytes 8 x.tcut.toNat ++
          leBytes 4 (s.ck ctx).jobId ++ leBytes 2 (field (s.ck ctx).job 15 0) ++ leBytes 2 0 ++
          leBytes 8 ({ x with gen := x.number.toNat } : Interval).directory.toNat ++ leBytes 8 x.flashGen ++ leBytes 16 0)) ∧
  (∀ ctx gen s x, s.int ctx = some x → x.number.toNat ≠ gen → exec (.commit ctx gen) s = .next s) ∧
  (∀ ctx s x, s.int ctx = some x → x.st = .snapshot → x.gen = x.number.toNat → (s.ck ctx).ndev = 1 →
    let kept (n : Nat) : Bool := decide (x.gen < n + (s.ck ctx).keep)
    ∃ (t : State) (z : Interval), exec (.commitAcknowledged ctx 0) s = .next t ∧ t.int ctx = some z ∧ z.st = .running ∧ z.gen = x.gen ∧
      t.run = s.run ∧ z.snaps.map (·.1) = (x.snaps.map (·.1)).filter kept ∧ z.logs = x.logs.filter (fun p => kept p.1) ∧
      (x.marked = [] → z.snaps = x.snaps.filter (fun p => kept p.1) ∧ ∀ u, u ∈ z.units ↔ u ∈ x.units ∧
        ({ x with snaps := x.snaps.filter fun p => kept p.1 } : Interval).unitNeeded u = true)) ∧
  (∀ ctx s x, s.int ctx = some x → (x.st = .quiescing ∨ (x.st = .snapshot ∧ x.gen ≠ x.number.toNat)) → x.number ≠ 0 →
    ∃ (t : State) (z : Interval), exec (.generationDiscard ctx) s = .next t ∧ t.int ctx = some z ∧ z.st = .running ∧
      z.number = (if x.st = .snapshot then x.number - 1 else x.number) ∧ z.gen = x.gen ∧ z.allDirty = true ∧ z.marked = [] ∧
      z.instant = (if x.st = .snapshot then x.instant else none) ∧ Table.get z.snaps (z.number.toNat + 1) = none ∧
      (∀ u ∈ z.units, u.gen ≠ z.number.toNat + 1) ∧ z.fence = none ∧ t.run.groups = s.run.groups) ∧
  (∀ ctx s x, s.int ctx = some x → (x.st = .running ∨ (x.st = .snapshot ∧ x.gen = x.number.toNat)) →
    exec (.generationDiscard ctx) s = .next s) ∧
  (∀ ctx s x y q i, s.int ctx = some x → Table.get x.snaps x.gen = some y → s.sys.module = true → x.flashGen < x.gen → x.st = .running →
    x.drain = some (x.gen, q, i) → s.drainRan q i = true →
    ∃ (t : State) (z : Interval), exec (.flashDrain ctx) s = .next t ∧ t.int ctx = some z ∧ z.flashGen = x.gen ∧ z.gen = x.gen ∧
      z.drain = none ∧ t.run = s.run ∧ Table.get t.ckp.flash (s.ck ctx).flashKey = some (x.gen, y)) ∧
  (∀ ctx s x, s.int ctx = some x → (s.sys.module = false ∨ x.drain = none) → exec (.flashDrain ctx) s = .next s) ∧
  (∀ ctx rank row bytes s x slot, s.int ctx = some x → x.st = .snapshot → 1 < (s.ck ctx).ndev → rank < (s.ck ctx).ndev → rank ≠ s.rank ctx →
    s.rank ctx = (s.ck ctx).ndev - 1 - row % (s.ck ctx).ndev →
    let mine (u : StripeUnit) : Bool := u.gen == x.number.toNat && u.parity && u.row == row
    let old := x.units.find? mine
    (match old with | some u => some u.slot | none => (s.ck ctx).freeSlot x.units) = some slot →
    let p := xorBytes ((Table.get x.parity row).getD []) bytes
    exec (.dataUnitArrival ctx rank row bytes) s = .next ((s.setInt ctx { x with
      parity := Table.set x.parity row p
      units := x.units.filter (fun v => !mine v) ++ [⟨x.number.toNat, row, slot, true, [], (old.map (·.covers)).getD 0 + 1⟩] }).storeUnit
        ((s.ck ctx).res.toNat + slot * 2 ^ 20) (padTo (2 ^ 20) p)))) ∧
  ((∀ host ctx gen s c, s.context ctx = some c → s.privileged host c.record.part = true → c.st ≠ .building →
    exec (.restore host ctx gen) s = .next (s.ckDone ctx 0x84)) ∧
  (∀ host ctx gen s c, s.context ctx = some c → s.privileged host c.record.part = true → c.st = .building → gen ≠ 0 →
    s.findGeneration ctx gen = none → s.mem.le (s.ck ctx).root.toNat 8 ≠ 0 → (s.ck ctx).ndev ≤ 1 →
    exec (.restore host ctx gen) s = .next (s.ckDone ctx 0x82)) ∧
  (∀ host ctx gen s c, s.context ctx = some c → s.privileged host c.record.part = true → c.st = .building → gen ≠ 0 →
    s.findGeneration ctx gen = none → 1 < (s.ck ctx).ndev → exec (.restore host ctx gen) s = .next (s.ckDone ctx 1)) ∧
  (∀ host ctx gen s c x t, s.context ctx = some c → s.privileged host c.record.part = true → c.st = .building → gen ≠ 0 →
    s.findGeneration ctx gen = some x → s.rebuild ctx x = some t →
    ∃ u : State, exec (.restore host ctx gen) s = .next u ∧ (∃ y, u.context ctx = some { c with st := .guarded, guardians := [⟨host, 0⟩], callers := y }) ∧
      (u.ck ctx).cmd = 2 ∧ u.run = t.run ∧ u.mem = t.mem ∧
      ∀ y, t.int ctx = some y → ∃ z, u.int ctx = some z ∧ z.number = BitVec.ofNat 64 gen ∧ z.gen = gen ∧ z.prep = gen) ∧
  (∀ host ctx gen s c x, s.context ctx = some c → s.privileged host c.record.part = true → c.st = .building → gen ≠ 0 →
    s.findGeneration ctx gen = some x → s.rebuild ctx x = none →
    exec (.restore host ctx gen) s = .next (s.ckDone ctx 0x83)) ∧
  (∀ ctx (s : State) (x : Snapshot) gid g, x.stubs = [] → x.granules = [] → x.held = [] → x.groups = [(gid, g)] →
    (∀ n, s.sch.nextId ≤ n → Table.get s.run.groups n = none) → (∀ l ∈ g.lanes, ∀ w, l.st ≠ .stalled w) →
    ∃ t u, s.rebuild ctx x = some t ∧ t.group (gid + s.sch.nextId) = some u ∧ u.lanes = g.lanes ∧ u.s = g.s ∧ u.st = g.st ∧ u.observed = [] ∧
      g.timeFloor.toNat ≤ u.timeFloor.toNat ∧ s.sch.latest.toNat ≤ u.timeFloor.toNat ∧
      ((∀ c, s.context ctx = some c → c.record.saveSz.toNat < 64) → t.mem = s.mem) ∧
      (∀ p ∈ s.run.groups, p ∈ t.run.groups) ∧ gid + s.sch.nextId < t.sch.nextId) ∧
  (∀ host p v s c x y l, s.context (field v 11 0) = some c → s.int (field v 11 0) = some x → c.record.part = p →
    (c.guards host = true ∨ s.privileged host p = true) → Table.get x.snaps (s.dbgReg p 0x40).toNat = some y →
    Table.get x.logs (s.dbgReg p 0x40).toNat = some l → (s.ck (field v 11 0)).logs = true → s.dbgReg p 0x40 ≠ 0 →
    (s.dbgReg p 0x40).toNat ≤ x.gen → x.marked = [] → (x.st = .running ∨ x.st = .snapshot) →
    ∃ (u : State) (z : Interval), exec (.go host p v) s = .next u ∧ u.int (field v 11 0) = some z ∧ z.st = .replaying ∧
      z.number = s.dbgReg p 0x40 ∧ z.stop = some (s.dbgReg p 0x48, s.dbgReg p 0x50) ∧ z.replay = l ∧ u.dbgReg p 0x58 = 1 ∧
      z.remade = (Table.get x.made (s.dbgReg p 0x40).toNat).getD [] ∧
      Table.get z.reached x.number.toNat ≠ none ∧ z.instant = none ∧
      u.run = (s.rollback (field v 11 0) y).run ∧ u.mem = (s.rollback (field v 11 0) y).mem) ∧
  (∀ host p v s, s.context (field v 11 0) = none →
    ∃ t : State, exec (.go host p v) s = .next t ∧ t.dbgReg p 0x58 = 4 ∧ { t with ckp := s.ckp } = s) ∧
  (∀ p s ctx x wid n gid g k, (s.stopsIn p).head? = some (ctx, x) → x.stop = some (wid, n) → s.stopLane ctx wid = some (gid, g, k) →
    s.group gid = some g → (g.lane k).retired = n → g.st = .resident → (g.lane k).st ≠ .exited → k < g.width → k < 64 →
    ∃ (t : State) (u : Group) (z : Interval), exec (.debugStopReached p) s = .next t ∧ t.group gid = some u ∧ u.st = .parked ∧ (u.lane k).st = .parked ∧
      t.int ctx = some z ∧ z.st = .stopped ∧ z.stop = none ∧ z.stopped = some gid ∧ t.dbgReg p 0x58 = 2) ∧
  (∀ p s, s.stopsIn p = [] → exec (.debugStopReached p) s = .next s) ∧
  (∀ ctx s x, s.int ctx = some x → x.st = .replaying → x.replay = [] → s.allBack ctx x = true → s.stopAhead ctx x = false →
    Table.get x.snaps (x.number.toNat + 1) = none →
    ∃ t : State, exec (.replayEnd ctx) s = .next t ∧
      t.int ctx = some { x with st := .running, stop := none, clock := 0, work := 0, remade := [], reached := [] } ∧
      t.ckp.dbg = (s.setDbg (s.partOf ctx) 0x58 (if x.stop = none then 0 else 3)).ckp.dbg ∧ { t with ckp := s.ckp } = s) ∧
  (∀ ctx s x y l, s.int ctx = some x → x.st = .replaying → x.replay = [] → s.allBack ctx x = true → s.stopAhead ctx x = false →
    Table.get x.snaps (x.number.toNat + 1) = some y → Table.get x.logs (x.number.toNat + 1) = some l →
    ∃ (u : State) (z : Interval), exec (.replayEnd ctx) s = .next u ∧ u.int ctx = some z ∧ z.number = x.number + 1 ∧ z.replay = l ∧
      z.st = .replaying ∧ (x.stop = none → z.stop = none) ∧ u.run = (s.rollback ctx y).run ∧ u.mem = (s.rollback ctx y).mem) ∧
  (∀ ctx s x, s.int ctx = some x → (x.replay ≠ [] ∨ s.allBack ctx x = false ∨ s.stopAhead ctx x = true) → exec (.replayEnd ctx) s = .next s))

/-! ### The system -/

/-- R9, R23, R25, R215, R426, R429: the registers of partitions, format windows and flash ranges. EN is taken only where its checks pass, and a
refusal is recorded by Glen; the fields of an enabled object stay, PRIV apart; clearing EN of a window writes its dirty view blocks back; a
range that meets another partition's is ignored. -/
def Obligations.PartitionRegisters : Prop :=
  (∀ host p ctl v s, (s.authority host = false ∨ 12 ≤ p) → exec (.partitionEnable host p ctl) s = .next s ∧
    exec (.partitionWattsWrite host p v) s = .next s) ∧
  (∀ host p ctl s, let x := s.part p
    let y := { x with ctl := ctl &&& 0xFFFFFF00#64 }
    s.authority host = true → p < 12 → x.en = false →
    ∃ t : State, exec (.partitionEnable host p ctl) s = .next t ∧
      (s.partitionOk p y = true → (∃ n, Table.get t.ker.energy p = some ⟨n, 1, 1, 0⟩) ∧
        { t with ker := { t.ker with energy := s.ker.energy }, sch := { t.sch with free := s.sch.free } } =
          s.setPart p { y with ctl := y.ctl ||| 1 }) ∧
      (s.partitionOk p y = false → { t with sys := s.sys } = s ∧ t.part p = y ∧ (t.part p).en = false ∧ t.sys.glenSeq = s.sys.glenSeq + 1)) ∧
  (∀ p (x : Partition) (s : State), s.partitionOk p x = true → x.clu ≠ 0 ∧ x.steppe ≠ 0 ∧ ∀ q (y : Partition), (q, y) ∈ s.sys.parts → q ≠ p → y.en = true →
    y.clu &&& x.clu = 0 ∧ x.steppe + y.steppe ≤ 64 ∧ x.watts + y.watts ≤ s.powerLimit ∧ ∀ d, d < 8 → x.ways d &&& y.ways d = 0) ∧
  (∀ host p ctl s, let x := s.part p
    s.authority host = true → p < 12 → x.en = true →
    ∃ y, exec (.partitionEnable host p ctl) s = .next (s.setPart p y) ∧ y = { x with ctl := y.ctl } ∧
      ∀ j, j < 64 → y.ctl.getLsbD j = (if 8 ≤ j ∧ j < 16 then ctl.getLsbD j else x.ctl.getLsbD j)) ∧
  (∀ host p s, let x := s.part p
    s.authority host = true → x.en = true → (∀ c ∈ s.ctx.contexts, c.2.record.part = p → c.2.st = .tornDown) →
    ∃ y, exec (.partitionDisable host p) s = .next (s.setPart p y) ∧ y.en = false ∧ y = { x with ctl := y.ctl }) ∧
  (∀ host p s, (∃ c ∈ s.ctx.contexts, c.2.record.part = p ∧ c.2.st ≠ .tornDown) → exec (.partitionDisable host p) s = .next s) ∧
  (∀ host p v s, let x := s.part p
    s.authority host = true → p < 12 → (x.en = false ∨ s.wattsExceed p (field v 15 0) = false) →
    ∃ t : State, exec (.partitionWattsWrite host p v) s = .next t ∧ { t with sys := s.sys } = s ∧
      t.part p = { x with allow := v &&& 0xFFFF#64 } ∧
      (hottest s.sys.sensors < 960 → Table.get t.sys.allowance p = some (field v 15 0))) ∧
  (∀ host n ctl s, let y := { s.window n with ctl := ctl &&& 0xFFFFFFFF00000F06#64 }
    n < 16 → (s.window n).en = false → s.privileged host y.part = true →
    ∃ t : State, exec (.formatWindowEnable host n ctl) s = .next t ∧ { t with sys := s.sys } = s ∧
      (s.windowOk n y = true → t = s.setWindow n { y with ctl := y.ctl ||| 1 }) ∧
      (s.windowOk n y = false → t.window n = y ∧ (t.window n).en = false ∧ t.sys.glenSeq = s.sys.glenSeq + 1)) ∧
  (∀ host n ctl s, (s.window n).en = true → exec (.formatWindowEnable host n ctl) s = .next s) ∧
  (∀ host n s, let x := s.window n
    n < 16 → x.en = true → s.privileged host x.part = true →
    ∃ t : State, exec (.formatWindowDisable host n) s = .next t ∧ (t.window n).en = false ∧ (∀ v ∈ t.mem.views, v.win ≠ n) ∧
      (∀ v ∈ s.mem.views, v.win ≠ n → v ∈ t.mem.views) ∧
      ((∀ v ∈ s.mem.views, v.win = n → v.dirty = false) → t.mem.cells = s.mem.cells) ∧
      (∀ v, (s.mem.views.filter fun u => u.win == n && u.dirty) = [v] → t.mem.cells = (s.mem.writeBack x v).cells) ∧ t.run = s.run) ∧
  (∀ host p v s, s.privileged host p = true → p < 12 → exec (.flashRangeWrite host p false v) s =
    .next (if (s.flashRange p).2 = 0 then s.setFlash p (v, 0) else s)) ∧
  (∀ host p v s, s.privileged host p = true → p < 12 →
    (∀ o ∈ s.sys.flash, o.1 ≠ p → o.2.2 ≠ 0 → v ≠ 0 → overlap (s.flashRange p).1.toNat v.toNat o.2.1.toNat o.2.2.toNat = false) →
    exec (.flashRangeWrite host p true v) s = .next (s.setFlash p ((s.flashRange p).1, v))) ∧
  (∀ host p v s, s.privileged host p = true → p < 12 →
    v ≠ 0 → (∃ o ∈ s.sys.flash, o.1 ≠ p ∧ o.2.2 ≠ 0 ∧ overlap (s.flashRange p).1.toNat v.toNat o.2.1.toNat o.2.2.toNat = true) →
    ∃ t : State, exec (.flashRangeWrite host p true v) s = .next t ∧ { t with sys := s.sys } = s ∧ t.sys.flash = s.sys.flash ∧
      t.sys.glenSeq = s.sys.glenSeq + 1) ∧
  (∀ ctx off base size (s : State), Table.get s.sys.flash (s.partOf ctx) = some (base, size) → s.sys.module = true →
    s.flashAt ctx off = (if off < size.toNat * 4096 ∧ base.toNat * 4096 + off < 8 * 10 ^ 12 then some (flashKey (base.toNat * 4096 + off)) else none))

/-- R8, R20, R404, R425, R428 to R434: hosts come and go; a CXL.mem store lands in device memory; Glen answers attestation requests, sets
DEVAUTH, lowers allowances, halves clocks and cuts power by temperature, and checks images; power loss and bring-up leave what the manual
says. -/
def Obligations.HostsAndGlen : Prop :=
  (∀ host cxl base size s, host < 8 → ∃ t : State, exec (.hostAttach host cxl base size) s = .next t ∧ { t with sys := s.sys } = s ∧
    Table.get t.sys.hosts host = some cxl ∧ (cxl = true → Table.get t.sys.cxlWin host = some (base, size)) ∧
    ∀ m, m ≠ host → Table.get t.sys.hosts m = Table.get s.sys.hosts m) ∧
  (∀ host s, ∃ t : State, exec (.hostDetach host) s = .next t ∧ { t with sys := s.sys } = s ∧ Table.get t.sys.hosts host = none ∧
    ∀ m, m ≠ host → Table.get t.sys.hosts m = Table.get s.sys.hosts m) ∧
  (∀ host addr bytes s base size, Table.get s.sys.hosts host = some true → Table.get s.sys.cxlWin host = some (base, size) →
    addr + bytes.length ≤ size.toNat → s.present (base.toNat + addr) bytes.length = true → inAperture (base.toNat + addr) = false →
    s.memBlocked (base.toNat + addr) bytes.length = false → s.mem.views = [] → s.mem.wf = true →
    ∃ t : State, exec (.cxlMemAccess host addr true bytes) s = .next t ∧ t.run = s.run ∧
      ∀ k, t.mem.byte k = if base.toNat + addr ≤ k ∧ k < base.toNat + addr + bytes.length
        then bytes.getD (k - (base.toNat + addr)) 0 else s.mem.byte k) ∧
  (∀ host addr bytes s base size, Table.get s.sys.hosts host = some true → Table.get s.sys.cxlWin host = some (base, size) →
    addr + bytes.length ≤ size.toNat → s.present (base.toNat + addr) bytes.length = true →
    s.memBlocked (base.toNat + addr) bytes.length = true →
    ∃ t : State, exec (.cxlMemAccess host addr true bytes) s = .next t ∧ t.run = s.run ∧ { t.mem with stalls := s.mem.stalls } = s.mem ∧
      t.sch = { s.sch with held := s.sch.held ++ [.cxlStore host addr bytes s.sch.nextId], nextId := s.sch.nextId + 1 } ∧
      ∀ p ∈ s.heldPages (base.toNat + addr) bytes.length, t.mem.stalls.any (·.at' p.1 (s.pageOf p.1 p.2) s.sch.nextId) = true) ∧
  (∀ host addr bytes s, exec (.cxlMemAccess host addr false bytes) s = .next s) ∧
  (∀ nonce s, s.sys.loaded = true → exec (.attestationRequest nonce) s =
    .next { s with sys := { s.sys with attest := Config.attestationAnswer s.sys.image nonce } }) ∧
  (∀ nonce s, s.sys.loaded = false → exec (.attestationRequest nonce) s = .next s) ∧
  (∀ hosts s, exec (.glenConfiguration hosts) s = .next { s with sys := { s.sys with devauth := hosts } }) ∧
  (∀ temps s, hottest temps ≤ 1100 → ∃ t : State, exec (.glenSensorPoll temps) s = .next t ∧ { t with sys := s.sys } = s ∧
    t.sys.sensors = temps ∧
    (∀ d, d ∈ t.sys.halved ↔ d < 8 ∧ (1050 < dieTemp temps d ∨ (d ∈ s.sys.halved ∧ 1000 ≤ dieTemp temps d))) ∧
    ∀ p x, Table.get s.sys.parts p = some x → ∃ w, Table.get t.sys.allowance p = some w ∧ w ≤ x.watts ∧
      (hottest temps < 960 → w = x.watts) ∧ (1050 ≤ hottest temps → w = x.watts * 50 / 100)) ∧
  (∀ temps s, 1100 < hottest temps → ∃ t : State, exec (.glenSensorPoll temps) s = .next t ∧ t.sch.powered = false ∧
    t.run = State.reset.run ∧ t.sys.glenSeq = s.sys.glenSeq + 1) ∧
  (∀ image s, imageSigned image = true → exec (.firmwareImage image) s =
    .next { s with sys := { s.sys with pending := some image, recovery := false, failures := 0 } }) ∧
  (∀ image s, imageSigned image = false → ∃ t : State, exec (.firmwareImage image) s = .next t ∧ { t with sys := s.sys } = s ∧
    t.sys.recovery = true ∧ t.sys.pending = s.sys.pending ∧ t.sys.glenSeq = s.sys.glenSeq + 1) ∧
  (∀ s, ∃ t : State, exec .powerLoss s = .next t ∧ t.sch.powered = false ∧ t.run = State.reset.run ∧ t.ctx = State.reset.ctx ∧
    t.eng = State.reset.eng ∧ t.ker = State.reset.ker ∧ t.ckp.flash = s.ckp.flash ∧ t.sys.glenLog = s.sys.glenLog ∧
    t.sys.image = s.sys.image ∧ t.sys.halved = s.sys.halved ∧ t.sys.loaded = false ∧ t.sch.clocks = s.sch.clocks ∧ t.sch.skew.getLsbD 63 = false ∧ t.lnk.absent = s.lnk.absent ∧ t.lnk.rot = s.lnk.rot ∧ t.lnk.refl = s.lnk.refl ∧
    (∀ n x, Table.get s.lnk.dieLinks n = some x → x.st = .down → Table.get t.lnk.dieLinks n = some x) ∧ (∀ k, 2 ^ 64 ≤ k → s.mem.wf = true → t.mem.byte k = s.mem.byte k) ∧
    ∀ k, k < 2 ^ 64 → s.mem.wf = true → t.mem.byte k = 0) ∧
  (∀ absent rot refl s, s.sys.recovery = false → s.imageVerifies = true → (∃ d, d < 8 ∧ d ∉ absent ∧ d ∉ s.lostDies) →
    ∃ (t : State) (now : DWord), exec (.bringUp absent rot refl) s = .next t ∧ t.sch.powered = true ∧ t.run = State.reset.run ∧
      t.ctx = State.reset.ctx ∧ t.ker = State.reset.ker ∧ t.lnk.ports = State.reset.lnk.ports ∧ t.sch.clocks = List.replicate 13 now ∧
      (∀ c ∈ s.sch.clocks, c.toNat ≤ now.toNat) ∧ t.sch.skew.getLsbD 63 = true ∧
      t.sys.image = s.sys.pending.getD s.sys.image ∧ t.sys.pending = none ∧ t.sys.hosts = s.sys.hosts ∧ t.sys.loaded = true ∧
      t.sys.halved = s.sys.halved ∧
      (∀ d, d < 8 → (d ∈ t.lnk.absent ↔ d ∈ absent ∨ d ∈ s.lostDies)) ∧ (s.lostDies = [] → t.lnk.rot = rot % 8 ∧ t.lnk.refl = refl) ∧
      (s.lostDies ≠ [] → t.lnk.rot = s.lnk.rot % 8 ∧ t.lnk.refl = s.lnk.refl) ∧
      ∀ d, d < 8 → (d ∈ absent ∨ d ∈ s.lostDies) → Table.get t.lnk.dieLinks d = some ⟨.down, 4⟩) ∧
  (∀ absent rot refl s, (s.sys.recovery = true ∨ s.imageVerifies = false ∨ ∀ d, d < 8 → d ∈ absent ∨ d ∈ s.lostDies) →
    ∃ t : State, exec (.bringUp absent rot refl) s = .next t ∧ t.sch.powered = false ∧ t.run = State.reset.run ∧
      (s.sys.recovery = true ∨ s.imageVerifies = false → t.sys.recovery = true ∧ t.sys.image = s.sys.image ∧ t.sys.pending = s.sys.pending) ∧
      (s.sys.recovery = false → s.imageVerifies = true → t.sys.failures = s.sys.failures + 1 ∧ (t.sys.recovery = true ↔ 2 ≤ s.sys.failures) ∧
        t.sys.image = s.sys.pending.getD s.sys.image ∧ t.sys.pending = none)) ∧
  (∀ part q record s tr, let x := s.queue q
    let slot := x.base + BitVec.ofNat 64 (64 * (x.wr.toNat % x.size))
    x.cfg.getLsbD 6 = true → x.part = part → x.takes x.ctx = true → record.length = 64 → s.engineWrite x.ctx slot = .ok tr →
    inAperture (tr.key slot) = false → s.mem.views = [] → s.mem.wf = true →
    ∃ t : State, exec (.garbageCollection part q record) s = .next t ∧ t.queue q = { x with wr := x.wr + 1 } ∧ t.run = s.run ∧
      t.mem.bytes (tr.key slot) 64 = record.take 60 ++ leBytes 4 (x.wr.toNat % 2 ^ 32)) ∧
  (∀ part q record s, (s.queue q).takes (s.queue q).ctx = false → exec (.garbageCollection part q record) s = .next s)

/-- R4, R279, R282, R286, R300, R344, R413, R421, R422: where a host's write of a register lands: a register with a behaviour of its own has
that row's; another holds its fields; an offset that no register has is ignored. Before bring-up has finished a command completes with
status 1, and every other write is ignored. -/
def Obligations.RegisterWrites : Prop :=
  (∀ host off v s, (s.sch.powered = false ∧ off ≠ 0xBFFF000) ∨ off % 8 ≠ 0 → exec (.registerWrite host off v) s = .next s) ∧
  (∀ host v s, s.sch.powered = false → s.attached host = true →
    exec (.registerWrite host 0xBFFF000 v) s = .next (s.setPage host { s.page host with stat := 1 })) ∧
  (∀ host off v s, (off < 0x4000 ∨ (0x4200 ≤ off ∧ off < 0x6000) ∨ (0x6300 ≤ off ∧ off < 0x10000) ∨ (0x20200 ≤ off ∧ off < 0x30000)) →
    exec (.registerWrite host off v) s = .next s) ∧
  ∀ host v (s : State), s.sch.powered = true →
    exec (.registerWrite host 0x20000 v) s = exec (.fabcfgWrite host v) s ∧
    (∀ q, q < 1024 → exec (.registerWrite host (0x4000000 + 4096 * q) v) s = exec (.wridxWrite q v) s ∧
      (v.getLsbD 0 = true → exec (.registerWrite host (0x4000018 + 4096 * q) v) s = exec (.queueReset q) s) ∧
      exec (.registerWrite host (0x4000008 + 4096 * q) v) s = .next s ∧
      ((s.queue q).cfg.getLsbD 7 = false → v.getLsbD 7 = true →
        exec (.registerWrite host (0x10000 + 32 * q) v) s = exec (.queueEnable host q v) s) ∧
      ((s.queue q).cfg.getLsbD 7 = true → v.getLsbD 7 = false →
        exec (.registerWrite host (0x10000 + 32 * q) v) s = exec (.queueDisable host q) s) ∧
      ((s.queue q).cfg.getLsbD 7 = false → s.privileged host (s.queue q).part = true →
        exec (.registerWrite host (0x10008 + 32 * q) v) s = .next (s.setQueue q { s.queue q with base := v })) ∧
      ((s.queue q).cfg.getLsbD 7 = true → exec (.registerWrite host (0x10008 + 32 * q) v) s = .next s)) ∧
    (∀ n, n < 16 → (field v 2 0 = 1 → exec (.registerWrite host (0x20100 + 16 * n) v) s = exec (.portTrain host n v) s) ∧
      (field v 2 0 = 4 → exec (.registerWrite host (0x20100 + 16 * n) v) s = exec (.portDown host n v) s)) ∧
    (∀ p, p < 12 → (v.getLsbD 0 = true → exec (.registerWrite host (0x6000 + 64 * p) v) s = exec (.partitionEnable host p v) s) ∧
      exec (.registerWrite host (0x6020 + 64 * p) v) s = exec (.partitionWattsWrite host p v) s ∧
      exec (.registerWrite host (0x80000 + 0x4000 * p) v) s = exec (.cloveShareWrite host p v) s ∧
      exec (.registerWrite host (0x200008 + 16 * p) v) s = exec (.flashRangeWrite host p true v) s) ∧
    (∀ ctx, ctx < 4096 → exec (.registerWrite host (0x30000 + 64 * ctx) v) s =
      (if (s.context ctx).isSome then exec (.sumacEnable host ctx v) s else .next s)) ∧
    (s.attached host = true → exec (.registerWrite host (0x4000000 + 0x7FFF008) v) s = .next (s.setPage host { s.page host with arg := v }) ∧
      exec (.registerWrite host (0x4000000 + 0x7FFF050) v) s = exec (.eventRingHeadWrite host v) s ∧
      (field v 7 0 = 7 → exec (.registerWrite host (0x4000000 + 0x7FFF000) v) s = exec (.suspend host (field v 27 16)) s) ∧
      (field v 7 0 = 12 → exec (.registerWrite host (0x4000000 + 0x7FFF000) v) s = exec (.nonce host (field v 27 16)) s))

/-! ### The whole machine -/

/-- R53 to R58, R63, R71, R72, R95, R214: once every quadrant has chosen, the bundle chosen first runs the instruction that stands at its PC.
Its line is fetched, its parity holds and no comparator stops it: a legal word whose registers are declared is executed by `exec`, then
windows and retirements are counted (`State.close`); two words that pair are executed one after the other, the second on what the group held
before the first wrote, the generator's draws apart; an illegal word traps ILLEGAL_ENCODING in every active lane, a register that is not
declared RESOURCE_BOUND in the guarded ones; a bundle that re-executes from a region entry traps BRANCH_TARGET where the slot is not marked;
a line that cannot be fetched parks the bundle. With no bundle chosen the row at the head of the agenda, or the command of the lowest link
there (R423), is run by `exec`, or waits behind a held write of its link (R279). Last the cores see what was written to the lines they watch
(`State.watch`, R169, R174). -/
def Obligations.StepRunsDecoded : Prop :=
  (∀ s gid m g k ks, let s0 : State := { s with sch := { s.sch with latch := s.sch.latch.tail } }
    let ctx := s0.ctxOf g
    let pc := (g.lane k).pc
    s.sch.latch.head? = some (gid, m) → s.sch.agenda.any Due.choosing = false → s0.group gid = some g → maskLanes m = k :: ks →
    g.st = .resident → s0.halted g m = false → (∀ j ∈ k :: ks, (g.lane j).st = .running ∧ (g.lane j).pc = pc) →
    s0.loggedPark g m = none → pcOk pc = true →
    (∀ c, s0.fetchLine ctx pc = .error c → step s = .next (s0.parkFetch gid m c pc).watch) ∧
    (∀ line, s0.fetchLine ctx pc = .ok line → lineParity line = true →
      let s1 := s0.reentered gid m
      let g1 := g.updLanes m fun l => { l with reenter := false }
      let slot := field pc 2 0
      let w := lineSlot line slot
      let marked : Bool := (lineHead line).getLsbD (17 + slot)
      let i : Issue := ⟨gid, m, pc, pc, w, false, false, none, false, none⟩
      let at' (j : Issue) (t : State) : State := { t with sch := { t.sch with issue := some j } }
      let after (t : State) : State :=
        let u := t.close g1 ctx s.sch.nextId gid m
        ((if u.hasIssued gid g1 m then u.unpass gid pc else u).fetches gid m g.core ctx pc).watch
      ((∃ j ∈ k :: ks, (g.lane j).reenter = true) → marked = false →
        step s = .next ((((at' i (s1.issues gid m)).takeTrap i (i.active.map fun k => (k, .branchTarget, pc))).fetches gid m g.core ctx pc).watch)) ∧
      ((∀ j ∈ k :: ks, (g.lane j).reenter = false) ∨ marked = true → s0.passes gid pc = true ∨ s0.pcHit ctx pc = none →
        (pairsAt line slot g1.width = false ∨ (s0.pcHit ctx (succPc pc)).isSome = true ∨ s0.stopReached g1 m 1 = true →
          (legalWord line w g1.width = true → ∀ ins, decode w = .ok ins →
            (beyond (s1.declared g1).1 (s1.declared g1).2 w = false → ∀ t, exec ins (at' i s1) = .next t → step s = .next (after t)) ∧
            (beyond (s1.declared g1).1 (s1.declared g1).2 w = true → i.guarded g1 (wordHd w) ≠ [] →
              step s = .next (after ((at' i s1).trapGuarded i g1 (wordHd w) .resourceBound 0)))) ∧
          (legalWord line w g1.width = false →
            step s = .next (after ((at' i s1).takeTrap i (i.active.map fun k => (k, .illegalEncoding, 0)))))) ∧
        (pairsAt line slot g1.width = true → s0.pcHit ctx (succPc pc) = none → s0.stopReached g1 m 1 = false →
          let w2 := lineSlot line (slot + 1)
          let i1 : Issue := { i with paired := true }
          ∀ a b t u h, decode w = .ok a → decode w2 = .ok b → beyond (s1.declared g1).1 (s1.declared g1).2 w = false →
            exec a (at' i1 s1) = .next t → t.stopped = false → t.group gid = some h →
            let i2 : Issue := { i with
              pc := succPc pc, word := w2, paired := true, second := true, snap := some (g1.before (some h) w w2) }
            beyond ((at' i2 t).declared h).1 ((at' i2 t).declared h).2 w2 = false →
            exec b (at' i2 t) = .next u → u.stopped = false →
            step s = .next (after (u.updGroup gid fun h => h.countWindows m s.sch.nextId)))))) ∧
  (∀ i r, Due.command (.row i) = none → nextDue (.row i :: r) = some (.row i, r)) ∧
  (∀ s i r, (s.sch.latch = [] ∨ s.sch.agenda.any Due.choosing = true) → nextDue s.sch.agenda = some (.row i, r) →
    let s1 : State := { s with sch := { s.sch with agenda := r, issue := none } }
    ((∀ h, Due.link (.row i) = some h → ∀ d ∈ s.sch.held, Due.link d ≠ some h) → step s = watchOut (exec i s1)) ∧
    (∀ h, Due.link (.row i) = some h → (∃ d ∈ s.sch.held, Due.link d = some h) →
      step s = .next ({ s1 with sch := { s1.sch with held := s.sch.held ++ [.row i] } } : State).watch))

/-- R66, R71, R76 and the worked encodings of the chapters: the words that the manual writes out decode to the instructions that it writes
beside them. -/
def Obligations.DecodeWords : Prop :=
  decodeTableWord 96 0 = some .nop ∧
  decodeTableWord 96 0x0400770000C00400B8038000 = some (.iadd noGuard .i32 false (.v 3) (.v 1) (.v 2)) ∧
  decodeTableWord 96 0x3300771801000400800F8000 = some (.ffma { noGuard with fi := true } .rtz (.v 4) (.v 1) (.v 2) (.v 3)) ∧
  decodeTableWord 96 0x5900770380300700B8038000 = some (.meet noGuard .label (.imm 1) (.imm 2)) ∧
  decodeTableWord 96 0x720077038030078038038000 = some (.bars noGuard .team (.imm 1) .absent .absent .absent) ∧
  decodeTableWord 96 0x80C27720010020008000100B = some (.ld { noGuard with la := 2 } .b32 true .fresh .acq .dev (.v 4) ⟨.v 8, .v 2, 64⟩) ∧
  decodeTableWord 96 0xA800770301580300180980C0 = some (.btl noGuard .dflt false (.imm 5) (.s 0) (.imm 0) (.s 2) (.s 3)) ∧
  decodeTableWord 96 0xB110770300181181700B8000 = some (.mma noGuard .lns6nz false (.imm 0) (.s 4) (.s 5) (.imm 2) .absent) ∧
  decodeTableWord 96 0xC100770200301581B80181C3 = some (.qpost noGuard .dev (.p false 0) (.imm 5) (.s 6) (.s 7)) ∧
  decodeTableWord 96 0xC800770001B01C02300B8000 = some (.svc noGuard (.v 6) (.imm 7) (.v 8) (.imm 2)) ∧
  decodeTableWord 96 0xD800770182181181581981C0 = some (.dsend noGuard (.s 8) (.s 4) (.s 5) (.s 6) (.s 7)) ∧
  decodeTableWord 96 0xE100770001000800F8000140 = some (.sqtok noGuard false false (.v 4) (.v 2) (.v 3) (.v 5)) ∧
  decodeTableWord 96 0xE90077038038000000001400 = some (.brk noGuard 5)

/-- R59 to R62, R66 to R68, R71, R76: an instruction that the encoding admits, written into its word, is read back as itself, with every operand
at every value. -/
def Obligations.EncodeRoundTrip : Prop :=
  ∀ (i : Instr) (w : IWord), i.wf = true → encode i = some w → decode w = .ok i

/-- R60, R62, R67, R68, R71, R117: only well-formed instructions are read, each from the one word that encodes it; the assignments of the map
end below 0xF0; under OPC 0x00 only the word of all zeros, NOP, is legal. -/
def Obligations.OneWordEach : Prop :=
  (∀ (i : Instr) (w : IWord), decode w = .ok i → i.wf = true ∧ encode i = some w) ∧
  (∀ w : IWord, 0xF0 ≤ wordOpc w → ∀ i, decode w ≠ .ok i) ∧
  (∀ w : IWord, wordOpc w = 0 → ∀ i, decode w = .ok i → w = 0 ∧ i = .nop)

/-- No step breaks the canonical form of memory: addresses strictly rising, no entry equal to what an unlisted address reads as. -/
def Obligations.MemoryFormKept : Prop :=
  ∀ s t : State, s.mem.wf = true → step s = .next t → t.mem.wf = true

/-- The memory of the machine right after reset has the canonical form, and every byte reads 0 (log 4: the model's choice). -/
def Obligations.ResetMemoryForm : Prop :=
  State.reset.mem.wf = true ∧ ∀ k, State.reset.mem.byte k = 0

/-- R21, R25, R215, R282, R286, R302, R344, R352, R357, R394, R426, R434: after bring-up nothing is enabled: partitions, windows, queues, ports,
Sumac, checkpoints, debug and flash registers read zero, no context, group, team, kernel or sequence exists, every port is DOWN, and the
counters are aligned. -/
def Obligations.ResetValues : Prop :=
  let s := State.reset
  (∀ p, s.part p = partZero ∧ s.flashRange p = (0, 0)) ∧ (∀ n, s.window n = windowZero) ∧
  (∀ q, s.queue q = queueZero ∧ (s.queue q).st = .disabled) ∧
  (∀ n, (s.port n).st = .down ∧ (s.port n).peer = none ∧ (s.port n).darklim = 0 ∧ (s.port n).limitNs = 1000000000) ∧
  s.lnk.fen = false ∧ s.lnk.fdev = 0 ∧ (∀ c, s.context c = none ∧ s.swRegs c = swZero ∧ s.ck c = ckZero ∧ s.int c = none) ∧
  (∀ p o, s.dbgReg p o = 0) ∧ s.clv.shares = [] ∧ s.clv.shared = [] ∧ s.clv.seqs = [] ∧ s.run.groups = [] ∧ s.run.teams = [] ∧
  s.ker.kernels = [] ∧ s.sum.stubs = [] ∧ s.sum.holds = [] ∧ s.eng.transfers = [] ∧ s.eng.streams = [] ∧
  (∀ c, Table.get s.eng.channels c = none) ∧ s.sys.hosts = [] ∧ s.ctx.raised = [] ∧
  (∀ d e, d < 13 → e < 13 → s.sch.time d = s.sch.time e) ∧ s.sch.skew.getLsbD 63 = true
end

