-- ==== Sys2Proof/Laws/Decode.lean ====
section
/-! SUPPORT. Laws/Decode.lean: the fields of a word and the operand of a field are read back as they were written. -/

namespace Sys2Proof

theorem extract_high {a b : Nat} (x : BitVec a) (y : BitVec b) (s n : Nat) (h : b ≤ s) :
    (x ++ y).extractLsb' s n = x.extractLsb' (s - b) n := by
  apply BitVec.eq_of_getLsbD_eq; intro i hi
  simp [BitVec.getLsbD_append, hi, show ¬ s + i < b by omega, show s + i - b = s - b + i by omega]

theorem extract_low {a b : Nat} (x : BitVec a) (y : BitVec b) (s n : Nat) (h : s + n ≤ b) :
    (x ++ y).extractLsb' s n = y.extractLsb' s n := by
  apply BitVec.eq_of_getLsbD_eq; intro i hi
  simp [BitVec.getLsbD_append, hi, show s + i < b by omega]

/-- The fields that a word was put together from. -/
theorem Raw.ofWord_word (r : Raw) : Raw.ofWord r.word = r := by
  obtain ⟨opc, var, la, ga, gb, gj, md, fi, fo, d, a, b, c, e, x6⟩ := r
  have bits (s n : Nat) : (Raw.word ⟨opc, var, la, ga, gb, gj, md, fi, fo, d, a, b, c, e, x6⟩).extractLsb' s n =
      BitVec.extractLsb' (n := 8 + 4 + 4 + 4 + 4 + 1 + 3 + 1 + 1 + 12 + 12 + 12 + 12 + 12 + 6) s n
        (opc ++ var ++ la ++ ga ++ gb ++ gj ++ md ++ fi ++ fo ++ d ++ a ++ b ++ c ++ e ++ x6) := rfl
  simp only [Raw.ofWord, Raw.mk.injEq, bits]
  refine ⟨?_, ?_, ?_, ?_, ?_, ?_, ?_, ?_, ?_, ?_, ?_, ?_, ?_, ?_, ?_⟩ <;>
    simp (disch := decide) only [extract_high, extract_low] <;> exact BitVec.extractLsb'_eq_self

/-- The decoder reads this operand from its field. -/
def Opnd.returns (x : Opnd) : Bool := match Opnd.ofField x.field with | .ok y => y == x | .error _ => false

theorem Opnd.ofField_of_returns {x : Opnd} (h : x.returns = true) : Opnd.ofField x.field = .ok x := by
  unfold Opnd.returns at h
  split at h
  · rename_i y e; rw [e, eq_of_beq h]
  · cases h

/-- The operand that a field names. -/
theorem Opnd.ofField_field (x : Opnd) : Opnd.ofField x.field = .ok x := by
  apply Opnd.ofField_of_returns
  cases x with
  | v i => revert i; decide +kernel
  | o i => revert i; decide +kernel
  | a i => revert i; decide +kernel
  | s i => revert i; decide +kernel
  | p n i => revert n i; decide +kernel
  | sp i => revert i; decide +kernel
  | imm i => revert i; decide +kernel
  | absent => decide +kernel

end Sys2Proof
end

