-- ==== Sys2Proof/Laws/State.lean ====
section
/-! SUPPORT. Laws/State.lean: what each small update of the state leaves alone, one lemma for each field, and what a table or the state
gives back after an update. -/

namespace Sys2Proof.Machine

/-! ### Tables -/

@[simp] theorem Table.get_set_self {α : Type} (t : Table α) (k : Nat) (x : α) : Table.get (Table.set t k x) k = some x := by
  induction t with
  | nil => simp [Table.set, Table.get]
  | cons c r ih =>
    obtain ⟨j, w⟩ := c
    by_cases h : j = k <;> simp [Table.set, Table.get, h, ih]

@[simp] theorem Table.get_set_ne {α : Type} (t : Table α) {k j : Nat} (x : α) (h : j ≠ k) : Table.get (Table.set t k x) j = Table.get t j := by
  induction t with
  | nil => simp [Table.set, Table.get, Ne.symm h]
  | cons c r ih =>
    obtain ⟨i, w⟩ := c
    by_cases hi : i = k
    · subst hi; simp [Table.set, Table.get, Ne.symm h]
    · by_cases hj : i = j <;> simp_all [Table.set, Table.get]

@[simp] theorem Table.get_del_self {α : Type} (t : Table α) (k : Nat) : Table.get (Table.del t k) k = none := by
  induction t with
  | nil => rfl
  | cons c r ih =>
    obtain ⟨j, w⟩ := c
    by_cases h : j = k <;> simp [Table.del, Table.get, h, ih]

@[simp] theorem Table.get_del_ne {α : Type} (t : Table α) {k j : Nat} (h : j ≠ k) : Table.get (Table.del t k) j = Table.get t j := by
  induction t with
  | nil => rfl
  | cons c r ih =>
    obtain ⟨i, w⟩ := c
    by_cases hi : i = k
    · subst hi; simp [Table.del, Table.get, Ne.symm h, ih]
    · by_cases hj : i = j <;> simp_all [Table.del, Table.get]

@[simp] theorem Table.get_upd_self {α : Type} (t : Table α) (k : Nat) (f : α → α) : Table.get (Table.upd t k f) k = (Table.get t k).map f := by
  induction t with
  | nil => rfl
  | cons c r ih =>
    obtain ⟨j, w⟩ := c
    by_cases h : j = k <;> simp [Table.upd, Table.get, h, ih]

@[simp] theorem Table.get_upd_ne {α : Type} (t : Table α) {k j : Nat} (f : α → α) (h : j ≠ k) : Table.get (Table.upd t k f) j = Table.get t j := by
  induction t with
  | nil => rfl
  | cons c r ih =>
    obtain ⟨i, w⟩ := c
    by_cases hi : i = k
    · subst hi; simp [Table.upd, Table.get, Ne.symm h]
    · by_cases hj : i = j <;> simp_all [Table.upd, Table.get]

/-! ### What is read back -/

@[simp] theorem State.group_setGroup (s : State) (gid : Nat) (g : Group) : (s.setGroup gid g).group gid = some g := Table.get_set_self _ _ _
@[simp] theorem State.group_setGroup_ne (s : State) {gid k : Nat} (g : Group) (h : k ≠ gid) : (s.setGroup gid g).group k = s.group k :=
  Table.get_set_ne _ _ h
@[simp] theorem State.group_updGroup (s : State) (gid : Nat) (f : Group → Group) : (s.updGroup gid f).group gid = (s.group gid).map f :=
  Table.get_upd_self _ _ _
@[simp] theorem State.group_updGroup_ne (s : State) {gid k : Nat} (f : Group → Group) (h : k ≠ gid) :
    (s.updGroup gid f).group k = s.group k := Table.get_upd_ne _ _ h
@[simp] theorem State.queue_setQueue (s : State) (q : Nat) (x : Queue) : (s.setQueue q x).queue q = x := by
  simp [State.queue, State.setQueue]
@[simp] theorem State.page_setPage (s : State) (host : Nat) (p : CmdPage) : (s.setPage host p).page host = p := by
  simp [State.page, State.setPage]
@[simp] theorem State.context_setContext (s : State) (n : Nat) (c : Context) : (s.setContext n c).context n = some c := Table.get_set_self _ _ _
@[simp] theorem State.stub_setStub (s : State) (n : Nat) (x : Stub) : (s.setStub n x).stub n = some x := Table.get_set_self _ _ _
@[simp] theorem State.ck_setCk (s : State) (ctx : Nat) (r : CkRegs) : (s.setCk ctx r).ck ctx = r := by
  simp [State.ck, State.setCk]
@[simp] theorem State.int_setInt (s : State) (ctx : Nat) (x : Interval) : (s.setInt ctx x).int ctx = some x := Table.get_set_self _ _ _
@[simp] theorem State.part_setPart (s : State) (p : Nat) (x : Partition) : (s.setPart p x).part p = x := by
  simp [State.part, State.setPart]
@[simp] theorem State.window_setWindow (s : State) (n : Nat) (w : Window) : (s.setWindow n w).window n = w := by
  simp [State.window, State.setWindow]
@[simp] theorem State.flashRange_setFlash (s : State) (p : Nat) (r : DWord × DWord) : (s.setFlash p r).flashRange p = r := by
  simp [State.flashRange, State.setFlash]
/-- A change of links changes, beside the links: accesses that end, the clocks, and Glen's log. -/
theorem State.setLinks_frame (s : State) (l : Links) :
    ∃ r c y n, s.setLinks l = { s with lnk := { l with generation := n }, run := r, sch := c, sys := y } := by
  unfold State.setLinks
  simp only
  split
  · exact ⟨_, _, s.sys, _, rfl⟩
  · exact ⟨_, _, _, _, rfl⟩
@[simp] theorem State.port_setPort (s : State) (n : Nat) (p : Port) : (s.setPort n p).port n = p := by
  obtain ⟨_, _, _, _, h⟩ := s.setLinks_frame { s.lnk with ports := Table.set s.lnk.ports n p }
  simp [State.port, State.setPort, h]

/-! ### What each update leaves alone -/

@[simp] theorem State.sch_setGroup (s : State) (gid : Nat) (g : Group) : (s.setGroup gid g).sch = s.sch := rfl
@[simp] theorem State.mem_setGroup (s : State) (gid : Nat) (g : Group) : (s.setGroup gid g).mem = s.mem := rfl
@[simp] theorem State.eng_setGroup (s : State) (gid : Nat) (g : Group) : (s.setGroup gid g).eng = s.eng := rfl
@[simp] theorem State.ker_setGroup (s : State) (gid : Nat) (g : Group) : (s.setGroup gid g).ker = s.ker := rfl
@[simp] theorem State.ctx_setGroup (s : State) (gid : Nat) (g : Group) : (s.setGroup gid g).ctx = s.ctx := rfl
@[simp] theorem State.lnk_setGroup (s : State) (gid : Nat) (g : Group) : (s.setGroup gid g).lnk = s.lnk := rfl
@[simp] theorem State.sum_setGroup (s : State) (gid : Nat) (g : Group) : (s.setGroup gid g).sum = s.sum := rfl
@[simp] theorem State.clv_setGroup (s : State) (gid : Nat) (g : Group) : (s.setGroup gid g).clv = s.clv := rfl
@[simp] theorem State.ckp_setGroup (s : State) (gid : Nat) (g : Group) : (s.setGroup gid g).ckp = s.ckp := rfl
@[simp] theorem State.sys_setGroup (s : State) (gid : Nat) (g : Group) : (s.setGroup gid g).sys = s.sys := rfl

@[simp] theorem State.sch_updGroup (s : State) (gid : Nat) (f : Group → Group) : (s.updGroup gid f).sch = s.sch := rfl
@[simp] theorem State.mem_updGroup (s : State) (gid : Nat) (f : Group → Group) : (s.updGroup gid f).mem = s.mem := rfl
@[simp] theorem State.eng_updGroup (s : State) (gid : Nat) (f : Group → Group) : (s.updGroup gid f).eng = s.eng := rfl
@[simp] theorem State.ker_updGroup (s : State) (gid : Nat) (f : Group → Group) : (s.updGroup gid f).ker = s.ker := rfl
@[simp] theorem State.ctx_updGroup (s : State) (gid : Nat) (f : Group → Group) : (s.updGroup gid f).ctx = s.ctx := rfl
@[simp] theorem State.lnk_updGroup (s : State) (gid : Nat) (f : Group → Group) : (s.updGroup gid f).lnk = s.lnk := rfl
@[simp] theorem State.sum_updGroup (s : State) (gid : Nat) (f : Group → Group) : (s.updGroup gid f).sum = s.sum := rfl
@[simp] theorem State.clv_updGroup (s : State) (gid : Nat) (f : Group → Group) : (s.updGroup gid f).clv = s.clv := rfl
@[simp] theorem State.ckp_updGroup (s : State) (gid : Nat) (f : Group → Group) : (s.updGroup gid f).ckp = s.ckp := rfl
@[simp] theorem State.sys_updGroup (s : State) (gid : Nat) (f : Group → Group) : (s.updGroup gid f).sys = s.sys := rfl

@[simp] theorem State.sch_setTeam (s : State) (k : Nat) (x : Team) : (s.setTeam k x).sch = s.sch := rfl
@[simp] theorem State.mem_setTeam (s : State) (k : Nat) (x : Team) : (s.setTeam k x).mem = s.mem := rfl
@[simp] theorem State.eng_setTeam (s : State) (k : Nat) (x : Team) : (s.setTeam k x).eng = s.eng := rfl
@[simp] theorem State.ker_setTeam (s : State) (k : Nat) (x : Team) : (s.setTeam k x).ker = s.ker := rfl
@[simp] theorem State.ctx_setTeam (s : State) (k : Nat) (x : Team) : (s.setTeam k x).ctx = s.ctx := rfl
@[simp] theorem State.lnk_setTeam (s : State) (k : Nat) (x : Team) : (s.setTeam k x).lnk = s.lnk := rfl
@[simp] theorem State.sum_setTeam (s : State) (k : Nat) (x : Team) : (s.setTeam k x).sum = s.sum := rfl
@[simp] theorem State.clv_setTeam (s : State) (k : Nat) (x : Team) : (s.setTeam k x).clv = s.clv := rfl
@[simp] theorem State.ckp_setTeam (s : State) (k : Nat) (x : Team) : (s.setTeam k x).ckp = s.ckp := rfl
@[simp] theorem State.sys_setTeam (s : State) (k : Nat) (x : Team) : (s.setTeam k x).sys = s.sys := rfl

@[simp] theorem State.sch_setTile (s : State) (team k : Nat) (x : Tile) : (s.setTile team k x).sch = s.sch := rfl
@[simp] theorem State.mem_setTile (s : State) (team k : Nat) (x : Tile) : (s.setTile team k x).mem = s.mem := rfl
@[simp] theorem State.eng_setTile (s : State) (team k : Nat) (x : Tile) : (s.setTile team k x).eng = s.eng := rfl
@[simp] theorem State.ker_setTile (s : State) (team k : Nat) (x : Tile) : (s.setTile team k x).ker = s.ker := rfl
@[simp] theorem State.ctx_setTile (s : State) (team k : Nat) (x : Tile) : (s.setTile team k x).ctx = s.ctx := rfl
@[simp] theorem State.lnk_setTile (s : State) (team k : Nat) (x : Tile) : (s.setTile team k x).lnk = s.lnk := rfl
@[simp] theorem State.sum_setTile (s : State) (team k : Nat) (x : Tile) : (s.setTile team k x).sum = s.sum := rfl
@[simp] theorem State.clv_setTile (s : State) (team k : Nat) (x : Tile) : (s.setTile team k x).clv = s.clv := rfl
@[simp] theorem State.ckp_setTile (s : State) (team k : Nat) (x : Tile) : (s.setTile team k x).ckp = s.ckp := rfl
@[simp] theorem State.sys_setTile (s : State) (team k : Nat) (x : Tile) : (s.setTile team k x).sys = s.sys := rfl

@[simp] theorem State.sch_setSp (s : State) (team off : Nat) (b : List Byte) : (s.setSp team off b).sch = s.sch := rfl
@[simp] theorem State.mem_setSp (s : State) (team off : Nat) (b : List Byte) : (s.setSp team off b).mem = s.mem := rfl
@[simp] theorem State.eng_setSp (s : State) (team off : Nat) (b : List Byte) : (s.setSp team off b).eng = s.eng := rfl
@[simp] theorem State.ker_setSp (s : State) (team off : Nat) (b : List Byte) : (s.setSp team off b).ker = s.ker := rfl
@[simp] theorem State.ctx_setSp (s : State) (team off : Nat) (b : List Byte) : (s.setSp team off b).ctx = s.ctx := rfl
@[simp] theorem State.lnk_setSp (s : State) (team off : Nat) (b : List Byte) : (s.setSp team off b).lnk = s.lnk := rfl
@[simp] theorem State.sum_setSp (s : State) (team off : Nat) (b : List Byte) : (s.setSp team off b).sum = s.sum := rfl
@[simp] theorem State.clv_setSp (s : State) (team off : Nat) (b : List Byte) : (s.setSp team off b).clv = s.clv := rfl
@[simp] theorem State.ckp_setSp (s : State) (team off : Nat) (b : List Byte) : (s.setSp team off b).ckp = s.ckp := rfl
@[simp] theorem State.sys_setSp (s : State) (team off : Nat) (b : List Byte) : (s.setSp team off b).sys = s.sys := rfl

@[simp] theorem State.sch_setAccess (s : State) (id : Nat) (a : Access) : (s.setAccess id a).sch = s.sch := rfl
@[simp] theorem State.mem_setAccess (s : State) (id : Nat) (a : Access) : (s.setAccess id a).mem = s.mem := rfl
@[simp] theorem State.eng_setAccess (s : State) (id : Nat) (a : Access) : (s.setAccess id a).eng = s.eng := rfl
@[simp] theorem State.ker_setAccess (s : State) (id : Nat) (a : Access) : (s.setAccess id a).ker = s.ker := rfl
@[simp] theorem State.ctx_setAccess (s : State) (id : Nat) (a : Access) : (s.setAccess id a).ctx = s.ctx := rfl
@[simp] theorem State.lnk_setAccess (s : State) (id : Nat) (a : Access) : (s.setAccess id a).lnk = s.lnk := rfl
@[simp] theorem State.sum_setAccess (s : State) (id : Nat) (a : Access) : (s.setAccess id a).sum = s.sum := rfl
@[simp] theorem State.clv_setAccess (s : State) (id : Nat) (a : Access) : (s.setAccess id a).clv = s.clv := rfl
@[simp] theorem State.ckp_setAccess (s : State) (id : Nat) (a : Access) : (s.setAccess id a).ckp = s.ckp := rfl
@[simp] theorem State.sys_setAccess (s : State) (id : Nat) (a : Access) : (s.setAccess id a).sys = s.sys := rfl

@[simp] theorem State.sch_endAccess (s : State) (id : Nat) : (s.endAccess id).sch = s.sch := rfl
@[simp] theorem State.mem_endAccess (s : State) (id : Nat) : (s.endAccess id).mem = s.mem := rfl
@[simp] theorem State.eng_endAccess (s : State) (id : Nat) : (s.endAccess id).eng = s.eng := rfl
@[simp] theorem State.ker_endAccess (s : State) (id : Nat) : (s.endAccess id).ker = s.ker := rfl
@[simp] theorem State.ctx_endAccess (s : State) (id : Nat) : (s.endAccess id).ctx = s.ctx := rfl
@[simp] theorem State.lnk_endAccess (s : State) (id : Nat) : (s.endAccess id).lnk = s.lnk := rfl
@[simp] theorem State.sum_endAccess (s : State) (id : Nat) : (s.endAccess id).sum = s.sum := rfl
@[simp] theorem State.clv_endAccess (s : State) (id : Nat) : (s.endAccess id).clv = s.clv := rfl
@[simp] theorem State.ckp_endAccess (s : State) (id : Nat) : (s.endAccess id).ckp = s.ckp := rfl
@[simp] theorem State.sys_endAccess (s : State) (id : Nat) : (s.endAccess id).sys = s.sys := rfl

@[simp] theorem State.sch_setOp (s : State) (id : Nat) (x : TileOp) : (s.setOp id x).sch = s.sch := rfl
@[simp] theorem State.mem_setOp (s : State) (id : Nat) (x : TileOp) : (s.setOp id x).mem = s.mem := rfl
@[simp] theorem State.run_setOp (s : State) (id : Nat) (x : TileOp) : (s.setOp id x).run = s.run := rfl
@[simp] theorem State.ker_setOp (s : State) (id : Nat) (x : TileOp) : (s.setOp id x).ker = s.ker := rfl
@[simp] theorem State.ctx_setOp (s : State) (id : Nat) (x : TileOp) : (s.setOp id x).ctx = s.ctx := rfl
@[simp] theorem State.lnk_setOp (s : State) (id : Nat) (x : TileOp) : (s.setOp id x).lnk = s.lnk := rfl
@[simp] theorem State.sum_setOp (s : State) (id : Nat) (x : TileOp) : (s.setOp id x).sum = s.sum := rfl
@[simp] theorem State.clv_setOp (s : State) (id : Nat) (x : TileOp) : (s.setOp id x).clv = s.clv := rfl
@[simp] theorem State.ckp_setOp (s : State) (id : Nat) (x : TileOp) : (s.setOp id x).ckp = s.ckp := rfl
@[simp] theorem State.sys_setOp (s : State) (id : Nat) (x : TileOp) : (s.setOp id x).sys = s.sys := rfl

@[simp] theorem State.sch_setTransfer (s : State) (id : Nat) (x : Transfer) : (s.setTransfer id x).sch = s.sch := rfl
@[simp] theorem State.mem_setTransfer (s : State) (id : Nat) (x : Transfer) : (s.setTransfer id x).mem = s.mem := rfl
@[simp] theorem State.run_setTransfer (s : State) (id : Nat) (x : Transfer) : (s.setTransfer id x).run = s.run := rfl
@[simp] theorem State.ker_setTransfer (s : State) (id : Nat) (x : Transfer) : (s.setTransfer id x).ker = s.ker := rfl
@[simp] theorem State.ctx_setTransfer (s : State) (id : Nat) (x : Transfer) : (s.setTransfer id x).ctx = s.ctx := rfl
@[simp] theorem State.lnk_setTransfer (s : State) (id : Nat) (x : Transfer) : (s.setTransfer id x).lnk = s.lnk := rfl
@[simp] theorem State.sum_setTransfer (s : State) (id : Nat) (x : Transfer) : (s.setTransfer id x).sum = s.sum := rfl
@[simp] theorem State.clv_setTransfer (s : State) (id : Nat) (x : Transfer) : (s.setTransfer id x).clv = s.clv := rfl
@[simp] theorem State.ckp_setTransfer (s : State) (id : Nat) (x : Transfer) : (s.setTransfer id x).ckp = s.ckp := rfl
@[simp] theorem State.sys_setTransfer (s : State) (id : Nat) (x : Transfer) : (s.setTransfer id x).sys = s.sys := rfl

@[simp] theorem State.sch_setStream (s : State) (id : Nat) (x : Stream) : (s.setStream id x).sch = s.sch := rfl
@[simp] theorem State.mem_setStream (s : State) (id : Nat) (x : Stream) : (s.setStream id x).mem = s.mem := rfl
@[simp] theorem State.run_setStream (s : State) (id : Nat) (x : Stream) : (s.setStream id x).run = s.run := rfl
@[simp] theorem State.ker_setStream (s : State) (id : Nat) (x : Stream) : (s.setStream id x).ker = s.ker := rfl
@[simp] theorem State.ctx_setStream (s : State) (id : Nat) (x : Stream) : (s.setStream id x).ctx = s.ctx := rfl
@[simp] theorem State.lnk_setStream (s : State) (id : Nat) (x : Stream) : (s.setStream id x).lnk = s.lnk := rfl
@[simp] theorem State.sum_setStream (s : State) (id : Nat) (x : Stream) : (s.setStream id x).sum = s.sum := rfl
@[simp] theorem State.clv_setStream (s : State) (id : Nat) (x : Stream) : (s.setStream id x).clv = s.clv := rfl
@[simp] theorem State.ckp_setStream (s : State) (id : Nat) (x : Stream) : (s.setStream id x).ckp = s.ckp := rfl
@[simp] theorem State.sys_setStream (s : State) (id : Nat) (x : Stream) : (s.setStream id x).sys = s.sys := rfl

@[simp] theorem State.sch_setChan (s : State) (k : Nat) (c : Channel) : (s.setChan k c).sch = s.sch := rfl
@[simp] theorem State.mem_setChan (s : State) (k : Nat) (c : Channel) : (s.setChan k c).mem = s.mem := rfl
@[simp] theorem State.run_setChan (s : State) (k : Nat) (c : Channel) : (s.setChan k c).run = s.run := rfl
@[simp] theorem State.ker_setChan (s : State) (k : Nat) (c : Channel) : (s.setChan k c).ker = s.ker := rfl
@[simp] theorem State.ctx_setChan (s : State) (k : Nat) (c : Channel) : (s.setChan k c).ctx = s.ctx := rfl
@[simp] theorem State.lnk_setChan (s : State) (k : Nat) (c : Channel) : (s.setChan k c).lnk = s.lnk := rfl
@[simp] theorem State.sum_setChan (s : State) (k : Nat) (c : Channel) : (s.setChan k c).sum = s.sum := rfl
@[simp] theorem State.clv_setChan (s : State) (k : Nat) (c : Channel) : (s.setChan k c).clv = s.clv := rfl
@[simp] theorem State.ckp_setChan (s : State) (k : Nat) (c : Channel) : (s.setChan k c).ckp = s.ckp := rfl
@[simp] theorem State.sys_setChan (s : State) (k : Nat) (c : Channel) : (s.setChan k c).sys = s.sys := rfl

@[simp] theorem State.sch_takeSlot (s : State) (r : Record) (id : Nat) : (s.takeSlot r id).sch = s.sch := rfl
@[simp] theorem State.mem_takeSlot (s : State) (r : Record) (id : Nat) : (s.takeSlot r id).mem = s.mem := rfl
@[simp] theorem State.run_takeSlot (s : State) (r : Record) (id : Nat) : (s.takeSlot r id).run = s.run := rfl
@[simp] theorem State.eng_takeSlot (s : State) (r : Record) (id : Nat) : (s.takeSlot r id).eng = s.eng := rfl
@[simp] theorem State.ker_takeSlot (s : State) (r : Record) (id : Nat) : (s.takeSlot r id).ker = s.ker := rfl
@[simp] theorem State.lnk_takeSlot (s : State) (r : Record) (id : Nat) : (s.takeSlot r id).lnk = s.lnk := rfl
@[simp] theorem State.sum_takeSlot (s : State) (r : Record) (id : Nat) : (s.takeSlot r id).sum = s.sum := rfl
@[simp] theorem State.clv_takeSlot (s : State) (r : Record) (id : Nat) : (s.takeSlot r id).clv = s.clv := rfl
@[simp] theorem State.ckp_takeSlot (s : State) (r : Record) (id : Nat) : (s.takeSlot r id).ckp = s.ckp := rfl
@[simp] theorem State.sys_takeSlot (s : State) (r : Record) (id : Nat) : (s.takeSlot r id).sys = s.sys := rfl

@[simp] theorem State.sch_freeSlot (s : State) (id : Nat) : (s.freeSlot id).sch = s.sch := rfl
@[simp] theorem State.mem_freeSlot (s : State) (id : Nat) : (s.freeSlot id).mem = s.mem := rfl
@[simp] theorem State.run_freeSlot (s : State) (id : Nat) : (s.freeSlot id).run = s.run := rfl
@[simp] theorem State.eng_freeSlot (s : State) (id : Nat) : (s.freeSlot id).eng = s.eng := rfl
@[simp] theorem State.ker_freeSlot (s : State) (id : Nat) : (s.freeSlot id).ker = s.ker := rfl
@[simp] theorem State.lnk_freeSlot (s : State) (id : Nat) : (s.freeSlot id).lnk = s.lnk := rfl
@[simp] theorem State.sum_freeSlot (s : State) (id : Nat) : (s.freeSlot id).sum = s.sum := rfl
@[simp] theorem State.clv_freeSlot (s : State) (id : Nat) : (s.freeSlot id).clv = s.clv := rfl
@[simp] theorem State.ckp_freeSlot (s : State) (id : Nat) : (s.freeSlot id).ckp = s.ckp := rfl
@[simp] theorem State.sys_freeSlot (s : State) (id : Nat) : (s.freeSlot id).sys = s.sys := rfl

@[simp] theorem State.mem_setIssue (s : State) (f : Issue → Issue) : (s.setIssue f).mem = s.mem := rfl
@[simp] theorem State.run_setIssue (s : State) (f : Issue → Issue) : (s.setIssue f).run = s.run := rfl
@[simp] theorem State.eng_setIssue (s : State) (f : Issue → Issue) : (s.setIssue f).eng = s.eng := rfl
@[simp] theorem State.ker_setIssue (s : State) (f : Issue → Issue) : (s.setIssue f).ker = s.ker := rfl
@[simp] theorem State.ctx_setIssue (s : State) (f : Issue → Issue) : (s.setIssue f).ctx = s.ctx := rfl
@[simp] theorem State.lnk_setIssue (s : State) (f : Issue → Issue) : (s.setIssue f).lnk = s.lnk := rfl
@[simp] theorem State.sum_setIssue (s : State) (f : Issue → Issue) : (s.setIssue f).sum = s.sum := rfl
@[simp] theorem State.clv_setIssue (s : State) (f : Issue → Issue) : (s.setIssue f).clv = s.clv := rfl
@[simp] theorem State.ckp_setIssue (s : State) (f : Issue → Issue) : (s.setIssue f).ckp = s.ckp := rfl
@[simp] theorem State.sys_setIssue (s : State) (f : Issue → Issue) : (s.setIssue f).sys = s.sys := rfl

@[simp] theorem State.sch_dropOp (s : State) (id : Nat) : (s.dropOp id).sch = s.sch := rfl
@[simp] theorem State.mem_dropOp (s : State) (id : Nat) : (s.dropOp id).mem = s.mem := rfl
@[simp] theorem State.run_dropOp (s : State) (id : Nat) : (s.dropOp id).run = s.run := rfl
@[simp] theorem State.ker_dropOp (s : State) (id : Nat) : (s.dropOp id).ker = s.ker := rfl
@[simp] theorem State.ctx_dropOp (s : State) (id : Nat) : (s.dropOp id).ctx = s.ctx := rfl
@[simp] theorem State.lnk_dropOp (s : State) (id : Nat) : (s.dropOp id).lnk = s.lnk := rfl
@[simp] theorem State.sum_dropOp (s : State) (id : Nat) : (s.dropOp id).sum = s.sum := rfl
@[simp] theorem State.clv_dropOp (s : State) (id : Nat) : (s.dropOp id).clv = s.clv := rfl
@[simp] theorem State.ckp_dropOp (s : State) (id : Nat) : (s.dropOp id).ckp = s.ckp := rfl
@[simp] theorem State.sys_dropOp (s : State) (id : Nat) : (s.dropOp id).sys = s.sys := rfl

@[simp] theorem State.sch_setQueue (s : State) (q : Nat) (x : Queue) : (s.setQueue q x).sch = s.sch := rfl
@[simp] theorem State.mem_setQueue (s : State) (q : Nat) (x : Queue) : (s.setQueue q x).mem = s.mem := rfl
@[simp] theorem State.run_setQueue (s : State) (q : Nat) (x : Queue) : (s.setQueue q x).run = s.run := rfl
@[simp] theorem State.eng_setQueue (s : State) (q : Nat) (x : Queue) : (s.setQueue q x).eng = s.eng := rfl
@[simp] theorem State.ctx_setQueue (s : State) (q : Nat) (x : Queue) : (s.setQueue q x).ctx = s.ctx := rfl
@[simp] theorem State.lnk_setQueue (s : State) (q : Nat) (x : Queue) : (s.setQueue q x).lnk = s.lnk := rfl
@[simp] theorem State.sum_setQueue (s : State) (q : Nat) (x : Queue) : (s.setQueue q x).sum = s.sum := rfl
@[simp] theorem State.clv_setQueue (s : State) (q : Nat) (x : Queue) : (s.setQueue q x).clv = s.clv := rfl
@[simp] theorem State.ckp_setQueue (s : State) (q : Nat) (x : Queue) : (s.setQueue q x).ckp = s.ckp := rfl
@[simp] theorem State.sys_setQueue (s : State) (q : Nat) (x : Queue) : (s.setQueue q x).sys = s.sys := rfl

@[simp] theorem State.sch_setPage (s : State) (host : Nat) (p : CmdPage) : (s.setPage host p).sch = s.sch := rfl
@[simp] theorem State.mem_setPage (s : State) (host : Nat) (p : CmdPage) : (s.setPage host p).mem = s.mem := rfl
@[simp] theorem State.run_setPage (s : State) (host : Nat) (p : CmdPage) : (s.setPage host p).run = s.run := rfl
@[simp] theorem State.eng_setPage (s : State) (host : Nat) (p : CmdPage) : (s.setPage host p).eng = s.eng := rfl
@[simp] theorem State.ker_setPage (s : State) (host : Nat) (p : CmdPage) : (s.setPage host p).ker = s.ker := rfl
@[simp] theorem State.lnk_setPage (s : State) (host : Nat) (p : CmdPage) : (s.setPage host p).lnk = s.lnk := rfl
@[simp] theorem State.sum_setPage (s : State) (host : Nat) (p : CmdPage) : (s.setPage host p).sum = s.sum := rfl
@[simp] theorem State.clv_setPage (s : State) (host : Nat) (p : CmdPage) : (s.setPage host p).clv = s.clv := rfl
@[simp] theorem State.ckp_setPage (s : State) (host : Nat) (p : CmdPage) : (s.setPage host p).ckp = s.ckp := rfl
@[simp] theorem State.sys_setPage (s : State) (host : Nat) (p : CmdPage) : (s.setPage host p).sys = s.sys := rfl

@[simp] theorem State.sch_setContext (s : State) (n : Nat) (c : Context) : (s.setContext n c).sch = s.sch := rfl
@[simp] theorem State.mem_setContext (s : State) (n : Nat) (c : Context) : (s.setContext n c).mem = s.mem := rfl
@[simp] theorem State.run_setContext (s : State) (n : Nat) (c : Context) : (s.setContext n c).run = s.run := rfl
@[simp] theorem State.eng_setContext (s : State) (n : Nat) (c : Context) : (s.setContext n c).eng = s.eng := rfl
@[simp] theorem State.ker_setContext (s : State) (n : Nat) (c : Context) : (s.setContext n c).ker = s.ker := rfl
@[simp] theorem State.lnk_setContext (s : State) (n : Nat) (c : Context) : (s.setContext n c).lnk = s.lnk := rfl
@[simp] theorem State.sum_setContext (s : State) (n : Nat) (c : Context) : (s.setContext n c).sum = s.sum := rfl
@[simp] theorem State.clv_setContext (s : State) (n : Nat) (c : Context) : (s.setContext n c).clv = s.clv := rfl
@[simp] theorem State.ckp_setContext (s : State) (n : Nat) (c : Context) : (s.setContext n c).ckp = s.ckp := rfl
@[simp] theorem State.sys_setContext (s : State) (n : Nat) (c : Context) : (s.setContext n c).sys = s.sys := rfl

@[simp] theorem State.sch_updContext (s : State) (n : Nat) (f : Context → Context) : (s.updContext n f).sch = s.sch := rfl
@[simp] theorem State.mem_updContext (s : State) (n : Nat) (f : Context → Context) : (s.updContext n f).mem = s.mem := rfl
@[simp] theorem State.run_updContext (s : State) (n : Nat) (f : Context → Context) : (s.updContext n f).run = s.run := rfl
@[simp] theorem State.eng_updContext (s : State) (n : Nat) (f : Context → Context) : (s.updContext n f).eng = s.eng := rfl
@[simp] theorem State.ker_updContext (s : State) (n : Nat) (f : Context → Context) : (s.updContext n f).ker = s.ker := rfl
@[simp] theorem State.lnk_updContext (s : State) (n : Nat) (f : Context → Context) : (s.updContext n f).lnk = s.lnk := rfl
@[simp] theorem State.sum_updContext (s : State) (n : Nat) (f : Context → Context) : (s.updContext n f).sum = s.sum := rfl
@[simp] theorem State.clv_updContext (s : State) (n : Nat) (f : Context → Context) : (s.updContext n f).clv = s.clv := rfl
@[simp] theorem State.ckp_updContext (s : State) (n : Nat) (f : Context → Context) : (s.updContext n f).ckp = s.ckp := rfl
@[simp] theorem State.sys_updContext (s : State) (n : Nat) (f : Context → Context) : (s.updContext n f).sys = s.sys := rfl

@[simp] theorem State.mem_setLinks (s : State) (l : Links) : (s.setLinks l).mem = s.mem := by
  obtain ⟨_, _, _, _, h⟩ := s.setLinks_frame l; rw [h]
@[simp] theorem State.eng_setLinks (s : State) (l : Links) : (s.setLinks l).eng = s.eng := by
  obtain ⟨_, _, _, _, h⟩ := s.setLinks_frame l; rw [h]
@[simp] theorem State.ker_setLinks (s : State) (l : Links) : (s.setLinks l).ker = s.ker := by
  obtain ⟨_, _, _, _, h⟩ := s.setLinks_frame l; rw [h]
@[simp] theorem State.ctx_setLinks (s : State) (l : Links) : (s.setLinks l).ctx = s.ctx := by
  obtain ⟨_, _, _, _, h⟩ := s.setLinks_frame l; rw [h]
@[simp] theorem State.sum_setLinks (s : State) (l : Links) : (s.setLinks l).sum = s.sum := by
  obtain ⟨_, _, _, _, h⟩ := s.setLinks_frame l; rw [h]
@[simp] theorem State.clv_setLinks (s : State) (l : Links) : (s.setLinks l).clv = s.clv := by
  obtain ⟨_, _, _, _, h⟩ := s.setLinks_frame l; rw [h]
@[simp] theorem State.ckp_setLinks (s : State) (l : Links) : (s.setLinks l).ckp = s.ckp := by
  obtain ⟨_, _, _, _, h⟩ := s.setLinks_frame l; rw [h]

@[simp] theorem State.mem_setPort (s : State) (n : Nat) (p : Port) : (s.setPort n p).mem = s.mem := by
  obtain ⟨_, _, _, _, h⟩ := s.setLinks_frame { s.lnk with ports := Table.set s.lnk.ports n p }; rw [State.setPort, h]
@[simp] theorem State.eng_setPort (s : State) (n : Nat) (p : Port) : (s.setPort n p).eng = s.eng := by
  obtain ⟨_, _, _, _, h⟩ := s.setLinks_frame { s.lnk with ports := Table.set s.lnk.ports n p }; rw [State.setPort, h]
@[simp] theorem State.ker_setPort (s : State) (n : Nat) (p : Port) : (s.setPort n p).ker = s.ker := by
  obtain ⟨_, _, _, _, h⟩ := s.setLinks_frame { s.lnk with ports := Table.set s.lnk.ports n p }; rw [State.setPort, h]
@[simp] theorem State.ctx_setPort (s : State) (n : Nat) (p : Port) : (s.setPort n p).ctx = s.ctx := by
  obtain ⟨_, _, _, _, h⟩ := s.setLinks_frame { s.lnk with ports := Table.set s.lnk.ports n p }; rw [State.setPort, h]
@[simp] theorem State.sum_setPort (s : State) (n : Nat) (p : Port) : (s.setPort n p).sum = s.sum := by
  obtain ⟨_, _, _, _, h⟩ := s.setLinks_frame { s.lnk with ports := Table.set s.lnk.ports n p }; rw [State.setPort, h]
@[simp] theorem State.clv_setPort (s : State) (n : Nat) (p : Port) : (s.setPort n p).clv = s.clv := by
  obtain ⟨_, _, _, _, h⟩ := s.setLinks_frame { s.lnk with ports := Table.set s.lnk.ports n p }; rw [State.setPort, h]
@[simp] theorem State.ckp_setPort (s : State) (n : Nat) (p : Port) : (s.setPort n p).ckp = s.ckp := by
  obtain ⟨_, _, _, _, h⟩ := s.setLinks_frame { s.lnk with ports := Table.set s.lnk.ports n p }; rw [State.setPort, h]

@[simp] theorem State.sch_setStub (s : State) (n : Nat) (x : Stub) : (s.setStub n x).sch = s.sch := rfl
@[simp] theorem State.mem_setStub (s : State) (n : Nat) (x : Stub) : (s.setStub n x).mem = s.mem := rfl
@[simp] theorem State.run_setStub (s : State) (n : Nat) (x : Stub) : (s.setStub n x).run = s.run := rfl
@[simp] theorem State.eng_setStub (s : State) (n : Nat) (x : Stub) : (s.setStub n x).eng = s.eng := rfl
@[simp] theorem State.ker_setStub (s : State) (n : Nat) (x : Stub) : (s.setStub n x).ker = s.ker := rfl
@[simp] theorem State.ctx_setStub (s : State) (n : Nat) (x : Stub) : (s.setStub n x).ctx = s.ctx := rfl
@[simp] theorem State.lnk_setStub (s : State) (n : Nat) (x : Stub) : (s.setStub n x).lnk = s.lnk := rfl
@[simp] theorem State.clv_setStub (s : State) (n : Nat) (x : Stub) : (s.setStub n x).clv = s.clv := rfl
@[simp] theorem State.ckp_setStub (s : State) (n : Nat) (x : Stub) : (s.setStub n x).ckp = s.ckp := rfl
@[simp] theorem State.sys_setStub (s : State) (n : Nat) (x : Stub) : (s.setStub n x).sys = s.sys := rfl

@[simp] theorem State.sch_setSeq (s : State) (n : Nat) (q : Sequence) : (s.setSeq n q).sch = s.sch := rfl
@[simp] theorem State.mem_setSeq (s : State) (n : Nat) (q : Sequence) : (s.setSeq n q).mem = s.mem := rfl
@[simp] theorem State.run_setSeq (s : State) (n : Nat) (q : Sequence) : (s.setSeq n q).run = s.run := rfl
@[simp] theorem State.eng_setSeq (s : State) (n : Nat) (q : Sequence) : (s.setSeq n q).eng = s.eng := rfl
@[simp] theorem State.ker_setSeq (s : State) (n : Nat) (q : Sequence) : (s.setSeq n q).ker = s.ker := rfl
@[simp] theorem State.ctx_setSeq (s : State) (n : Nat) (q : Sequence) : (s.setSeq n q).ctx = s.ctx := rfl
@[simp] theorem State.lnk_setSeq (s : State) (n : Nat) (q : Sequence) : (s.setSeq n q).lnk = s.lnk := rfl
@[simp] theorem State.sum_setSeq (s : State) (n : Nat) (q : Sequence) : (s.setSeq n q).sum = s.sum := rfl
@[simp] theorem State.ckp_setSeq (s : State) (n : Nat) (q : Sequence) : (s.setSeq n q).ckp = s.ckp := rfl
@[simp] theorem State.sys_setSeq (s : State) (n : Nat) (q : Sequence) : (s.setSeq n q).sys = s.sys := rfl

@[simp] theorem State.sch_setCk (s : State) (ctx : Nat) (r : CkRegs) : (s.setCk ctx r).sch = s.sch := rfl
@[simp] theorem State.mem_setCk (s : State) (ctx : Nat) (r : CkRegs) : (s.setCk ctx r).mem = s.mem := rfl
@[simp] theorem State.run_setCk (s : State) (ctx : Nat) (r : CkRegs) : (s.setCk ctx r).run = s.run := rfl
@[simp] theorem State.eng_setCk (s : State) (ctx : Nat) (r : CkRegs) : (s.setCk ctx r).eng = s.eng := rfl
@[simp] theorem State.ker_setCk (s : State) (ctx : Nat) (r : CkRegs) : (s.setCk ctx r).ker = s.ker := rfl
@[simp] theorem State.ctx_setCk (s : State) (ctx : Nat) (r : CkRegs) : (s.setCk ctx r).ctx = s.ctx := rfl
@[simp] theorem State.lnk_setCk (s : State) (ctx : Nat) (r : CkRegs) : (s.setCk ctx r).lnk = s.lnk := rfl
@[simp] theorem State.sum_setCk (s : State) (ctx : Nat) (r : CkRegs) : (s.setCk ctx r).sum = s.sum := rfl
@[simp] theorem State.clv_setCk (s : State) (ctx : Nat) (r : CkRegs) : (s.setCk ctx r).clv = s.clv := rfl
@[simp] theorem State.sys_setCk (s : State) (ctx : Nat) (r : CkRegs) : (s.setCk ctx r).sys = s.sys := rfl

@[simp] theorem State.sch_setInt (s : State) (ctx : Nat) (x : Interval) : (s.setInt ctx x).sch = s.sch := rfl
@[simp] theorem State.mem_setInt (s : State) (ctx : Nat) (x : Interval) : (s.setInt ctx x).mem = s.mem := rfl
@[simp] theorem State.run_setInt (s : State) (ctx : Nat) (x : Interval) : (s.setInt ctx x).run = s.run := rfl
@[simp] theorem State.eng_setInt (s : State) (ctx : Nat) (x : Interval) : (s.setInt ctx x).eng = s.eng := rfl
@[simp] theorem State.ker_setInt (s : State) (ctx : Nat) (x : Interval) : (s.setInt ctx x).ker = s.ker := rfl
@[simp] theorem State.ctx_setInt (s : State) (ctx : Nat) (x : Interval) : (s.setInt ctx x).ctx = s.ctx := rfl
@[simp] theorem State.lnk_setInt (s : State) (ctx : Nat) (x : Interval) : (s.setInt ctx x).lnk = s.lnk := rfl
@[simp] theorem State.sum_setInt (s : State) (ctx : Nat) (x : Interval) : (s.setInt ctx x).sum = s.sum := rfl
@[simp] theorem State.clv_setInt (s : State) (ctx : Nat) (x : Interval) : (s.setInt ctx x).clv = s.clv := rfl
@[simp] theorem State.sys_setInt (s : State) (ctx : Nat) (x : Interval) : (s.setInt ctx x).sys = s.sys := rfl

@[simp] theorem State.sch_setDbg (s : State) (p off : Nat) (x : DWord) : (s.setDbg p off x).sch = s.sch := rfl
@[simp] theorem State.mem_setDbg (s : State) (p off : Nat) (x : DWord) : (s.setDbg p off x).mem = s.mem := rfl
@[simp] theorem State.run_setDbg (s : State) (p off : Nat) (x : DWord) : (s.setDbg p off x).run = s.run := rfl
@[simp] theorem State.eng_setDbg (s : State) (p off : Nat) (x : DWord) : (s.setDbg p off x).eng = s.eng := rfl
@[simp] theorem State.ker_setDbg (s : State) (p off : Nat) (x : DWord) : (s.setDbg p off x).ker = s.ker := rfl
@[simp] theorem State.ctx_setDbg (s : State) (p off : Nat) (x : DWord) : (s.setDbg p off x).ctx = s.ctx := rfl
@[simp] theorem State.lnk_setDbg (s : State) (p off : Nat) (x : DWord) : (s.setDbg p off x).lnk = s.lnk := rfl
@[simp] theorem State.sum_setDbg (s : State) (p off : Nat) (x : DWord) : (s.setDbg p off x).sum = s.sum := rfl
@[simp] theorem State.clv_setDbg (s : State) (p off : Nat) (x : DWord) : (s.setDbg p off x).clv = s.clv := rfl
@[simp] theorem State.sys_setDbg (s : State) (p off : Nat) (x : DWord) : (s.setDbg p off x).sys = s.sys := rfl

@[simp] theorem State.sch_unpass (s : State) (gid : Nat) (pc : DWord) : (s.unpass gid pc).sch = s.sch := rfl
@[simp] theorem State.mem_unpass (s : State) (gid : Nat) (pc : DWord) : (s.unpass gid pc).mem = s.mem := rfl
@[simp] theorem State.run_unpass (s : State) (gid : Nat) (pc : DWord) : (s.unpass gid pc).run = s.run := rfl
@[simp] theorem State.eng_unpass (s : State) (gid : Nat) (pc : DWord) : (s.unpass gid pc).eng = s.eng := rfl
@[simp] theorem State.ker_unpass (s : State) (gid : Nat) (pc : DWord) : (s.unpass gid pc).ker = s.ker := rfl
@[simp] theorem State.ctx_unpass (s : State) (gid : Nat) (pc : DWord) : (s.unpass gid pc).ctx = s.ctx := rfl
@[simp] theorem State.lnk_unpass (s : State) (gid : Nat) (pc : DWord) : (s.unpass gid pc).lnk = s.lnk := rfl
@[simp] theorem State.sum_unpass (s : State) (gid : Nat) (pc : DWord) : (s.unpass gid pc).sum = s.sum := rfl
@[simp] theorem State.clv_unpass (s : State) (gid : Nat) (pc : DWord) : (s.unpass gid pc).clv = s.clv := rfl
@[simp] theorem State.sys_unpass (s : State) (gid : Nat) (pc : DWord) : (s.unpass gid pc).sys = s.sys := rfl

@[simp] theorem State.mem_message (s : State) (d : Due) : (s.message d).mem = s.mem := rfl
@[simp] theorem State.run_message (s : State) (d : Due) : (s.message d).run = s.run := rfl
@[simp] theorem State.eng_message (s : State) (d : Due) : (s.message d).eng = s.eng := rfl
@[simp] theorem State.ker_message (s : State) (d : Due) : (s.message d).ker = s.ker := rfl
@[simp] theorem State.ctx_message (s : State) (d : Due) : (s.message d).ctx = s.ctx := rfl
@[simp] theorem State.lnk_message (s : State) (d : Due) : (s.message d).lnk = s.lnk := rfl
@[simp] theorem State.sum_message (s : State) (d : Due) : (s.message d).sum = s.sum := rfl
@[simp] theorem State.clv_message (s : State) (d : Due) : (s.message d).clv = s.clv := rfl
@[simp] theorem State.ckp_message (s : State) (d : Due) : (s.message d).ckp = s.ckp := rfl
@[simp] theorem State.sys_message (s : State) (d : Due) : (s.message d).sys = s.sys := rfl

@[simp] theorem State.sch_setPart (s : State) (p : Nat) (x : Partition) : (s.setPart p x).sch = s.sch := rfl
@[simp] theorem State.mem_setPart (s : State) (p : Nat) (x : Partition) : (s.setPart p x).mem = s.mem := rfl
@[simp] theorem State.run_setPart (s : State) (p : Nat) (x : Partition) : (s.setPart p x).run = s.run := rfl
@[simp] theorem State.eng_setPart (s : State) (p : Nat) (x : Partition) : (s.setPart p x).eng = s.eng := rfl
@[simp] theorem State.ker_setPart (s : State) (p : Nat) (x : Partition) : (s.setPart p x).ker = s.ker := rfl
@[simp] theorem State.ctx_setPart (s : State) (p : Nat) (x : Partition) : (s.setPart p x).ctx = s.ctx := rfl
@[simp] theorem State.lnk_setPart (s : State) (p : Nat) (x : Partition) : (s.setPart p x).lnk = s.lnk := rfl
@[simp] theorem State.sum_setPart (s : State) (p : Nat) (x : Partition) : (s.setPart p x).sum = s.sum := rfl
@[simp] theorem State.clv_setPart (s : State) (p : Nat) (x : Partition) : (s.setPart p x).clv = s.clv := rfl
@[simp] theorem State.ckp_setPart (s : State) (p : Nat) (x : Partition) : (s.setPart p x).ckp = s.ckp := rfl

@[simp] theorem State.sch_setWindow (s : State) (n : Nat) (w : Window) : (s.setWindow n w).sch = s.sch := rfl
@[simp] theorem State.mem_setWindow (s : State) (n : Nat) (w : Window) : (s.setWindow n w).mem = s.mem := rfl
@[simp] theorem State.run_setWindow (s : State) (n : Nat) (w : Window) : (s.setWindow n w).run = s.run := rfl
@[simp] theorem State.eng_setWindow (s : State) (n : Nat) (w : Window) : (s.setWindow n w).eng = s.eng := rfl
@[simp] theorem State.ker_setWindow (s : State) (n : Nat) (w : Window) : (s.setWindow n w).ker = s.ker := rfl
@[simp] theorem State.ctx_setWindow (s : State) (n : Nat) (w : Window) : (s.setWindow n w).ctx = s.ctx := rfl
@[simp] theorem State.lnk_setWindow (s : State) (n : Nat) (w : Window) : (s.setWindow n w).lnk = s.lnk := rfl
@[simp] theorem State.sum_setWindow (s : State) (n : Nat) (w : Window) : (s.setWindow n w).sum = s.sum := rfl
@[simp] theorem State.clv_setWindow (s : State) (n : Nat) (w : Window) : (s.setWindow n w).clv = s.clv := rfl
@[simp] theorem State.ckp_setWindow (s : State) (n : Nat) (w : Window) : (s.setWindow n w).ckp = s.ckp := rfl

@[simp] theorem State.sch_setFlash (s : State) (p : Nat) (r : DWord × DWord) : (s.setFlash p r).sch = s.sch := rfl
@[simp] theorem State.mem_setFlash (s : State) (p : Nat) (r : DWord × DWord) : (s.setFlash p r).mem = s.mem := rfl
@[simp] theorem State.run_setFlash (s : State) (p : Nat) (r : DWord × DWord) : (s.setFlash p r).run = s.run := rfl
@[simp] theorem State.eng_setFlash (s : State) (p : Nat) (r : DWord × DWord) : (s.setFlash p r).eng = s.eng := rfl
@[simp] theorem State.ker_setFlash (s : State) (p : Nat) (r : DWord × DWord) : (s.setFlash p r).ker = s.ker := rfl
@[simp] theorem State.ctx_setFlash (s : State) (p : Nat) (r : DWord × DWord) : (s.setFlash p r).ctx = s.ctx := rfl
@[simp] theorem State.lnk_setFlash (s : State) (p : Nat) (r : DWord × DWord) : (s.setFlash p r).lnk = s.lnk := rfl
@[simp] theorem State.sum_setFlash (s : State) (p : Nat) (r : DWord × DWord) : (s.setFlash p r).sum = s.sum := rfl
@[simp] theorem State.clv_setFlash (s : State) (p : Nat) (r : DWord × DWord) : (s.setFlash p r).clv = s.clv := rfl
@[simp] theorem State.ckp_setFlash (s : State) (p : Nat) (r : DWord × DWord) : (s.setFlash p r).ckp = s.ckp := rfl

@[simp] theorem State.sch_setAllowances (s : State) : (s.setAllowances).sch = s.sch := rfl
@[simp] theorem State.mem_setAllowances (s : State) : (s.setAllowances).mem = s.mem := rfl
@[simp] theorem State.run_setAllowances (s : State) : (s.setAllowances).run = s.run := rfl
@[simp] theorem State.eng_setAllowances (s : State) : (s.setAllowances).eng = s.eng := rfl
@[simp] theorem State.ker_setAllowances (s : State) : (s.setAllowances).ker = s.ker := rfl
@[simp] theorem State.ctx_setAllowances (s : State) : (s.setAllowances).ctx = s.ctx := rfl
@[simp] theorem State.lnk_setAllowances (s : State) : (s.setAllowances).lnk = s.lnk := rfl
@[simp] theorem State.sum_setAllowances (s : State) : (s.setAllowances).sum = s.sum := rfl
@[simp] theorem State.clv_setAllowances (s : State) : (s.setAllowances).clv = s.clv := rfl
@[simp] theorem State.ckp_setAllowances (s : State) : (s.setAllowances).ckp = s.ckp := rfl

@[simp] theorem State.sch_glen (s : State) (source code : Nat) (detail : DWord) : (s.glen source code detail).sch = s.sch := rfl
@[simp] theorem State.mem_glen (s : State) (source code : Nat) (detail : DWord) : (s.glen source code detail).mem = s.mem := rfl
@[simp] theorem State.run_glen (s : State) (source code : Nat) (detail : DWord) : (s.glen source code detail).run = s.run := rfl
@[simp] theorem State.eng_glen (s : State) (source code : Nat) (detail : DWord) : (s.glen source code detail).eng = s.eng := rfl
@[simp] theorem State.ker_glen (s : State) (source code : Nat) (detail : DWord) : (s.glen source code detail).ker = s.ker := rfl
@[simp] theorem State.ctx_glen (s : State) (source code : Nat) (detail : DWord) : (s.glen source code detail).ctx = s.ctx := rfl
@[simp] theorem State.lnk_glen (s : State) (source code : Nat) (detail : DWord) : (s.glen source code detail).lnk = s.lnk := rfl
@[simp] theorem State.sum_glen (s : State) (source code : Nat) (detail : DWord) : (s.glen source code detail).sum = s.sum := rfl
@[simp] theorem State.clv_glen (s : State) (source code : Nat) (detail : DWord) : (s.glen source code detail).clv = s.clv := rfl
@[simp] theorem State.ckp_glen (s : State) (source code : Nat) (detail : DWord) : (s.glen source code detail).ckp = s.ckp := rfl

end Sys2Proof.Machine
end

