-- ==== Sys2Proof/Laws/Frames.lean ====
section
/-! SUPPORT. Laws/Frames.lean: what the shared operations that write memory, send events, keep the log or the trace can change, said
once for each; the fields that they leave alone follow. -/

namespace Sys2Proof.Machine

/-- Marking changed granules changes the intervals of checkpoints alone. -/
theorem State.markDirty_frame (s : State) (key n : Nat) : ∃ i, s.markDirty key n = { s with ckp := { s.ckp with ints := i } } := by
  unfold State.markDirty
  split
  · exact ⟨s.ckp.ints, rfl⟩
  · simp only
    split <;> exact ⟨_, rfl⟩

/-- Writing a view block back changes memory and those intervals. -/
theorem State.writeBack_frame (s : State) (w : Window) (v : ViewBlock) :
    ∃ i, s.writeBack w v = { s with mem := s.mem.writeBack w v, ckp := { s.ckp with ints := i } } := by
  obtain ⟨i, hi⟩ := s.markDirty_frame (w.elem.toNat + w.elSize * v.blk) w.elSize
  obtain ⟨j, hj⟩ := (s.markDirty (w.elem.toNat + w.elSize * v.blk) w.elSize).markDirty_frame (w.scale.toNat + w.scSize * v.blk) w.scSize
  exact ⟨j, by unfold State.writeBack; simp only [hj]; rw [hi]⟩

/-- Dropping view blocks changes memory and those intervals. -/
theorem State.dropViews_frame (s : State) (key n : Nat) :
    ∃ m i, s.dropViews key n = { s with mem := m, ckp := { s.ckp with ints := i } } := by
  unfold State.dropViews
  suffices h : ∀ (l : List ViewBlock) (t : State), (∃ m i, t = { s with mem := m, ckp := { s.ckp with ints := i } }) →
      ∃ m i, l.foldl (fun t v => match Table.get t.sys.windows v.win with
        | none => t
        | some w =>
          if overlap key n (w.elem.toNat + w.elSize * v.blk) w.elSize || overlap key n (w.scale.toNat + w.scSize * v.blk) w.scSize
          then
            let u := if v.dirty then t.writeBack w v else t
            { u with mem := { u.mem with views := u.mem.views.filter fun x => !(x.win == v.win && x.blk == v.blk) } }
          else t) t = { s with mem := m, ckp := { s.ckp with ints := i } } from h _ s ⟨s.mem, s.ckp.ints, rfl⟩
  intro l
  induction l with
  | nil => intro t h; exact h
  | cons v r ih =>
    rintro t ⟨m, i, rfl⟩
    rw [List.foldl_cons]
    apply ih
    split
    · exact ⟨m, i, rfl⟩
    · split
      · simp only
        split
        · rename_i w _ _ _
          obtain ⟨j, hj⟩ := State.writeBack_frame { s with mem := m, ckp := { s.ckp with ints := i } } w v
          rw [hj]
          exact ⟨_, j, rfl⟩
        · exact ⟨_, i, rfl⟩
      · exact ⟨m, i, rfl⟩

/-- A store changes memory and the marks of changed granules. -/
theorem State.store_frame (s : State) (key : Nat) (b : List Byte) :
    ∃ m i, s.store key b = { s with mem := m, ckp := { s.ckp with ints := i } } := by
  unfold State.store
  split
  · exact ⟨_, s.ckp.ints, rfl⟩
  · obtain ⟨m, i, hm⟩ := s.dropViews_frame key b.length
    obtain ⟨j, hj⟩ := State.markDirty_frame (s.dropViews key b.length) key b.length
    simp only [hj]
    rw [hm]
    exact ⟨_, j, rfl⟩

/-- Setting ACC and DIRTY changes what a store changes. -/
theorem State.setAccessed_frame (s : State) (t : Trans) (w : Bool) :
    ∃ m i, (s.setAccessed t w).1 = { s with mem := m, ckp := { s.ckp with ints := i } } := by
  unfold State.setAccessed
  simp only
  split
  · exact s.store_frame _ _
  · exact ⟨s.mem, s.ckp.ints, rfl⟩

/-- Going through a translation changes what a store changes, and spends an allowance of the link where the page lies with a peer. -/
theorem State.through_frame (s : State) (die ctx : Nat) (va : DWord) (t : Trans) (w : Bool) :
    ∃ m i l, s.through die ctx va t w = { s with mem := m, ckp := { s.ckp with ints := i }, lnk := l } := by
  obtain ⟨m, i, h⟩ := s.setAccessed_frame t w
  unfold State.through
  simp only [h, State.fillTlb]
  split <;> exact ⟨_, i, _, rfl⟩

theorem State.readAt_frame (s : State) (ctx : Nat) (t : Trans) (va : DWord) (n : Nat) :
    ∃ m i l, (s.readAt ctx t va n).1 = { s with mem := m, ckp := { s.ckp with ints := i }, lnk := l } := s.through_frame 8 ctx va t false

theorem State.writeAt_frame (s : State) (ctx : Nat) (t : Trans) (va : DWord) (b : List Byte) :
    ∃ m i l, s.writeAt ctx t va b = { s with mem := m, ckp := { s.ckp with ints := i }, lnk := l } := by
  unfold State.writeAt
  obtain ⟨m, i, l, h⟩ := s.through_frame 8 ctx va t true
  obtain ⟨m', i', h'⟩ := State.store_frame (s.through 8 ctx va t true) (t.key va) b
  exact ⟨m', i', l, by rw [h', h]⟩

theorem State.touched_frame (s : State) (ctx : Nat) (va : DWord) :
    ∃ m i l, s.touched ctx va = { s with mem := m, ckp := { s.ckp with ints := i }, lnk := l } := by
  unfold State.touched
  split
  · exact s.through_frame _ _ _ _ _
  · exact ⟨s.mem, s.ckp.ints, s.lnk, rfl⟩

theorem State.vstore_frame {s t : State} {ctx : Nat} {va : DWord} {b : List Byte} (h : s.vstore ctx va b = .ok t) :
    ∃ m i l, t = { s with mem := m, ckp := { s.ckp with ints := i }, lnk := l } := by
  unfold State.vstore at h
  split at h
  · cases h
  · split at h
    · cases h
    · injection h with h; subst h; exact s.writeAt_frame _ _ _ _

/-- An add to a counter changes what a store changes, and may draw a free value. -/
theorem State.vadd_frame (s : State) (ctx : Nat) (va x : DWord) :
    ∃ m i l c, (s.vadd ctx va x).1 = { s with mem := m, ckp := { s.ckp with ints := i }, lnk := l, sch := c } := by
  have hd (t : Trans) : ∃ c, (s.hostDeclines t).1 = { s with sch := c } := by
    unfold State.hostDeclines
    split
    · exact ⟨_, rfl⟩
    · exact ⟨s.sch, rfl⟩
  unfold State.vadd
  split
  · exact ⟨s.mem, s.ckp.ints, s.lnk, s.sch, rfl⟩
  · rename_i t _
    obtain ⟨c, hc⟩ := hd t
    cases hb : s.hostDeclines t with
    | mk s1 b =>
      rw [hb] at hc
      simp only at hc
      subst hc
      cases s.engineWrite ctx va 32 <;> cases b <;> simp only
      case ok.false t' | wait.false =>
        obtain ⟨m, i, l, hw⟩ := State.writeAt_frame { s with sch := c } ctx t va
          (leBytes 8 ((leNat (({ s with sch := c } : State).load (t.key va) 8) + x.toNat) % 2 ^ 64))
        exact ⟨m, i, l, c, hw⟩
      case ok.true | wait.true => exact ⟨s.mem, s.ckp.ints, s.lnk, c, rfl⟩
      all_goals exact ⟨s.mem, s.ckp.ints, s.lnk, s.sch, rfl⟩

/-- Beginning a pull changes Sumac, or fills a tile with zeros. -/
theorem State.startPull_frame (s : State) (ctx : Nat) (va : DWord) :
    ∃ m i u, s.startPull ctx va = { s with mem := m, ckp := { s.ckp with ints := i }, sum := u } := by
  unfold State.startPull
  split
  · exact ⟨s.mem, s.ckp.ints, s.sum, rfl⟩
  · simp only
    split
    · exact ⟨s.mem, s.ckp.ints, s.sum, rfl⟩
    · split
      · split
        · exact ⟨s.mem, s.ckp.ints, s.sum, rfl⟩
        · exact ⟨s.mem, s.ckp.ints, _, rfl⟩
      · rename_i n x _ _ _
        obtain ⟨m, i, h⟩ := s.store_frame (x.frames.getD (x.tile va / 16) 0 + 4096 * (x.tile va % 16)) (List.replicate 4096 0)
        simp only [h]
        exact ⟨m, i, _, rfl⟩

/-- Sending events changes memory and the contexts' side. -/
theorem State.event_frame (s : State) (e : Event) : ∃ m c, s.event e = { s with mem := m, ctx := c } := by
  have one : ∀ (t : State) (h : Nat), (∃ m c, t = { s with mem := m, ctx := c }) →
      ∃ m c, (t.writeEvent h e).getD (t.queueEvent e (some h)) = { s with mem := m, ctx := c } := by
    rintro t h ⟨m, c, rfl⟩
    unfold State.writeEvent
    split
    · split
      · exact ⟨_, _, rfl⟩
      · exact ⟨m, _, rfl⟩
    · exact ⟨m, _, rfl⟩
  have go : ∀ (l : List Guardian) (t : State), (∃ m c, t = { s with mem := m, ctx := c }) →
      ∃ m c, l.foldl (fun t g => (t.writeEvent g.host e).getD (t.queueEvent e (some g.host))) t = { s with mem := m, ctx := c } := by
    intro l
    induction l with
    | nil => intro t h; exact h
    | cons g r ih => intro t h; rw [List.foldl_cons]; exact ih _ (one t g.host h)
  unfold State.event
  split
  · exact ⟨s.mem, s.ctx, rfl⟩
  · split
    · exact ⟨s.mem, _, rfl⟩
    · exact go _ s ⟨s.mem, s.ctx, rfl⟩

theorem State.raise_frame (s : State) (ctx kind code flags : Nat) (wid addr detail : DWord) :
    ∃ m c, s.raise ctx kind code flags wid addr detail = { s with mem := m, ctx := c } := s.event_frame _

/-- An event that needs service may suspend the context: its own state, its channels and its queues'. -/
theorem State.needService_frame (s : State) (ctx : Nat) : ∃ e c k, s.needService ctx = { s with eng := e, ctx := c, ker := k } := by
  unfold State.needService
  split
  · split
    · exact ⟨_, _, _, rfl⟩
    · exact ⟨s.eng, s.ctx, s.ker, rfl⟩
  · exact ⟨s.eng, s.ctx, s.ker, rfl⟩

/-- A partition counter is a debug register. -/
theorem State.count_frame (s : State) (ctx i : Nat) (x : DWord) : ∃ d, s.count ctx i x = { s with ckp := { s.ckp with dbg := d } } := by
  unfold State.count
  simp only
  split
  · exact ⟨_, rfl⟩
  · exact ⟨s.ckp.dbg, rfl⟩

/-- A trace record is bytes of memory and debug registers. -/
theorem State.trace_frame (s : State) (ctx : Nat) (r : List Byte) : ∃ m c, s.trace ctx r = { s with mem := m, ckp := c } := by
  unfold State.trace
  simp only
  split
  · split
    · exact ⟨s.mem, _, rfl⟩
    · obtain ⟨m, i, h⟩ := s.store_frame
        ((s.dbgReg (s.partOf ctx) 0x8).toNat + 64 * ((s.dbgReg (s.partOf ctx) 0x18).toNat % ((s.dbgReg (s.partOf ctx) 0x10).toNat / 64))) r
      simp only [h, State.setDbg]
      exact ⟨m, _, rfl⟩
  · exact ⟨s.mem, s.ckp, rfl⟩

/-- The replay log and its consumption are the interval's. -/
theorem State.log_frame (s : State) (ctx : Nat) (r : LogRec) : ∃ i, s.log ctx r = { s with ckp := { s.ckp with ints := i } } := by
  unfold State.log
  split
  · exact ⟨_, rfl⟩
  · exact ⟨s.ckp.ints, rfl⟩

theorem State.log_none (s : State) (ctx : Nat) (r : LogRec) (h : Table.get s.ckp.ints ctx = none) : s.log ctx r = s := by
  have hl : s.logging ctx = false := by
    unfold State.logging
    split
    · rename_i h'; rw [h] at h'; cases h'
    · rfl
  unfold State.log
  rw [if_neg (by rw [hl]; decide)]

/-- A context that keeps no log settles a result as it is. -/
theorem State.settleResult_none (s : State) (g : Group) (k : Nat) (b : List Byte) (h : Table.get s.ckp.ints (s.ctxOf g) = none) :
    s.settleResult g k b = (s, b) := by
  unfold State.settleResult State.logged
  simp only [h, State.log_none s _ _ h]

/-! ### The fields left alone -/

@[simp] theorem State.sch_store (s : State) (key : Nat) (b : List Byte) : (s.store key b).sch = s.sch := by
  obtain ⟨_, _, h⟩ := s.store_frame key b; rw [h]
@[simp] theorem State.run_store (s : State) (key : Nat) (b : List Byte) : (s.store key b).run = s.run := by
  obtain ⟨_, _, h⟩ := s.store_frame key b; rw [h]
@[simp] theorem State.eng_store (s : State) (key : Nat) (b : List Byte) : (s.store key b).eng = s.eng := by
  obtain ⟨_, _, h⟩ := s.store_frame key b; rw [h]
@[simp] theorem State.ker_store (s : State) (key : Nat) (b : List Byte) : (s.store key b).ker = s.ker := by
  obtain ⟨_, _, h⟩ := s.store_frame key b; rw [h]
@[simp] theorem State.ctx_store (s : State) (key : Nat) (b : List Byte) : (s.store key b).ctx = s.ctx := by
  obtain ⟨_, _, h⟩ := s.store_frame key b; rw [h]
@[simp] theorem State.lnk_store (s : State) (key : Nat) (b : List Byte) : (s.store key b).lnk = s.lnk := by
  obtain ⟨_, _, h⟩ := s.store_frame key b; rw [h]
@[simp] theorem State.sum_store (s : State) (key : Nat) (b : List Byte) : (s.store key b).sum = s.sum := by
  obtain ⟨_, _, h⟩ := s.store_frame key b; rw [h]
@[simp] theorem State.clv_store (s : State) (key : Nat) (b : List Byte) : (s.store key b).clv = s.clv := by
  obtain ⟨_, _, h⟩ := s.store_frame key b; rw [h]
@[simp] theorem State.sys_store (s : State) (key : Nat) (b : List Byte) : (s.store key b).sys = s.sys := by
  obtain ⟨_, _, h⟩ := s.store_frame key b; rw [h]

@[simp] theorem State.sch_touched (s : State) (ctx : Nat) (va : DWord) : (s.touched ctx va).sch = s.sch := by
  obtain ⟨_, _, _, h⟩ := s.touched_frame ctx va; rw [h]
@[simp] theorem State.run_touched (s : State) (ctx : Nat) (va : DWord) : (s.touched ctx va).run = s.run := by
  obtain ⟨_, _, _, h⟩ := s.touched_frame ctx va; rw [h]
@[simp] theorem State.eng_touched (s : State) (ctx : Nat) (va : DWord) : (s.touched ctx va).eng = s.eng := by
  obtain ⟨_, _, _, h⟩ := s.touched_frame ctx va; rw [h]
@[simp] theorem State.ker_touched (s : State) (ctx : Nat) (va : DWord) : (s.touched ctx va).ker = s.ker := by
  obtain ⟨_, _, _, h⟩ := s.touched_frame ctx va; rw [h]
@[simp] theorem State.ctx_touched (s : State) (ctx : Nat) (va : DWord) : (s.touched ctx va).ctx = s.ctx := by
  obtain ⟨_, _, _, h⟩ := s.touched_frame ctx va; rw [h]
@[simp] theorem State.sum_touched (s : State) (ctx : Nat) (va : DWord) : (s.touched ctx va).sum = s.sum := by
  obtain ⟨_, _, _, h⟩ := s.touched_frame ctx va; rw [h]
@[simp] theorem State.clv_touched (s : State) (ctx : Nat) (va : DWord) : (s.touched ctx va).clv = s.clv := by
  obtain ⟨_, _, _, h⟩ := s.touched_frame ctx va; rw [h]
@[simp] theorem State.sys_touched (s : State) (ctx : Nat) (va : DWord) : (s.touched ctx va).sys = s.sys := by
  obtain ⟨_, _, _, h⟩ := s.touched_frame ctx va; rw [h]

@[simp] theorem State.sch_writeAt (s : State) (ctx : Nat) (tr : Trans) (va : DWord) (b : List Byte) : (s.writeAt ctx tr va b).sch = s.sch := by
  obtain ⟨_, _, _, h⟩ := s.writeAt_frame ctx tr va b; rw [h]
@[simp] theorem State.run_writeAt (s : State) (ctx : Nat) (tr : Trans) (va : DWord) (b : List Byte) : (s.writeAt ctx tr va b).run = s.run := by
  obtain ⟨_, _, _, h⟩ := s.writeAt_frame ctx tr va b; rw [h]
@[simp] theorem State.eng_writeAt (s : State) (ctx : Nat) (tr : Trans) (va : DWord) (b : List Byte) : (s.writeAt ctx tr va b).eng = s.eng := by
  obtain ⟨_, _, _, h⟩ := s.writeAt_frame ctx tr va b; rw [h]
@[simp] theorem State.ker_writeAt (s : State) (ctx : Nat) (tr : Trans) (va : DWord) (b : List Byte) : (s.writeAt ctx tr va b).ker = s.ker := by
  obtain ⟨_, _, _, h⟩ := s.writeAt_frame ctx tr va b; rw [h]
@[simp] theorem State.ctx_writeAt (s : State) (ctx : Nat) (tr : Trans) (va : DWord) (b : List Byte) : (s.writeAt ctx tr va b).ctx = s.ctx := by
  obtain ⟨_, _, _, h⟩ := s.writeAt_frame ctx tr va b; rw [h]
@[simp] theorem State.sum_writeAt (s : State) (ctx : Nat) (tr : Trans) (va : DWord) (b : List Byte) : (s.writeAt ctx tr va b).sum = s.sum := by
  obtain ⟨_, _, _, h⟩ := s.writeAt_frame ctx tr va b; rw [h]
@[simp] theorem State.clv_writeAt (s : State) (ctx : Nat) (tr : Trans) (va : DWord) (b : List Byte) : (s.writeAt ctx tr va b).clv = s.clv := by
  obtain ⟨_, _, _, h⟩ := s.writeAt_frame ctx tr va b; rw [h]
@[simp] theorem State.sys_writeAt (s : State) (ctx : Nat) (tr : Trans) (va : DWord) (b : List Byte) : (s.writeAt ctx tr va b).sys = s.sys := by
  obtain ⟨_, _, _, h⟩ := s.writeAt_frame ctx tr va b; rw [h]

@[simp] theorem State.sch_startPull (s : State) (ctx : Nat) (va : DWord) : (s.startPull ctx va).sch = s.sch := by
  obtain ⟨_, _, _, h⟩ := s.startPull_frame ctx va; rw [h]
@[simp] theorem State.run_startPull (s : State) (ctx : Nat) (va : DWord) : (s.startPull ctx va).run = s.run := by
  obtain ⟨_, _, _, h⟩ := s.startPull_frame ctx va; rw [h]
@[simp] theorem State.eng_startPull (s : State) (ctx : Nat) (va : DWord) : (s.startPull ctx va).eng = s.eng := by
  obtain ⟨_, _, _, h⟩ := s.startPull_frame ctx va; rw [h]
@[simp] theorem State.ker_startPull (s : State) (ctx : Nat) (va : DWord) : (s.startPull ctx va).ker = s.ker := by
  obtain ⟨_, _, _, h⟩ := s.startPull_frame ctx va; rw [h]
@[simp] theorem State.ctx_startPull (s : State) (ctx : Nat) (va : DWord) : (s.startPull ctx va).ctx = s.ctx := by
  obtain ⟨_, _, _, h⟩ := s.startPull_frame ctx va; rw [h]
@[simp] theorem State.lnk_startPull (s : State) (ctx : Nat) (va : DWord) : (s.startPull ctx va).lnk = s.lnk := by
  obtain ⟨_, _, _, h⟩ := s.startPull_frame ctx va; rw [h]
@[simp] theorem State.clv_startPull (s : State) (ctx : Nat) (va : DWord) : (s.startPull ctx va).clv = s.clv := by
  obtain ⟨_, _, _, h⟩ := s.startPull_frame ctx va; rw [h]
@[simp] theorem State.sys_startPull (s : State) (ctx : Nat) (va : DWord) : (s.startPull ctx va).sys = s.sys := by
  obtain ⟨_, _, _, h⟩ := s.startPull_frame ctx va; rw [h]

@[simp] theorem State.sch_event (s : State) (e : Event) : (s.event e).sch = s.sch := by
  obtain ⟨_, _, h⟩ := s.event_frame e; rw [h]
@[simp] theorem State.run_event (s : State) (e : Event) : (s.event e).run = s.run := by
  obtain ⟨_, _, h⟩ := s.event_frame e; rw [h]
@[simp] theorem State.eng_event (s : State) (e : Event) : (s.event e).eng = s.eng := by
  obtain ⟨_, _, h⟩ := s.event_frame e; rw [h]
@[simp] theorem State.ker_event (s : State) (e : Event) : (s.event e).ker = s.ker := by
  obtain ⟨_, _, h⟩ := s.event_frame e; rw [h]
@[simp] theorem State.lnk_event (s : State) (e : Event) : (s.event e).lnk = s.lnk := by
  obtain ⟨_, _, h⟩ := s.event_frame e; rw [h]
@[simp] theorem State.sum_event (s : State) (e : Event) : (s.event e).sum = s.sum := by
  obtain ⟨_, _, h⟩ := s.event_frame e; rw [h]
@[simp] theorem State.clv_event (s : State) (e : Event) : (s.event e).clv = s.clv := by
  obtain ⟨_, _, h⟩ := s.event_frame e; rw [h]
@[simp] theorem State.ckp_event (s : State) (e : Event) : (s.event e).ckp = s.ckp := by
  obtain ⟨_, _, h⟩ := s.event_frame e; rw [h]
@[simp] theorem State.sys_event (s : State) (e : Event) : (s.event e).sys = s.sys := by
  obtain ⟨_, _, h⟩ := s.event_frame e; rw [h]

@[simp] theorem State.sch_raise (s : State) (ctx kind code flags : Nat) (wid addr detail : DWord) : (s.raise ctx kind code flags wid addr detail).sch = s.sch := by
  obtain ⟨_, _, h⟩ := s.raise_frame ctx kind code flags wid addr detail; rw [h]
@[simp] theorem State.run_raise (s : State) (ctx kind code flags : Nat) (wid addr detail : DWord) : (s.raise ctx kind code flags wid addr detail).run = s.run := by
  obtain ⟨_, _, h⟩ := s.raise_frame ctx kind code flags wid addr detail; rw [h]
@[simp] theorem State.eng_raise (s : State) (ctx kind code flags : Nat) (wid addr detail : DWord) : (s.raise ctx kind code flags wid addr detail).eng = s.eng := by
  obtain ⟨_, _, h⟩ := s.raise_frame ctx kind code flags wid addr detail; rw [h]
@[simp] theorem State.ker_raise (s : State) (ctx kind code flags : Nat) (wid addr detail : DWord) : (s.raise ctx kind code flags wid addr detail).ker = s.ker := by
  obtain ⟨_, _, h⟩ := s.raise_frame ctx kind code flags wid addr detail; rw [h]
@[simp] theorem State.lnk_raise (s : State) (ctx kind code flags : Nat) (wid addr detail : DWord) : (s.raise ctx kind code flags wid addr detail).lnk = s.lnk := by
  obtain ⟨_, _, h⟩ := s.raise_frame ctx kind code flags wid addr detail; rw [h]
@[simp] theorem State.sum_raise (s : State) (ctx kind code flags : Nat) (wid addr detail : DWord) : (s.raise ctx kind code flags wid addr detail).sum = s.sum := by
  obtain ⟨_, _, h⟩ := s.raise_frame ctx kind code flags wid addr detail; rw [h]
@[simp] theorem State.clv_raise (s : State) (ctx kind code flags : Nat) (wid addr detail : DWord) : (s.raise ctx kind code flags wid addr detail).clv = s.clv := by
  obtain ⟨_, _, h⟩ := s.raise_frame ctx kind code flags wid addr detail; rw [h]
@[simp] theorem State.ckp_raise (s : State) (ctx kind code flags : Nat) (wid addr detail : DWord) : (s.raise ctx kind code flags wid addr detail).ckp = s.ckp := by
  obtain ⟨_, _, h⟩ := s.raise_frame ctx kind code flags wid addr detail; rw [h]
@[simp] theorem State.sys_raise (s : State) (ctx kind code flags : Nat) (wid addr detail : DWord) : (s.raise ctx kind code flags wid addr detail).sys = s.sys := by
  obtain ⟨_, _, h⟩ := s.raise_frame ctx kind code flags wid addr detail; rw [h]

@[simp] theorem State.sch_needService (s : State) (ctx : Nat) : (s.needService ctx).sch = s.sch := by
  obtain ⟨_, _, _, h⟩ := s.needService_frame ctx; rw [h]
@[simp] theorem State.mem_needService (s : State) (ctx : Nat) : (s.needService ctx).mem = s.mem := by
  obtain ⟨_, _, _, h⟩ := s.needService_frame ctx; rw [h]
@[simp] theorem State.run_needService (s : State) (ctx : Nat) : (s.needService ctx).run = s.run := by
  obtain ⟨_, _, _, h⟩ := s.needService_frame ctx; rw [h]
@[simp] theorem State.lnk_needService (s : State) (ctx : Nat) : (s.needService ctx).lnk = s.lnk := by
  obtain ⟨_, _, _, h⟩ := s.needService_frame ctx; rw [h]
@[simp] theorem State.sum_needService (s : State) (ctx : Nat) : (s.needService ctx).sum = s.sum := by
  obtain ⟨_, _, _, h⟩ := s.needService_frame ctx; rw [h]
@[simp] theorem State.clv_needService (s : State) (ctx : Nat) : (s.needService ctx).clv = s.clv := by
  obtain ⟨_, _, _, h⟩ := s.needService_frame ctx; rw [h]
@[simp] theorem State.ckp_needService (s : State) (ctx : Nat) : (s.needService ctx).ckp = s.ckp := by
  obtain ⟨_, _, _, h⟩ := s.needService_frame ctx; rw [h]
@[simp] theorem State.sys_needService (s : State) (ctx : Nat) : (s.needService ctx).sys = s.sys := by
  obtain ⟨_, _, _, h⟩ := s.needService_frame ctx; rw [h]

@[simp] theorem State.sch_count (s : State) (ctx i : Nat) (x : DWord) : (s.count ctx i x).sch = s.sch := by
  obtain ⟨_, h⟩ := s.count_frame ctx i x; rw [h]
@[simp] theorem State.mem_count (s : State) (ctx i : Nat) (x : DWord) : (s.count ctx i x).mem = s.mem := by
  obtain ⟨_, h⟩ := s.count_frame ctx i x; rw [h]
@[simp] theorem State.run_count (s : State) (ctx i : Nat) (x : DWord) : (s.count ctx i x).run = s.run := by
  obtain ⟨_, h⟩ := s.count_frame ctx i x; rw [h]
@[simp] theorem State.eng_count (s : State) (ctx i : Nat) (x : DWord) : (s.count ctx i x).eng = s.eng := by
  obtain ⟨_, h⟩ := s.count_frame ctx i x; rw [h]
@[simp] theorem State.ker_count (s : State) (ctx i : Nat) (x : DWord) : (s.count ctx i x).ker = s.ker := by
  obtain ⟨_, h⟩ := s.count_frame ctx i x; rw [h]
@[simp] theorem State.ctx_count (s : State) (ctx i : Nat) (x : DWord) : (s.count ctx i x).ctx = s.ctx := by
  obtain ⟨_, h⟩ := s.count_frame ctx i x; rw [h]
@[simp] theorem State.lnk_count (s : State) (ctx i : Nat) (x : DWord) : (s.count ctx i x).lnk = s.lnk := by
  obtain ⟨_, h⟩ := s.count_frame ctx i x; rw [h]
@[simp] theorem State.sum_count (s : State) (ctx i : Nat) (x : DWord) : (s.count ctx i x).sum = s.sum := by
  obtain ⟨_, h⟩ := s.count_frame ctx i x; rw [h]
@[simp] theorem State.clv_count (s : State) (ctx i : Nat) (x : DWord) : (s.count ctx i x).clv = s.clv := by
  obtain ⟨_, h⟩ := s.count_frame ctx i x; rw [h]
@[simp] theorem State.sys_count (s : State) (ctx i : Nat) (x : DWord) : (s.count ctx i x).sys = s.sys := by
  obtain ⟨_, h⟩ := s.count_frame ctx i x; rw [h]

@[simp] theorem State.sch_trace (s : State) (ctx : Nat) (r : List Byte) : (s.trace ctx r).sch = s.sch := by
  obtain ⟨_, _, h⟩ := s.trace_frame ctx r; rw [h]
@[simp] theorem State.run_trace (s : State) (ctx : Nat) (r : List Byte) : (s.trace ctx r).run = s.run := by
  obtain ⟨_, _, h⟩ := s.trace_frame ctx r; rw [h]
@[simp] theorem State.eng_trace (s : State) (ctx : Nat) (r : List Byte) : (s.trace ctx r).eng = s.eng := by
  obtain ⟨_, _, h⟩ := s.trace_frame ctx r; rw [h]
@[simp] theorem State.ker_trace (s : State) (ctx : Nat) (r : List Byte) : (s.trace ctx r).ker = s.ker := by
  obtain ⟨_, _, h⟩ := s.trace_frame ctx r; rw [h]
@[simp] theorem State.ctx_trace (s : State) (ctx : Nat) (r : List Byte) : (s.trace ctx r).ctx = s.ctx := by
  obtain ⟨_, _, h⟩ := s.trace_frame ctx r; rw [h]
@[simp] theorem State.lnk_trace (s : State) (ctx : Nat) (r : List Byte) : (s.trace ctx r).lnk = s.lnk := by
  obtain ⟨_, _, h⟩ := s.trace_frame ctx r; rw [h]
@[simp] theorem State.sum_trace (s : State) (ctx : Nat) (r : List Byte) : (s.trace ctx r).sum = s.sum := by
  obtain ⟨_, _, h⟩ := s.trace_frame ctx r; rw [h]
@[simp] theorem State.clv_trace (s : State) (ctx : Nat) (r : List Byte) : (s.trace ctx r).clv = s.clv := by
  obtain ⟨_, _, h⟩ := s.trace_frame ctx r; rw [h]
@[simp] theorem State.sys_trace (s : State) (ctx : Nat) (r : List Byte) : (s.trace ctx r).sys = s.sys := by
  obtain ⟨_, _, h⟩ := s.trace_frame ctx r; rw [h]

@[simp] theorem State.sch_log (s : State) (ctx : Nat) (r : LogRec) : (s.log ctx r).sch = s.sch := by
  obtain ⟨_, h⟩ := s.log_frame ctx r; rw [h]
@[simp] theorem State.mem_log (s : State) (ctx : Nat) (r : LogRec) : (s.log ctx r).mem = s.mem := by
  obtain ⟨_, h⟩ := s.log_frame ctx r; rw [h]
@[simp] theorem State.run_log (s : State) (ctx : Nat) (r : LogRec) : (s.log ctx r).run = s.run := by
  obtain ⟨_, h⟩ := s.log_frame ctx r; rw [h]
@[simp] theorem State.eng_log (s : State) (ctx : Nat) (r : LogRec) : (s.log ctx r).eng = s.eng := by
  obtain ⟨_, h⟩ := s.log_frame ctx r; rw [h]
@[simp] theorem State.ker_log (s : State) (ctx : Nat) (r : LogRec) : (s.log ctx r).ker = s.ker := by
  obtain ⟨_, h⟩ := s.log_frame ctx r; rw [h]
@[simp] theorem State.ctx_log (s : State) (ctx : Nat) (r : LogRec) : (s.log ctx r).ctx = s.ctx := by
  obtain ⟨_, h⟩ := s.log_frame ctx r; rw [h]
@[simp] theorem State.lnk_log (s : State) (ctx : Nat) (r : LogRec) : (s.log ctx r).lnk = s.lnk := by
  obtain ⟨_, h⟩ := s.log_frame ctx r; rw [h]
@[simp] theorem State.sum_log (s : State) (ctx : Nat) (r : LogRec) : (s.log ctx r).sum = s.sum := by
  obtain ⟨_, h⟩ := s.log_frame ctx r; rw [h]
@[simp] theorem State.clv_log (s : State) (ctx : Nat) (r : LogRec) : (s.log ctx r).clv = s.clv := by
  obtain ⟨_, h⟩ := s.log_frame ctx r; rw [h]
@[simp] theorem State.sys_log (s : State) (ctx : Nat) (r : LogRec) : (s.log ctx r).sys = s.sys := by
  obtain ⟨_, h⟩ := s.log_frame ctx r; rw [h]
@[simp] theorem State.dbg_store (s : State) (key : Nat) (b : List Byte) : (s.store key b).ckp.dbg = s.ckp.dbg := by
  obtain ⟨_, _, h⟩ := s.store_frame key b; rw [h]
@[simp] theorem State.regs_store (s : State) (key : Nat) (b : List Byte) : (s.store key b).ckp.regs = s.ckp.regs := by
  obtain ⟨_, _, h⟩ := s.store_frame key b; rw [h]
@[simp] theorem State.dbg_touched (s : State) (ctx : Nat) (va : DWord) : (s.touched ctx va).ckp.dbg = s.ckp.dbg := by
  obtain ⟨_, _, _, h⟩ := s.touched_frame ctx va; rw [h]
@[simp] theorem State.regs_touched (s : State) (ctx : Nat) (va : DWord) : (s.touched ctx va).ckp.regs = s.ckp.regs := by
  obtain ⟨_, _, _, h⟩ := s.touched_frame ctx va; rw [h]
@[simp] theorem State.dbg_writeAt (s : State) (ctx : Nat) (tr : Trans) (va : DWord) (b : List Byte) : (s.writeAt ctx tr va b).ckp.dbg = s.ckp.dbg := by
  obtain ⟨_, _, _, h⟩ := s.writeAt_frame ctx tr va b; rw [h]
@[simp] theorem State.regs_writeAt (s : State) (ctx : Nat) (tr : Trans) (va : DWord) (b : List Byte) : (s.writeAt ctx tr va b).ckp.regs = s.ckp.regs := by
  obtain ⟨_, _, _, h⟩ := s.writeAt_frame ctx tr va b; rw [h]

end Sys2Proof.Machine
end

