-- ==== Sys2Proof/Laws/Lanes.lean ====
section
/-! SUPPORT. Laws/Lanes.lean: what the shared shape of lane instructions does, said once: the effects of the guarded lanes are
written, every active lane retires and moves, and nothing else changes. -/

namespace Sys2Proof.Machine

theorem Group.lane_updLane (g : Group) (j k : Nat) (f : Lane → Lane) (hk : k < g.width) :
    (g.updLane j f).lane k = if j = k then f (g.lane k) else g.lane k := by
  unfold Group.updLane Group.lane Group.width at *
  by_cases h : j = k <;> simp [List.getD_eq_getElem?_getD, h, hk]

@[simp] theorem Group.width_updLane (g : Group) (j : Nat) (f : Lane → Lane) : (g.updLane j f).width = g.width := by
  simp [Group.updLane, Group.width]

/-- Two groups that differ in lanes, bundles and s registers at most. -/
def Group.Near (g u : Group) : Prop := { u with lanes := g.lanes, bundles := g.bundles, s := g.s } = g ∧ u.width = g.width

theorem Group.Near.refl (g : Group) : g.Near g := ⟨rfl, rfl⟩

theorem Group.Near.trans {g u w : Group} (h1 : g.Near u) (h2 : u.Near w) : g.Near w := by
  obtain ⟨a, b⟩ := h1; obtain ⟨c, d⟩ := h2
  cases g; cases u; cases w
  simp_all [Group.Near, Group.width]

theorem Group.write_eq (g : Group) (j : Nat) (x : Opnd) (w : Bool) (y : DWord) :
    g.write j x w y = { g.updLane j (fun l => l.write x w y) with s := sWrite g.s x y } := by
  have id_mod (i : BitVec 6) : g.lanes.modify j (fun l => l.write (.s i) w y) = g.lanes := by
    have : (fun l : Lane => l.write (.s i) w y) = id := by funext l; rfl
    rw [this, List.modify_id]
  cases x <;> simp [Group.write, Group.updLane, sWrite, id_mod]

theorem Group.write_near (g : Group) (j : Nat) (x : Opnd) (w : Bool) (y : DWord) : g.Near (g.write j x w y) := by
  rw [Group.write_eq]; exact ⟨rfl, by simp [Group.updLane, Group.width]⟩

/-- What a list of register writes does to a group. -/
theorem Group.writes_spec (rs : List (Opnd × Bool × DWord)) (g : Group) (j k : Nat) (hk : k < g.width) :
    let u := rs.foldl (fun g r => g.write j r.1 r.2.1 r.2.2) g
    g.Near u ∧ u.s = rs.foldl (fun m r => sWrite m r.1 r.2.2) g.s ∧
      u.lane k = if j = k then rs.foldl (fun x r => x.write r.1 r.2.1 r.2.2) (g.lane k) else g.lane k := by
  induction rs generalizing g with
  | nil => exact ⟨Group.Near.refl g, rfl, by simp⟩
  | cons r rs ih =>
    have hn := g.write_near j r.1 r.2.1 r.2.2
    obtain ⟨h1, h2, h3⟩ := ih (g.write j r.1 r.2.1 r.2.2) (by rw [hn.2]; exact hk)
    refine ⟨hn.trans h1, ?_, ?_⟩
    · simp only [List.foldl_cons]; rw [h2, Group.write_eq]
    · simp only [List.foldl_cons]; rw [h3]
      have key : (g.write j r.1 r.2.1 r.2.2).lane k = if j = k then (g.lane k).write r.1 r.2.1 r.2.2 else g.lane k := by
        rw [Group.write_eq]; exact Group.lane_updLane g j k _ hk
      rw [key]; by_cases hjk : j = k <;> simp only [hjk, if_true, if_false]

theorem Group.writeHi_eq (g : Group) (j : Nat) (x : Opnd) (y : Word) :
    g.writeHi j x y = { g.updLane j (fun l => l.writeHi x y) with s := sWriteHi g.s x y } := by
  have id_mod (i : BitVec 6) : g.lanes.modify j (fun l => l.writeHi (.s i) y) = g.lanes := by
    have : (fun l : Lane => l.writeHi (.s i) y) = id := by funext l; rfl
    rw [this, List.modify_id]
  cases x <;> simp [Group.writeHi, Group.updLane, sWriteHi, id_mod]

/-- What a list of writes of upper halves does to a group. -/
theorem Group.writesHi_spec (rs : List (Opnd × Word)) (g : Group) (j k : Nat) (hk : k < g.width) :
    let u := rs.foldl (fun g r => g.writeHi j r.1 r.2) g
    g.Near u ∧ u.s = rs.foldl (fun m r => sWriteHi m r.1 r.2) g.s ∧
      u.lane k = if j = k then rs.foldl (fun x r => x.writeHi r.1 r.2) (g.lane k) else g.lane k := by
  induction rs generalizing g with
  | nil => exact ⟨Group.Near.refl g, rfl, by simp⟩
  | cons r rs ih =>
    have hn : g.Near (g.writeHi j r.1 r.2) := by rw [Group.writeHi_eq]; exact ⟨rfl, by simp [Group.updLane, Group.width]⟩
    obtain ⟨h1, h2, h3⟩ := ih (g.writeHi j r.1 r.2) (by rw [hn.2]; exact hk)
    refine ⟨hn.trans h1, ?_, ?_⟩
    · simp only [List.foldl_cons]; rw [h2, Group.writeHi_eq]
    · simp only [List.foldl_cons]; rw [h3]
      have key : (g.writeHi j r.1 r.2).lane k = if j = k then (g.lane k).writeHi r.1 r.2 else g.lane k := by
        rw [Group.writeHi_eq]; exact Group.lane_updLane g j k _ hk
      rw [key]; by_cases hjk : j = k <;> simp only [hjk, if_true, if_false]

theorem Group.apply_near (g : Group) (j : Nat) (e : Eff) : g.Near (g.apply j e) ∧ (g.apply j e).s = e.inS g.s := by
  have writes (rs : List (Opnd × Bool × DWord)) (g : Group) : g.Near (rs.foldl (fun g r => g.write j r.1 r.2.1 r.2.2) g) ∧
      (rs.foldl (fun g r => g.write j r.1 r.2.1 r.2.2) g).s = rs.foldl (fun m r => sWrite m r.1 r.2.2) g.s := by
    induction rs generalizing g with
    | nil => exact ⟨Group.Near.refl g, rfl⟩
    | cons r rs ih =>
      simp only [List.foldl_cons]
      exact ⟨(g.write_near j _ _ _).trans (ih _).1, by rw [(ih _).2, Group.write_eq]⟩
  have his (rs : List (Opnd × Word)) (g : Group) : g.Near (rs.foldl (fun g r => g.writeHi j r.1 r.2) g) ∧
      (rs.foldl (fun g r => g.writeHi j r.1 r.2) g).s = rs.foldl (fun m r => sWriteHi m r.1 r.2) g.s := by
    induction rs generalizing g with
    | nil => exact ⟨Group.Near.refl g, rfl⟩
    | cons r rs ih =>
      simp only [List.foldl_cons]
      have hn : g.Near (g.writeHi j r.1 r.2) := by rw [Group.writeHi_eq]; exact ⟨rfl, by simp [Group.updLane, Group.width]⟩
      exact ⟨hn.trans (ih _).1, by rw [(ih _).2, Group.writeHi_eq]⟩
  have w := writes e.regs g
  have v := his e.his (e.regs.foldl (fun g r => g.write j r.1 r.2.1 r.2.2) g)
  exact ⟨(w.1.trans v.1).trans ⟨rfl, Group.width_updLane _ _ _⟩, by
    show (e.his.foldl (fun (g : Group) r => g.writeHi j r.1 r.2) _).s = _
    rw [v.2, w.2]; rfl⟩

theorem Group.apply_spec (g : Group) (j k : Nat) (e : Eff) (hk : k < g.width) :
    g.Near (g.apply j e) ∧ (g.apply j e).s = e.inS g.s ∧
      (g.apply j e).lane k = if j = k then e.inLane (g.lane k) else g.lane k := by
  obtain ⟨n, hs⟩ := Group.apply_near g j e
  refine ⟨n, hs, ?_⟩
  obtain ⟨h1, _, h3⟩ := Group.writes_spec e.regs g j k hk
  obtain ⟨h4, _, h6⟩ := Group.writesHi_spec e.his (e.regs.foldl (fun g r => g.write j r.1 r.2.1 r.2.2) g) j k (by rw [h1.2]; exact hk)
  unfold Group.apply
  rw [Group.lane_updLane _ _ _ _ (by rw [h4.2, h1.2]; exact hk), h6, h3]
  by_cases hjk : j = k <;> simp [hjk, Eff.inLane]

/-- What the effects of a list of lanes do to a group. -/
theorem Group.applyAll_spec (es : List (Nat × Eff)) (g : Group) (hd : (es.map (·.1)).Nodup) :
    g.Near (g.applyAll es) ∧ (g.applyAll es).s = sAfter g.s es ∧
      ∀ k, k < g.width → (g.applyAll es).lane k =
        g.after es k := by
  unfold Group.after
  induction es generalizing g with
  | nil => exact ⟨Group.Near.refl g, rfl, fun k _ => rfl⟩
  | cons p es ih =>
    obtain ⟨j, e⟩ := p
    simp only [List.map_cons, List.nodup_cons] at hd
    have ap (k : Nat) (hk : k < g.width) := Group.apply_spec g j k e hk
    have near : g.Near (g.apply j e) := (Group.apply_near g j e).1
    obtain ⟨h1, h2, h3⟩ := ih (g.apply j e) hd.2
    refine ⟨near.trans h1, ?_, ?_⟩
    · show ((g.apply j e).applyAll es).s = _
      rw [h2, (Group.apply_near g j e).2]; rfl
    · intro k hk
      show ((g.apply j e).applyAll es).lane k = _
      rw [h3 k (by rw [near.2]; exact hk), (ap k hk).2.2]
      by_cases hjk : j = k
      · subst hjk
        have none' : effOf es j = none := by
          unfold effOf
          rw [Option.map_eq_none_iff, List.find?_eq_none]
          intro p hp
          have := hd.1
          simp only [List.mem_map, not_exists, not_and] at this
          simpa using this p hp
        have some' : effOf ((j, e) :: es) j = some e := by simp [effOf]
        simp [none', some']
      · have : effOf ((j, e) :: es) k = effOf es k := by simp [effOf, hjk]
        simp [this, hjk]

/-! ### Meetings and joins leave data, PC and retirement counts alone -/

/-- Lanes that differ in state, meeting register and the mark of a wait at most. -/
def Lane.Same (l m : Lane) : Prop := m.data = l.data ∧ m.pc = l.pc ∧ m.retired = l.retired

theorem Group.release_same (g : Group) (k : Nat) : g.Near g.release ∧ g.release.s = g.s ∧ (g.lane k).Same (g.release.lane k) := by
  have map_same (f : Lane → Lane) (hf : ∀ l, (l.data = (f l).data ∧ l.pc = (f l).pc ∧ l.retired = (f l).retired)) (g : Group) :
      g.Near { g with lanes := g.lanes.map f } ∧ (g.lane k).Same (({ g with lanes := g.lanes.map f } : Group).lane k) := by
    refine ⟨⟨rfl, by simp [Group.width]⟩, ?_⟩
    unfold Group.lane Lane.Same
    simp only [List.getD_eq_getElem?_getD, List.getElem?_map]
    cases h : g.lanes[k]? with
    | none => simp
    | some l => simp [← (hf l).1, ← (hf l).2.1, ← (hf l).2.2]
  have trans (l m n : Lane) : l.Same m → m.Same n → l.Same n := by
    rintro ⟨a, b, c⟩ ⟨d, e, f⟩; exact ⟨d.trans a, e.trans b, f.trans c⟩
  unfold Group.release
  obtain ⟨n1, s1⟩ := map_same (fun l => if l.st = .held false ∧ g.meetDone l.meet then { l with st := .running, meet := 0 } else l)
    (by intro l; split <;> exact ⟨rfl, rfl, rfl⟩) g
  dsimp only
  split
  · obtain ⟨n2, s2⟩ := map_same (fun l => if l.st = .held true then { l with st := .running } else l)
      (by intro l; split <;> exact ⟨rfl, rfl, rfl⟩) _
    exact ⟨n1.trans n2, rfl, trans _ _ _ s1 s2⟩
  · split
    · obtain ⟨n2, s2⟩ := map_same (fun l => if l.st = .held false then { l with st := .running, meet := 0 } else l)
        (by intro l; split <;> exact ⟨rfl, rfl, rfl⟩) _
      exact ⟨n1.trans n2, rfl, trans _ _ _ s1 s2⟩
    · exact ⟨n1, rfl, s1⟩

theorem Group.settle_same (g : Group) (k : Nat) : g.Near g.settle ∧ g.settle.s = g.s ∧ (g.lane k).Same (g.settle.lane k) := by
  have h := Group.release_same g.unbundle k
  exact ⟨Group.Near.trans (u := g.unbundle) ⟨rfl, rfl⟩ h.1, h.2.1, h.2.2⟩

/-! ### The shared shape -/

theorem maskLanes_nodup (m : Mask) : (maskLanes m).Nodup := List.nodup_range.sublist List.filter_sublist

theorem Issue.effects_nodup (i : Issue) (g : Group) (h : Hd) (f : Group → Nat → Lane → Eff) :
    ((i.effects g h f).map (·.1)).Nodup := by
  unfold Issue.effects Issue.guarded Issue.active
  rw [List.map_map]
  have : ((fun x : Nat × Eff => x.1) ∘ fun k => (k, f (i.source g) k ((i.source g).lane k))) = id := rfl
  rw [this, List.map_id]
  exact (maskLanes_nodup _).sublist List.filter_sublist

/-- What the shared shape leaves, with no fault raised. -/
theorem Issue.finish_ran (s : State) (i : Issue) (g : Group) (es : List (Nat × Eff)) (hd : (es.map (·.1)).Nodup) :
    Ran s (s.setGroup i.gid (i.finish g es)) i g es := by
  obtain ⟨n, hs, hl⟩ := Group.applyAll_spec es g hd
  let move (k : Nat) (l : Lane) : Lane :=
    if hasBit i.lanes k then
      (if i.firstOfPair then { l.retire with pc := ((es.find? fun p => p.1 == k).bind fun p => p.2.pc).getD (succPc i.pc) }
       else l.retire.arrive (((es.find? fun p => p.1 == k).bind fun p => p.2.pc).getD (succPc i.pc)))
    else l
  let v : Group := { g.applyAll es with lanes := (g.applyAll es).lanes.mapIdx move }
  have vn : (g.applyAll es).Near v := ⟨rfl, by simp [v, Group.width]⟩
  have vl (k : Nat) (hk : k < g.width) : v.lane k = move k ((g.applyAll es).lane k) := by
    have hk' : k < (g.applyAll es).lanes.length := by have := n.2; unfold Group.width at this; rw [this]; exact hk
    unfold Group.lane
    simp only [List.getD_eq_getElem?_getD, v, List.getElem?_mapIdx]
    rw [List.getElem?_eq_getElem hk']; rfl
  have key (u : Group) (hu : v.Near u ∧ u.s = v.s ∧ ∀ k, (v.lane k).Same (u.lane k)) :
      Ran s (s.setGroup i.gid u) i g es := by
    obtain ⟨un, us, ul⟩ := hu
    have all := (n.trans vn).trans un
    refine ⟨u, rfl, all.1, all.2, us.trans hs, ?_⟩
    intro k hk
    obtain ⟨a, b, c⟩ := ul k
    rw [a, b, c, vl k hk, hl k hk]
    have tgt : ((es.find? fun p => p.1 == k).bind fun p => p.2.pc) = (effOf es k).bind (·.pc) := by
      unfold effOf; cases es.find? (fun p => p.1 == k) <;> rfl
    simp only [move, tgt]
    by_cases hb : hasBit i.lanes k
    · simp only [hb, if_true]
      split <;> exact ⟨rfl, rfl, rfl⟩
    · simp [hb]
  unfold Issue.finish Group.moveAll
  dsimp only
  by_cases hp : i.firstOfPair
  · rw [if_pos hp]; exact key v ⟨Group.Near.refl v, rfl, fun k => ⟨rfl, rfl, rfl⟩⟩
  · rw [if_neg hp]; exact key v.settle ⟨(v.settle_same 0).1, (v.settle_same 0).2.1, fun k => (v.settle_same k).2.2⟩


theorem State.lanes_ran {s : State} {h : Hd} {f : Group → Nat → Lane → Eff} {i : Issue} {g : Group}
    (hc : s.current = some (i, g)) (hn : i.traps g (i.effects g h f) = []) : Ran s (s.lanes h f) i g (i.effects g h f) := by
  have : s.lanes h f = s.setGroup i.gid (i.finish g (i.effects g h f)) := by
    unfold State.lanes; rw [hc]; simp [hn]
  rw [this]; exact Issue.finish_ran s i g _ (Issue.effects_nodup i g h f)

/-- A bundle in which some lane faults takes the trap. -/
theorem State.lanes_trap {s : State} {h : Hd} {f : Group → Nat → Lane → Eff} {i : Issue} {g : Group}
    (hc : s.current = some (i, g)) (hn : i.traps g (i.effects g h f) ≠ []) :
    s.lanes h f = s.takeTrap i (i.traps g (i.effects g h f)) := by
  unfold State.lanes; rw [hc]; simp [hn]

/-- Effects that raise nothing trap no lane. -/
theorem Issue.traps_nil (i : Issue) (g : Group) (h : Hd) (f : Group → Nat → Lane → Eff)
    (hf : ∀ g k l, (f g k l).exc = 0 ∧ (f g k l).fault = none) : i.traps g (i.effects g h f) = [] := by
  unfold Issue.traps Issue.effects
  rw [List.filterMap_map, List.filterMap_eq_nil_iff]
  intro k _
  simp [Eff.trap, hf]

/-- An instruction of the shared shape that raises nothing. -/
theorem Writes.of_lanes {ins : Instr} {h : Hd} {f : State → Issue → Group → Nat → Lane → Eff}
    (hex : ∀ s i g, s.current = some (i, g) → exec ins s = .next (s.lanes h (f s i)))
    (hf : ∀ s i g k l, (f s i g k l).exc = 0 ∧ (f s i g k l).fault = none) : Writes ins h f :=
  fun s i g hc => ⟨_, hex s i g hc, State.lanes_ran hc (Issue.traps_nil i g h _ (hf s i))⟩

/-- An instruction of the shared shape, where nothing is raised. -/
theorem Completes.of_lanes {ins : Instr} {h : Hd} {f : State → Issue → Group → Nat → Lane → Eff}
    (hex : ∀ s i g, s.current = some (i, g) → exec ins s = .next (s.lanes h (f s i))) : Completes ins h f :=
  fun s i g hc hn => ⟨_, hex s i g hc, State.lanes_ran hc hn⟩

/-- An instruction of the shared shape, where something is raised; only what each lane raises matters. -/
theorem TrapsOn.of_lanes {ins : Instr} {h : Hd} {f f' : State → Issue → Group → Nat → Lane → Eff}
    (hex : ∀ s i g, s.current = some (i, g) → exec ins s = .next (s.lanes h (f' s i)))
    (hf : ∀ s i g k l, (f s i g k l).exc = (f' s i g k l).exc ∧ (f s i g k l).fault = (f' s i g k l).fault) :
    TrapsOn ins h f := by
  intro s i g hc hn
  have same : i.traps g (i.effects g h (f s i)) = i.traps g (i.effects g h (f' s i)) := by
    unfold Issue.traps Issue.effects
    simp only [List.filterMap_map]
    congr 1; funext k
    simp [Eff.trap, (hf s i _ _ _).1, (hf s i _ _ _).2]
  rw [hex s i g hc, State.lanes_trap hc (same ▸ hn), same]

/-- A long-latency instruction of the shared shape. -/
theorem WritesLater.of_later {ins : Instr} {h : Hd} {f : State → Issue → Group → Nat → Lane → Eff}
    (hex : ∀ s i g, s.current = some (i, g) → exec ins s = .next (s.later h (f s i))) : WritesLater ins h f := by
  intro s i g hc hn
  let now := (i.effects g h (f s i)).map fun p => (p.1, p.2.awaited s.sch.nextId h.la.toNat)
  let s1 : State := { s with sch := { s.sch with nextId := s.sch.nextId + 1 } }
  refine ⟨s1.setGroup i.gid (i.finish g now), ?_, ?_⟩
  · rw [hex s i g hc]
    unfold State.later
    rw [hc]
    simp only [hn, List.isEmpty_nil, if_true]
    rfl
  · refine Issue.finish_ran s1 i g now ?_
    have := Issue.effects_nodup i g h (f s i)
    simpa [now, List.map_map, Function.comp_def] using this

end Sys2Proof.Machine
end

