-- ==== Sys2Proof/Laws/Memory.lean ====
section
/-! SUPPORT. Laws/Memory.lean: the canonical form of sparse files and of memory, which every operation over memory keeps, and what
a read gives after a write. -/

namespace Sys2Proof.Machine

/-! ### Sparse files -/

/-- A list whose first key is above every bound below `lo` stays one when the bound is lowered. -/
theorem Sparse.above_mono {n : Nat} {m : Sparse n} {lo hi : Option Nat}
    (h : ∀ l, lo = some l → ∃ k, hi = some k ∧ l ≤ k) (hm : Sparse.above hi m = true) : Sparse.above lo m = true := by
  cases m with
  | nil => rfl
  | cons c r =>
    obtain ⟨j, v⟩ := c
    simp only [Sparse.above, Bool.and_eq_true] at hm ⊢
    refine ⟨⟨?_, hm.1.2⟩, hm.2⟩
    cases lo with
    | none => rfl
    | some l =>
      obtain ⟨k, rfl, hk⟩ := h l rfl
      have := hm.1.1
      simp only [decide_eq_true_eq] at this ⊢
      omega

theorem Sparse.above_none {n : Nat} {m : Sparse n} {lo : Option Nat} (hm : Sparse.above lo m = true) : Sparse.wf m = true :=
  Sparse.above_mono (by simp) hm

theorem Sparse.above_cons {n : Nat} {lo : Option Nat} {j : Nat} {v : BitVec n} {r : Sparse n} :
    Sparse.above lo ((j, v) :: r) = true ↔ (∀ l, lo = some l → l < j) ∧ v ≠ 0 ∧ Sparse.above (some j) r = true := by
  cases lo <;> simp [Sparse.above, and_assoc]

theorem Sparse.above_set {n : Nat} (m : Sparse n) (lo : Option Nat) (k : Nat) (v : BitVec n) (hk : ∀ l, lo = some l → l < k)
    (hm : Sparse.above lo m = true) : Sparse.above lo (Sparse.set m k v) = true := by
  induction m generalizing lo with
  | nil =>
    simp only [Sparse.set]; split
    · rfl
    · rename_i h; exact Sparse.above_cons.2 ⟨hk, h, rfl⟩
  | cons c r ih =>
    obtain ⟨j, w⟩ := c
    obtain ⟨h1, h2, h3⟩ := Sparse.above_cons.1 hm
    simp only [Sparse.set]
    split
    · rename_i hkj
      split
      · exact hm
      · rename_i h; exact Sparse.above_cons.2 ⟨hk, h, Sparse.above_cons.2 ⟨by rintro l ⟨⟩; exact hkj, h2, h3⟩⟩
    · split
      · rename_i hkj; subst hkj
        split
        · exact Sparse.above_mono (fun l hl => ⟨k, rfl, Nat.le_of_lt (hk l hl)⟩) h3
        · rename_i h; exact Sparse.above_cons.2 ⟨hk, h, h3⟩
      · exact Sparse.above_cons.2 ⟨h1, h2, ih (some j) (by rintro l ⟨⟩; omega) h3⟩

/-- A write keeps the canonical form. -/
theorem Sparse.wf_set {n : Nat} {m : Sparse n} (k : Nat) (v : BitVec n) (hm : Sparse.wf m = true) : Sparse.wf (Sparse.set m k v) = true :=
  Sparse.above_set m none k v (by simp) hm

/-- Nothing is listed at or below a bound. -/
theorem Sparse.get_above {n : Nat} {m : Sparse n} {lo k : Nat} (hm : Sparse.above (some lo) m = true) (hk : k ≤ lo) : Sparse.get m k = 0 := by
  cases m with
  | nil => rfl
  | cons c r =>
    obtain ⟨j, v⟩ := c
    simp only [Sparse.above, Bool.and_eq_true, decide_eq_true_eq] at hm
    have : lo < j := hm.1.1
    simp [Sparse.get, show ¬ k = j by omega, show k < j by omega]

/-- A read after a write: the value written, or what stood there. -/
theorem Sparse.get_set {n : Nat} {m : Sparse n} (k a : Nat) (v : BitVec n) (hm : Sparse.wf m = true) :
    Sparse.get (Sparse.set m k v) a = if a = k then v else Sparse.get m a := by
  have go : ∀ (m : Sparse n) (lo : Option Nat), Sparse.above lo m = true →
      Sparse.get (Sparse.set m k v) a = if a = k then v else Sparse.get m a := by
    intro m
    induction m with
    | nil => intro lo _; simp only [Sparse.set]; split <;> simp_all [Sparse.get]
    | cons c r ih =>
      intro lo hm
      obtain ⟨j, w⟩ := c
      simp only [Sparse.above, Bool.and_eq_true] at hm
      simp only [Sparse.set]
      split
      · rename_i hkj
        split
        · rename_i hv; subst hv
          by_cases ha : a = k
          · subst ha; simp [Sparse.get, hkj, show ¬ a = j by omega]
          · simp [ha]
        · by_cases ha : a = k
          · simp [ha, Sparse.get]
          · simp only [ha, if_false]
            by_cases hak : a < k
            · simp [Sparse.get, hak, show a ≠ j by omega, show a < j by omega, ha]
            · simp [Sparse.get, hak, ha]
      · split
        · rename_i hkj; subst hkj
          split
          · rename_i hv; subst hv
            by_cases ha : a = k
            · subst ha; simp [Sparse.get_above hm.2 (Nat.le_refl _)]
            · by_cases hak : a < k
              · simp [Sparse.get, ha, hak, Sparse.get_above hm.2 (Nat.le_of_lt hak)]
              · simp [Sparse.get, ha, hak]
          · by_cases ha : a = k
            · simp [ha, Sparse.get]
            · simp [Sparse.get, ha]
        · rename_i h1 h2
          simp only [Sparse.get]
          by_cases haj : a = j
          · simp [haj, show ¬ j = k by omega]
          · by_cases hlt : a < j
            · simp [haj, hlt, show ¬ a = k by omega]
            · simp only [haj, hlt, if_false]; exact ih (some j) hm.2
  exact go m none hm

/-- Leaving entries out keeps the canonical form. -/
theorem Sparse.above_filter {n : Nat} (p : Nat × BitVec n → Bool) (m : Sparse n) (lo : Option Nat) (hm : Sparse.above lo m = true) :
    Sparse.above lo (m.filter p) = true := by
  induction m generalizing lo with
  | nil => rfl
  | cons c r ih =>
    obtain ⟨j, v⟩ := c
    simp only [Sparse.above, Bool.and_eq_true] at hm
    simp only [List.filter]
    split
    · simp only [Sparse.above, Bool.and_eq_true]; exact ⟨hm.1, ih _ hm.2⟩
    · refine ih lo (Sparse.above_mono ?_ hm.2)
      rintro l rfl
      exact ⟨j, rfl, by have := hm.1.1; simp only [decide_eq_true_eq] at this; omega⟩

theorem Sparse.wf_filter {n : Nat} {m : Sparse n} (p : Nat × BitVec n → Bool) (hm : Sparse.wf m = true) : Sparse.wf (m.filter p) = true :=
  Sparse.above_filter p m none hm

theorem Sparse.wf_setBytes (b : List Byte) (m : Sparse 8) (k : Nat) (hm : Sparse.wf m = true) : Sparse.wf (Sparse.setBytes m k b) = true := by
  induction b generalizing m k with
  | nil => exact hm
  | cons x r ih => exact ih _ _ (Sparse.wf_set k x hm)

/-! ### Memory -/

theorem Memory.wf_setByte {m : Memory} (k : Nat) (b : Byte) (hm : m.wf = true) : (m.setByte k b).wf = true := Sparse.wf_set k b hm

theorem Memory.byte_setByte {m : Memory} (k a : Nat) (b : Byte) (hm : m.wf = true) :
    (m.setByte k b).byte a = if a = k then b else m.byte a := Sparse.get_set k a b hm

theorem Memory.wf_setBytes (b : List Byte) (m : Memory) (k : Nat) (hm : m.wf = true) : (m.setBytes k b).wf = true := by
  induction b generalizing m k with
  | nil => exact hm
  | cons x r ih => exact ih _ _ (Memory.wf_setByte k x hm)

/-- Bytes written are read back, and every other byte is what it was. -/
theorem Memory.byte_setBytes (b : List Byte) (m : Memory) (k a : Nat) (hm : m.wf = true) :
    (m.setBytes k b).byte a = if k ≤ a ∧ a < k + b.length then b.getD (a - k) 0 else m.byte a := by
  induction b generalizing m k with
  | nil => simp [Memory.setBytes, show ¬ (k ≤ a ∧ a < k) by omega]
  | cons x r ih =>
    have e := ih (m.setByte k x) (k + 1) (Memory.wf_setByte k x hm)
    simp only [Memory.setBytes, List.length_cons]
    rw [e, Memory.byte_setByte k a x hm]
    by_cases h1 : a = k
    · subst h1; rw [if_neg (by omega)]; simp
    · by_cases h2 : k + 1 ≤ a ∧ a < k + 1 + r.length
      · obtain ⟨d, hd⟩ : ∃ d, a - k = d + 1 := ⟨a - k - 1, by omega⟩
        simp [h2, show k ≤ a ∧ a < k + (r.length + 1) by omega, hd, show a - (k + 1) = d by omega]
      · rw [if_neg h2, if_neg h1, if_neg (by omega)]

@[simp] theorem Memory.views_setBytes (b : List Byte) (m : Memory) (k : Nat) : (m.setBytes k b).views = m.views := by
  induction b generalizing m k with
  | nil => rfl
  | cons x r ih => exact ih _ _

theorem Memory.wf_writeBack {m : Memory} (w : Window) (v : ViewBlock) (hm : m.wf = true) : (m.writeBack w v).wf = true :=
  Memory.wf_setBytes _ _ _ (Memory.wf_setBytes _ _ _ hm)

/-- A change of memory that leaves its bytes alone keeps the form. -/
theorem Memory.wf_of_cells {m u : Memory} (h : u.cells = m.cells) (hm : m.wf = true) : u.wf = true := by
  unfold Memory.wf at *; rw [h]; exact hm

theorem State.wf_dropViews (s : State) (key n : Nat) (hm : s.mem.wf = true) : (s.dropViews key n).mem.wf = true := by
  unfold State.dropViews
  generalize s.mem.views = vs
  induction vs generalizing s with
  | nil => exact hm
  | cons v vs ih =>
    refine ih _ ?_
    dsimp only
    split
    · exact hm
    · split
      · refine Memory.wf_of_cells rfl ?_
        split
        · obtain ⟨i, h⟩ := s.writeBack_frame _ v
          rw [h]; exact Memory.wf_writeBack _ _ hm
        · exact hm
      · exact hm

theorem State.mem_markDirty (s : State) (key n : Nat) : (s.markDirty key n).mem = s.mem := by
  obtain ⟨i, h⟩ := s.markDirty_frame key n; rw [h]

/-- The one operation through which every agent writes memory keeps the form. -/
theorem State.wf_store (s : State) (key : Nat) (b : List Byte) (hm : s.mem.wf = true) : (s.store key b).mem.wf = true := by
  unfold State.store
  split
  · exact Memory.wf_of_cells rfl hm
  · refine Memory.wf_setBytes _ _ _ ?_
    rw [State.mem_markDirty]; exact State.wf_dropViews s key _ hm

/-- Losing power keeps the form. -/
theorem State.wf_powerOff (s : State) (hm : s.mem.wf = true) : s.powerOff.mem.wf = true :=
  Sparse.wf_filter (n := 8) (m := s.mem.cells) _ hm

/-- With no view block cached, a store outside the apertures writes its bytes and no other. -/
theorem State.byte_store (s : State) (key : Nat) (b : List Byte) (a : Nat) (hv : s.mem.views = []) (hk : inAperture key = false)
    (hm : s.mem.wf = true) :
    (s.store key b).mem.byte a = if key ≤ a ∧ a < key + b.length then b.getD (a - key) 0 else s.mem.byte a := by
  have e : (s.dropViews key b.length) = s := by unfold State.dropViews; rw [hv]; rfl
  unfold State.store
  simp only [hk, e, Bool.false_eq_true, if_false]
  rw [Memory.byte_setBytes]
  · rw [State.mem_markDirty]; rfl
  · rw [State.mem_markDirty]; exact hm

end Sys2Proof.Machine
end

