-- ==== Sys2Proof/Laws/Ops.lean ====
section
/-! SUPPORT. Laws/Ops.lean: what the shared operations answer: masks of lanes, the bundle in issue, an instruction that executes once
for its bundle, and taking a precise fault. -/

namespace Sys2Proof.Machine

theorem mem_maskLanes {m : Mask} {k : Nat} : k ∈ maskLanes m ↔ k < 64 ∧ hasBit m k = true := by
  simp [maskLanes, List.mem_filter, List.mem_range]

theorem hasBit_lt {m : Mask} {k : Nat} (h : hasBit m k = true) : k < 64 := by
  refine Classical.byContradiction fun hk => ?_
  simp [hasBit, BitVec.getLsbD_of_ge m k (by omega)] at h

/-- A mask made of a list holds the list's numbers below 64. -/
theorem hasBit_laneMask (l : List Nat) (k : Nat) : hasBit (laneMask l) k = (decide (k < 64) && decide (k ∈ l)) := by
  have go : ∀ (l : List Nat) (m : Mask), (l.foldl (fun m i => m ||| (1#64 <<< i)) m).getLsbD k =
      (m.getLsbD k || (decide (k < 64) && decide (k ∈ l))) := by
    intro l
    induction l with
    | nil => simp
    | cons x r ih =>
      intro m
      rw [List.foldl_cons, ih]
      by_cases hk : k < 64
      · by_cases hx : k = x
        · subst hx; simp [hk]
        · have hz : ¬(¬k < x ∧ k - x = 0) := by omega
          by_cases hl : k < x
          · simp [hk, hx, hl]
          · have : ¬ k - x = 0 := fun e => hz ⟨hl, e⟩
            simp [hk, hx, this]
      · simp [hk, BitVec.getLsbD_of_ge _ k (by omega : 64 ≤ k)]
  have := go l 0
  simpa [hasBit, laneMask] using this

/-- The bundle in issue, from its parts. -/
theorem State.current_eq {s : State} {i : Issue} {g : Group} (h1 : s.sch.issue = some i) (h2 : s.group i.gid = some g) :
    s.current = some (i, g) := by simp [State.current, h1, h2]

theorem State.current_iff {s : State} {i : Issue} {g : Group} :
    s.current = some (i, g) ↔ s.sch.issue = some i ∧ s.group i.gid = some g := by
  constructor
  · intro h
    unfold State.current at h
    split at h
    · split at h
      · injection h with h; injection h with h1 h2; subst h1 h2; exact ⟨by assumption, by assumption⟩
      · cases h
    · cases h
  · rintro ⟨h1, h2⟩; exact State.current_eq h1 h2

/-- An instruction that executes once has its effect from the lowest guarded lane; without one the bundle only advances. -/
theorem State.once_some {s : State} {i : Issue} {g : Group} {h : Hd} {k : Nat} {ks : List Nat}
    (f : State → Issue → Group → Nat → State) (hc : s.current = some (i, g)) (hg : i.guarded g h = k :: ks) :
    s.once h f = f s i g k := by simp only [State.once, hc, hg]

theorem State.once_none {s : State} {i : Issue} {g : Group} {h : Hd} (f : State → Issue → Group → Nat → State)
    (hc : s.current = some (i, g)) (hg : i.guarded g h = []) : s.once h f = s.setGroup i.gid (g.advance i) := by
  simp only [State.once, hc, hg]

theorem State.trapGuarded_eq (s : State) (i : Issue) (g : Group) (h : Hd) (c : Code) (a : DWord) :
    s.trapGuarded i g h c a = s.takeTrap i ((i.guarded g h).map fun k => (k, c, a)) := rfl

theorem State.trapAll_eq (s : State) (i : Issue) (c : Code) (a : DWord) :
    s.trapAll i c a = s.takeTrap i (i.active.map fun k => (k, c, a)) := rfl

/-- Where the handler can be entered and no faulting lane has H set, taking a precise fault enters it: the group as it stood before the
pair takes the results that have arrived, has its faults set, and enters; nothing else changes but the mark of the trap and what is
left of those results. -/
theorem State.takeTrap_enter {s : State} {i : Issue} {g0 : Group} {ker : Kernel} {fs : List (Nat × Code × DWord)}
    (hg : s.group i.gid = some g0) (hk : s.kernelOf (i.source g0) = some ker) (hh : ker.hdr.handler ≠ 0)
    (ho : s.handlerOk (s.ctxOf (i.source g0)) ker.hdr.handler = true) (hH : (fs.any fun f => ((i.source g0).lane f.1).h) = false) :
    ∃ t, s.takeTrap i fs = t ∧ t.mem = s.mem ∧ t.ker = s.ker ∧ t.eng = s.eng ∧ t.ctx = s.ctx ∧ t.run.teams = s.run.teams ∧
      t.run.accs = s.run.accs ∧
      t.group i.gid = some ((((i.source g0).flushPending i.gid i.lanes s.run.pend).setFault i.lanes fs).enter i.lanes i.word i.pc0 i.info
        ker.hdr.handler).settle := by
  refine ⟨_, rfl, ?_⟩
  unfold Issue.source at *
  unfold State.takeTrap
  simp only [hg, hk, hH, hh, Bool.false_eq_true, if_false, ho, if_true]
  refine ⟨rfl, rfl, rfl, rfl, rfl, rfl, ?_⟩
  exact Table.get_set_self _ _ _

end Sys2Proof.Machine
end

