-- ==== Sys2Proof/Tests/Slice0.lean ====
section
/-! SUPPORT. Tests/Slice0.lean: words written out from the encoding tables, the terms that the well-formedness check refuses, single
steps with the results the manual gives, and for every statement a state and operands that meet its hypotheses. -/

namespace Sys2Proof.Tests

open Sys2Proof.Machine

/-! ### Words from the encodings of 03_encoding.md and of each entry -/

set_option Elab.async false
theorem test_iadd_word : decodeTableWord 96 0x0400770000C00400B8038000 =
    some (.iadd noGuard .i32 false (.v 3) (.v 1) (.v 2)) := by decide +kernel

theorem test_ffma_word : decodeTableWord 96 0x3300771801000400800F8000 =
    some (.ffma ⟨0, 7, 7, false, true, false⟩ .rtz (.v 4) (.v 1) (.v 2) (.v 3)) := by decide +kernel

theorem test_meet_word : decodeTableWord 96 0x5900770380300700B8038000 =
    some (.meet noGuard .label (.imm 1) (.imm 2)) := by decide +kernel

theorem test_bars_word : decodeTableWord 96 0x720077038030078038038000 =
    some (.bars noGuard .team (.imm 1) .absent .absent .absent) := by decide +kernel

theorem test_ld_word : decodeTableWord 96 0x80C27720010020008000100B =
    some (.ld ⟨2, 7, 7, false, false, false⟩ .b32 true .fresh .acq .dev (.v 4) ⟨.v 8, .v 2, 64⟩) := by decide +kernel

theorem test_ldw_word : decodeTableWord 96 0x814097100098178000000000 =
    some (.ldw ⟨0, 9, 7, false, false, false⟩ .b32 false .ro .plain .team (.v 2) ⟨.s 5, .absent, 0⟩) := by decide +kernel

theorem test_probe_word : decodeTableWord 96 0xA00077018098038000000000 =
    some (.probe noGuard (.s 2) ⟨.s 0, .absent, 0⟩) := by decide +kernel

theorem test_btl_word : decodeTableWord 96 0xA800770301580300180980C0 =
    some (.btl noGuard .dflt false (.imm 5) (.s 0) (.imm 0) (.s 2) (.s 3)) := by decide +kernel

theorem test_mma_word : decodeTableWord 96 0xB110770300181181700B8000 =
    some (.mma noGuard .lns6nz false (.imm 0) (.s 4) (.s 5) (.imm 2) .absent) := by decide +kernel

theorem test_ready_word : decodeTableWord 96 0x7600770380181300F8038003 =
    some (.ready noGuard .dev (.s 4) (.imm 3) .absent) := by decide +kernel

theorem test_qpost_word : decodeTableWord 96 0xC100770200301581B80181C3 =
    some (.qpost noGuard .dev (.p false 0) (.imm 5) (.s 6) (.s 7)) := by decide +kernel

theorem test_svc_word : decodeTableWord 96 0xC800770001B01C02300B8000 =
    some (.svc noGuard (.v 6) (.imm 7) (.v 8) (.imm 2)) := by decide +kernel

theorem test_drain_word : decodeTableWord 96 0xD10077020037FD80F8038000 =
    some (.drain noGuard (.p false 0) (.imm 511) (.s 3)) := by decide +kernel

theorem test_dsend_word : decodeTableWord 96 0xD800770182181181581981C0 =
    some (.dsend noGuard (.s 8) (.s 4) (.s 5) (.s 6) (.s 7)) := by decide +kernel

theorem test_sqtok_word : decodeTableWord 96 0xE100770001000800F8000140 =
    some (.sqtok noGuard false false (.v 4) (.v 2) (.v 3) (.v 5)) := by decide +kernel

theorem test_brk_word : decodeTableWord 96 0xE90077038038000000001400 =
    some (.brk noGuard 5) := by decide +kernel

/-! ### Ill-formed terms, at least one for each check -/

/-- Every term of the list is refused. -/
def refused (is : List Instr) : Bool := is.all fun i => i.wf == false

def laHd : Hd := { noGuard with la := 1 }
def fiHd : Hd := { noGuard with fi := true }
def foHd : Hd := { noGuard with fo := true }

/-- Types (R101 and the entries of 05_lane.md). -/
theorem test_wf_integer_types : refused [
    .mov noGuard .i32 (.v 0) (.v 1), .sel noGuard .n32 (.v 0) (.v 1) (.v 2) (.p false 0), .iadd noGuard .b32 false (.v 0) (.v 1) (.v 2),
    .isub noGuard .b64 false (.v 0) (.v 2) (.v 4), .iaddc noGuard .i32 (.v 0) (.v 1) (.v 2) .absent .absent,
    .imul noGuard .n8 false (.v 0) (.v 1) (.v 2), .imul noGuard .i8 false (.v 0) (.v 1) (.v 2), .imulh noGuard .i16 (.v 0) (.v 1) (.v 2),
    .imad noGuard .i64 true false (.v 0) (.v 2) (.v 4) (.v 6), .imad noGuard .i16 false false (.v 0) (.v 2) (.v 4) (.v 6),
    .idiv noGuard .n8 (.v 0) (.v 1) (.v 2) .absent, .imin noGuard .b32 (.v 0) (.v 1) (.v 2), .imax noGuard .b32 (.v 0) (.v 1) (.v 2),
    .iabs noGuard .n32 false (.v 0) (.v 1), .ineg noGuard .n64 false (.v 0) (.v 2), .icmp noGuard .b32 .eq .and (.p false 0) (.v 1) (.v 2) .absent,
    .and noGuard .i32 (.v 0) (.v 1) (.v 2), .or noGuard .n32 (.v 0) (.v 1) (.v 2), .xor noGuard .i64 (.v 0) (.v 2) (.v 4),
    .not noGuard .i32 (.v 0) (.v 1), .bool3 noGuard .i32 (.v 0) (.v 1) (.v 2) (.v 3) (.imm 1), .shl noGuard .i32 (.v 0) (.v 1) (.v 2),
    .shr noGuard .n32 (.v 0) (.v 1) (.v 2), .sar noGuard .b32 (.v 0) (.v 1) (.v 2), .rot noGuard .i32 false (.v 0) (.v 1) (.v 2),
    .fsh noGuard .n32 false (.v 0) (.v 1) (.v 2) (.v 3), .popc noGuard .i32 (.v 0) (.v 1), .clz noGuard .n32 (.v 0) (.v 1),
    .ctz noGuard .i64 (.v 0) (.v 2), .brev noGuard .n8 (.v 0) (.v 1), .bfx noGuard .b32 (.v 0) (.v 1) (.v 2) (.v 3),
    .bfi noGuard .i32 (.v 0) (.v 1) (.v 2) (.v 3) (.v 4), .lea noGuard .i64 0 (.v 0) (.v 2) (.v 4), .srd noGuard .i32 (.v 0) (.sp 1),
    .swr noGuard .i32 (.sp 8) (.v 0)] = true := by decide +kernel

/-- Operand classes, pairs and header bits (R60, R62, R99, R101). -/
theorem test_wf_integer_operands : refused [
    .mov laHd .b32 (.v 0) (.v 1), .mov fiHd .b32 (.v 0) (.v 1), .mov foHd .b32 (.v 0) (.v 1), .mov noGuard .b64 (.v 1) (.v 2),
    .mov noGuard .b64 (.v 2) (.o 1), .mov noGuard .b32 (.s 0) (.v 1), .mov noGuard .b32 (.imm 0) (.v 1), .mov noGuard .b32 (.v 0) (.p false 1),
    .movi laHd .b32 (.v 0) 1, .movi noGuard .hi (.a 1) 1, .movi noGuard .b32 .absent 1, .sel noGuard .b32 (.v 0) (.v 1) (.v 2) .absent,
    .sel noGuard .b32 (.s 0) (.s 1) (.s 2) (.p false 0), .iadd noGuard .i32 false (.v 0) .absent (.v 2), .isub noGuard .i64 false (.v 0) (.v 1) (.v 2),
    .iaddc noGuard .n32 (.v 0) (.v 1) (.v 2) (.v 3) .absent, .iaddc noGuard .n32 (.v 0) (.v 1) (.v 2) .absent (.p true 0),
    .imulh laHd .i32 (.v 0) (.v 1) (.v 2), .imad laHd .i32 false false (.v 0) (.v 1) (.v 2) (.v 3),
    .imad noGuard .i32 true false (.v 1) (.v 1) (.v 2) (.v 4), .imad noGuard .i32 true false (.v 0) (.v 1) (.v 2) (.v 3),
    .idiv noGuard .i32 (.v 0) (.v 1) (.v 2) (.imm 0), .idiv noGuard .i32 (.v 0) (.v 1) (.v 2) (.s 0), .imin noGuard .i32 .absent (.v 1) (.v 2),
    .imax noGuard .i64 (.v 0) (.v 2) (.v 5), .iabs fiHd .i32 false (.v 0) (.v 1), .ineg noGuard .i32 false (.v 0) .absent,
    .icmp noGuard .i32 .eq .and (.p true 0) (.v 1) (.v 2) .absent, .icmp noGuard .i32 .eq .and (.p false 0) (.v 1) (.v 2) (.v 3),
    .and noGuard .b32 (.v 0) (.v 1) .absent, .or noGuard .b64 (.v 0) (.v 1) (.v 2), .xor noGuard .b32 (.s 1) (.v 0) (.s 1),
    .not noGuard .b32 .absent (.v 1), .bool3 noGuard .b32 (.v 0) (.v 1) (.v 2) (.v 3) (.imm 256), .bool3 noGuard .b32 (.v 0) (.v 1) (.v 2) (.v 3) (.v 4),
    .shl noGuard .b32 (.v 0) (.v 1) .absent, .shr noGuard .b64 (.v 1) (.v 2) (.v 4), .sar noGuard .i64 (.v 0) (.v 1) (.v 2),
    .rot noGuard .b32 true (.s 0) (.s 1) (.v 2), .fsh noGuard .b32 true (.v 0) (.v 1) (.v 2) .absent, .popc noGuard .b64 (.v 0) (.v 1),
    .clz noGuard .b32 (.imm 0) (.v 1), .ctz noGuard .b32 (.s 0) (.v 1), .brev laHd .b32 (.v 0) (.v 1),
    .bfx noGuard .i32 (.v 0) (.v 1) .absent (.v 3), .bfi noGuard .b32 (.v 0) (.v 1) (.v 2) (.v 3) .absent, .lea noGuard .i32 0 (.v 1) (.v 2) (.v 4),
    .pbool noGuard (.p false 0) (.v 1) .absent .absent (.imm 0), .pbool noGuard (.v 0) .absent .absent .absent (.imm 0),
    .pbool noGuard (.p false 0) .absent .absent .absent (.imm 256), .pmovGet noGuard (.s 0), .pmovPut noGuard (.v 0) (.imm 128),
    .srd noGuard .b64 (.v 0) (.sp 7), .srd noGuard .b32 (.s 0) (.sp 1), .srd noGuard .b32 (.v 0) (.v 1), .srd noGuard .b64 (.v 1) (.sp 2),
    .swr noGuard .b32 (.sp 1) (.v 0), .swr noGuard .b64 (.sp 8) (.v 0), .swr noGuard .b32 (.v 8) (.v 0)] = true := by decide +kernel

/-- 06_arithmetic.md. -/
theorem test_wf_float : refused [
    .fadd laHd .rne (.v 0) (.v 1) (.v 2), .fsub noGuard .rne (.s 0) (.s 1) (.s 2), .fmul noGuard .rne (.v 0) .absent (.v 2),
    .ffma noGuard .rne (.v 0) (.v 1) (.v 2) .absent, .fscale laHd .rne (.v 0) (.v 1) (.v 2), .fmin foHd .f32 (.v 0) (.v 1) (.v 2),
    .fmax noGuard .f32 .absent (.v 1) (.v 2), .fabs fiHd .f32 (.v 0) (.v 1), .fneg noGuard .f32 (.s 0) (.v 1),
    .fcmp noGuard .eq .and (.p true 0) (.v 1) (.v 2) .absent, .fcmp noGuard .eq .and (.p false 0) (.v 1) (.v 2) (.v 3),
    .fcmp foHd .eq .and (.p false 0) (.v 1) (.v 2) .absent, .fclass fiHd (.v 0) (.v 1), .frnd foHd .rne false (.v 0) (.v 1),
    .pkadd noGuard .f32 .rne (.v 0) (.v 1) (.v 2), .pkmul laHd .f16x2 .rne (.v 0) (.v 1) (.v 2), .pkfma noGuard .f32 .rne (.v 0) (.v 1) (.v 2) (.v 3),
    .fdot2 noGuard .f32 .rne (.v 0) (.v 1) (.v 2) (.v 3), .cvt laHd .f16 .f32 .rne false false (.v 0) (.v 1) .absent,
    .cvt noGuard .f32 .f32 .rne false false (.v 0) (.v 1) .absent, .cvt noGuard .f32 .f16x2 .rne false false (.v 0) (.v 1) .absent,
    .cvt noGuard .f16x2 .f16 .rne false false (.v 0) (.v 1) (.v 2), .cvt noGuard .f16 .f32 .rne false true (.v 0) (.v 1) .absent,
    .cvt noGuard .f32 .f16 .rne true false (.v 0) (.v 1) .absent, .cvt noGuard .i8 .f32 .rne true false (.v 0) (.v 1) .absent,
    .cvt noGuard .i8 .i32 .rtz false false (.v 0) (.v 1) .absent, .cvt fiHd .f32 .i32 .rne false false (.v 0) (.v 1) .absent,
    .cvt foHd .i32 .f32 .rne false false (.v 0) (.v 1) .absent, .cvt noGuard .i64 .f32 .rne false false (.v 1) (.v 2) .absent,
    .cvt noGuard .f32 .i64 .rne false false (.v 0) (.v 1) .absent, .cvt noGuard .f16x2 .f32 .rne false false (.v 0) (.v 1) .absent,
    .cvt noGuard .f16 .f32 .rne false false (.v 0) (.v 1) (.v 2), .cvtlEnc foHd (.v 0) (.v 1) (.v 2), .cvtlEnc noGuard (.s 0) (.v 1) (.v 2),
    .cvtlDec fiHd .rne (.v 0) (.v 1) (.v 2), .cvtlScale foHd (.v 0) (.v 1), .rcp noGuard (.s 0) (.v 1), .rsq noGuard (.v 0) .absent,
    .sqrt noGuard .rne (.p false 0) (.v 1), .ex2 noGuard .absent (.v 1), .lg2 noGuard (.imm 0) (.v 1), .rred noGuard (.v 0) (.p false 1),
    .sint noGuard (.s 0) (.v 1), .cost noGuard (.v 0) .absent, .tanh noGuard (.v 0) (.sp 1)] = true := by decide +kernel

/-- 07_group.md, the control instructions of 05_lane.md, and 08_barrier.md. -/
theorem test_wf_lanes : refused [
    .shfl noGuard .from 6 false (.v 0) (.v 1) (.v 2) .absent .absent, .shfl laHd .from 0 false (.v 0) (.v 1) (.v 2) .absent .absent,
    .shfl noGuard .from 0 false (.s 0) (.v 1) (.v 2) .absent .absent, .shfl noGuard .from 0 true (.v 1) (.v 2) (.v 2) .absent .absent,
    .shfl noGuard .from 0 false (.v 0) (.v 1) .absent .absent .absent, .shfl noGuard .from 0 false (.v 0) (.v 1) (.v 2) (.p false 0) .absent,
    .shfl noGuard .from 0 false (.v 0) (.v 1) (.v 2) .absent (.p true 0), .bcast noGuard true false (.v 0) (.v 1) (.imm 0) .absent,
    .bcast noGuard false false (.v 0) (.v 1) (.v 2) .absent, .bcast noGuard true false (.v 0) (.v 1) .absent (.v 2),
    .ballot noGuard (.v 1) (.p false 0), .ballot noGuard (.v 0) (.v 1), .vote noGuard .every (.p true 0) (.p false 1),
    .vote noGuard .every (.p false 0) .absent, .matchv noGuard false false (.v 1) (.v 2) .absent, .matchv noGuard false false (.s 0) (.v 2) .absent,
    .matchv noGuard false false (.v 0) (.v 2) (.p false 0), .matchv noGuard true false (.v 0) .absent .absent, .elect noGuard (.v 0) .absent,
    .elect noGuard (.p false 0) (.imm 0), .gred noGuard .min .b32 0 (.v 0) (.v 1), .gred noGuard .and .i32 0 (.v 0) (.v 1),
    .gred noGuard .add .f32 5 (.v 0) (.v 1), .gred noGuard .add .i32 2 (.v 0) (.v 1), .gred noGuard .min .i32 1 (.v 0) (.v 1),
    .gred fiHd .add .i32 0 (.v 0) (.v 1), .gscan noGuard .add .i32 false 0 (.s 0) (.v 1) .absent, .gscan noGuard .add .i32 false 0 (.v 0) (.v 1) (.p false 0),
    .active noGuard true (.v 1), .active laHd false (.v 0), .meet noGuard .label (.imm 0) (.imm 5), .meet noGuard .label (.v 0) (.imm 0),
    .meet noGuard .reg (.v 1) .absent, .meet noGuard .reg (.v 0) (.imm 0), .meet noGuard .clr (.imm 0) .absent, .join laHd, .exit laHd, .tret laHd,
    .region laHd, .bra noGuard 0 5, .brx noGuard (.v 1), .brx noGuard (.imm 0), .ret noGuard .absent, .call noGuard (.v 0) 0 5, .call noGuard (.v 1) 0 0,
    .callx noGuard (.s 0) (.v 2), .callx noGuard (.v 0) (.v 1), .trap laHd 0, .sleep noGuard .absent, .bara noGuard .team (.s 0) (.imm 0) .absent,
    .bara noGuard .team .absent (.imm 16) .absent, .bara noGuard .team .absent (.imm 0) (.imm 0), .bara noGuard .team .absent (.imm 0) (.imm 65),
    .bara noGuard .team .absent (.v 0) .absent, .barw noGuard .team (.imm 0) .absent .absent .absent, .barw noGuard .team (.imm 0) (.v 0) (.v 1) .absent,
    .barw noGuard .team (.imm 0) (.v 0) .absent (.p true 0), .bars noGuard .team (.imm 16) .absent .absent .absent,
    .bars noGuard .team (.imm 0) (.imm 65) .absent .absent, .monarm noGuard false .rel .team (.v 0) ⟨.v 2, .absent, 0⟩,
    .monarm noGuard false .plain .core (.v 0) ⟨.v 2, .absent, 0⟩, .monarm noGuard true .plain .team (.v 1) ⟨.v 2, .absent, 0⟩,
    .monarm noGuard false .plain .team (.v 0) ⟨.v 1, .absent, 0⟩, .waitmon noGuard (.v 0) .absent, .waitmon noGuard .absent (.p false 0),
    .waitc noGuard .acqrel .team (.v 0) ⟨.v 2, .absent, 0⟩, .waitc noGuard .plain .team (.v 1) ⟨.v 2, .absent, 0⟩, .ready noGuard .die (.s 0) (.imm 1) .absent,
    .ready noGuard .dev (.v 0) (.imm 1) .absent, .ready noGuard .dev (.s 0) .absent .absent, .ldmon noGuard false .plain .team (.s 0) ⟨.v 2, .absent, 0⟩,
    .ldmon fiHd false .plain .team (.v 0) ⟨.v 2, .absent, 0⟩] = true := by decide +kernel

/-- 09_access.md, 10_page.md. -/
theorem test_wf_memory : refused [
    .ld noGuard .b32 false .dflt .rel .team (.v 0) ⟨.v 2, .absent, 0⟩, .ld noGuard .b32 false .ro .acq .dev (.v 0) ⟨.v 2, .absent, 0⟩,
    .ld noGuard .b32 false .dflt .plain .dev (.v 0) ⟨.v 2, .absent, 0⟩, .ld noGuard .b64 false .dflt .plain .team (.v 1) ⟨.v 2, .absent, 0⟩,
    .ld noGuard .b32 false .dflt .plain .team (.v 0) ⟨.v 3, .absent, 0⟩, .ld noGuard .b32 false .dflt .plain .team (.v 0) ⟨.v 2, .imm 1, 0⟩,
    .ld noGuard .b32 false .dflt .plain .team (.s 0) ⟨.v 2, .absent, 0⟩, .ld fiHd .b32 false .dflt .plain .team (.v 0) ⟨.v 2, .absent, 0⟩,
    .ldw noGuard .n8 false .dflt .plain .team (.v 0) ⟨.s 0, .absent, 0⟩, .ldw noGuard .b32 false .dflt .plain .team (.v 0) ⟨.v 0, .absent, 0⟩,
    .ldw noGuard .b32 false .dflt .plain .team (.s 0) ⟨.s 0, .absent, 0⟩, .ldw noGuard .b32 false .dflt .plain .team (.v 0) ⟨.s 0, .v 1, 0⟩,
    .st noGuard .i8 false .dflt .plain .team (.v 0) ⟨.v 2, .absent, 0⟩, .st noGuard .b32 false .ro .plain .team (.v 0) ⟨.v 2, .absent, 0⟩,
    .st noGuard .b32 false .dflt .acq .team (.v 0) ⟨.v 2, .absent, 0⟩, .st noGuard .b32 false .dflt .plain .team .absent ⟨.v 2, .absent, 0⟩,
    .lds noGuard .b32 false .plain .team (.v 0) ⟨.v 2, .v 3, 0⟩, .lds noGuard .b32 false .acq .die (.v 0) ⟨.v 2, .absent, 0⟩,
    .lds noGuard .b32 false .plain .team (.s 0) ⟨.v 2, .absent, 0⟩, .sts noGuard .i16 false .plain .team (.v 0) ⟨.v 2, .absent, 0⟩,
    .sts noGuard .b32 false .acq .team (.v 0) ⟨.v 2, .absent, 0⟩, .sts noGuard .b32 false .plain .team (.v 0) ⟨.imm 2, .absent, 0⟩,
    .atom noGuard .add .b32 .plain .team (.v 0) ⟨.v 2, .absent, 0⟩, .atom noGuard .and .n32 .plain .team (.v 0) ⟨.v 2, .absent, 0⟩,
    .atom noGuard .fadd .n32 .plain .team (.v 0) ⟨.v 2, .absent, 0⟩, .atom noGuard .inc .i32 .plain .team (.v 0) ⟨.v 2, .absent, 0⟩,
    .atom noGuard .cas .b32 .plain .team (.v 0) ⟨.v 2, .absent, 0⟩, .atom noGuard .add .n32 .plain .team (.v 0) ⟨.v 2, .imm 0, 0⟩,
    .atom noGuard .add .n32 .plain .team (.s 0) ⟨.v 2, .absent, 0⟩, .atom noGuard .add .n32 .plain .sys (.v 0) ⟨.v 2, .absent, 0⟩,
    .atoms noGuard .add .n32 .plain .team (.v 0) ⟨.v 2, .v 3, 0⟩, .atoms noGuard .add .n32 .acq .dev (.v 0) ⟨.v 2, .absent, 0⟩,
    .red noGuard .exch .b32 .plain .team (.v 0) ⟨.v 2, .absent, 0⟩, .red noGuard .cas .b32 .plain .team (.v 0) ⟨.v 2, .absent, 0⟩,
    .red noGuard .add .n32 .acq .team (.v 0) ⟨.v 2, .absent, 0⟩, .red noGuard .add .n32 .plain .team (.s 0) ⟨.v 2, .absent, 0⟩,
    .fence noGuard .plain .team, .fence foHd .acqrel .team, .pref noGuard .l1 false .fresh ⟨.v 2, .absent, 0⟩, .pref noGuard .l1 false .dflt ⟨.v 3, .absent, 0⟩,
    .probe noGuard (.v 1) ⟨.v 2, .absent, 0⟩, .probe noGuard (.s 0) ⟨.v 2, .absent, 0⟩, .advise noGuard .tlb .absent ⟨.v 2, .absent, 0⟩,
    .advise fiHd .tlb (.v 0) ⟨.v 2, .absent, 0⟩] = true := by decide +kernel

/-- 12_transfer.md, 13_tile.md. -/
theorem test_wf_engines : refused [
    .btl laHd .dflt false (.imm 0) (.s 0) (.imm 0) (.imm 1) .absent, .btl noGuard .ro false (.imm 0) (.s 0) (.imm 0) (.imm 1) .absent,
    .btl noGuard .dflt false (.imm 64) (.s 0) (.imm 0) (.imm 1) .absent, .bts noGuard .dflt false (.imm 0) (.v 0) (.imm 0) (.imm 1) .absent,
    .bts noGuard .dflt false (.imm 0) (.s 0) .absent (.imm 1) .absent, .bts noGuard .dflt false (.imm 0) (.s 0) (.imm 0) (.imm 0) .absent,
    .bts noGuard .dflt false (.imm 0) (.s 0) (.imm 0) (.imm 1) (.imm 0), .twany noGuard (.v 1) (.s 0) .absent .absent,
    .twany noGuard .absent (.v 0) .absent .absent, .twall noGuard .absent (.s 0) (.v 0) .absent, .twall noGuard .absent (.s 0) .absent (.p true 0),
    .tfirst noGuard .absent (.s 0) .absent, .tfirst fiHd (.v 0) (.s 0) .absent, .tclr noGuard .absent, .strq noGuard .dflt false true true (.s 0) (.s 1) (.imm 1) .absent .absent,
    .strq noGuard .fresh false false false (.s 0) (.s 1) (.imm 1) .absent .absent, .strq noGuard .dflt false false false (.v 0) (.s 1) (.imm 1) .absent .absent,
    .strq noGuard .dflt false false false (.s 0) (.s 1) (.imm 1) (.imm 1) .absent, .strch noGuard (.p true 0) (.s 0) (.s 1),
    .strch noGuard .absent (.imm 4) (.s 1), .strch noGuard .absent (.s 0) (.imm 1), .tzero noGuard false (.v 0), .tzero noGuard false (.imm 64),
    .mma noGuard .lns6 false (.imm 0) (.v 0) (.s 1) (.imm 1) .absent, .mma noGuard .lns6 false (.imm 0) (.s 0) (.s 1) (.imm 0) .absent,
    .mma noGuard .lns6 false (.imm 0) (.s 0) (.s 1) (.imm 1) (.imm 0), .mcommit noGuard (.v 1), .mwait noGuard (.imm 256), .mwait noGuard (.v 0),
    .tld noGuard .ro .plain .team (.imm 0) (.s 0) .absent, .tld noGuard .dflt .rel .team (.imm 0) (.s 0) .absent, .tld noGuard .dflt .plain .core (.imm 0) (.s 0) .absent,
    .tld noGuard .dflt .plain .team (.imm 0) (.v 0) .absent, .tldSp noGuard (.imm 0) .absent, .tst noGuard .dflt .acq .team (.imm 0) (.s 0) .absent,
    .tst noGuard .dflt .plain .team (.imm 0) (.s 0) (.imm 1), .tsts noGuard (.v 0) (.imm 0), .qnt noGuard false (.imm 0) (.v 0),
    .tstat noGuard false (.v 1) (.imm 0), .tstat noGuard false (.v 0) (.v 2)] = true := by decide +kernel

/-- 15_kernel.md to 26_checkpoint.md. -/
theorem test_wf_system : refused [
    .spawn noGuard .team (.s 0) (.s 1) .absent, .spawn noGuard .dev (.v 0) (.s 1) .absent, .spawn noGuard .dev (.s 0) (.s 59) .absent,
    .spawn noGuard .dev (.s 0) (.s 1) (.imm 0), .qpost noGuard .core .absent (.imm 0) (.s 0) .absent, .qpost noGuard .dev (.p true 0) (.imm 0) (.s 0) .absent,
    .qpost noGuard .dev .absent (.imm 256) (.s 0) .absent, .qpost noGuard .dev .absent (.imm 0) (.v 0) .absent, .qpost noGuard .dev .absent (.imm 0) (.s 0) (.v 1),
    .svc fiHd .absent (.imm 0) .absent (.imm 0), .svc noGuard (.s 0) (.imm 0) .absent (.imm 0), .svc noGuard .absent (.imm 256) .absent (.imm 0),
    .svc noGuard .absent (.imm 0) .absent (.imm 1), .svc noGuard .absent (.imm 0) (.v 1) (.imm 1), .svc noGuard .absent (.imm 0) (.v 244) (.imm 1),
    .svc noGuard .absent (.imm 0) (.v 0) (.imm 7), .svcw noGuard (.v 1) (.v 2), .svcw noGuard .absent (.imm 1), .ctxq noGuard (.v 0) (.imm 4),
    .ctxq noGuard (.v 1) (.imm 0), .migrate noGuard false (.p true 0) (.s 0), .migrate noGuard false .absent (.v 0), .drain noGuard .absent (.v 0) .absent,
    .drain noGuard .absent (.imm 1) (.v 0), .lkq noGuard (.v 0) (.imm 4) .absent, .lkq noGuard (.v 0) (.imm 0) .absent, .lkq noGuard (.v 0) (.imm 0) (.imm 16),
    .lkq noGuard (.v 0) (.imm 1) (.imm 0), .lkq noGuard (.v 1) (.imm 1) .absent, .dsend noGuard .absent (.v 0) (.s 1) (.s 2) .absent,
    .dsend noGuard (.v 1) (.s 0) (.s 1) (.s 2) .absent, .dsend noGuard .absent (.s 0) (.s 1) (.s 2) (.v 0), .ddrop noGuard (.v 0),
    .dpull noGuard true (.s 0) (.imm 0), .dstat noGuard (.v 1) (.s 0), .dstat noGuard (.v 0) (.v 2), .sqbind noGuard (.s 0) (.v 2) .absent,
    .sqbind noGuard (.v 0) (.v 3) .absent, .sqbind noGuard .absent .absent .absent, .sqtok noGuard false false (.s 0) (.v 1) (.v 2) .absent,
    .sqtok noGuard false false .absent (.imm 0) (.v 2) .absent, .sqtok noGuard false false .absent (.v 1) .absent .absent,
    .sqtok noGuard false false .absent (.v 1) (.v 2) (.s 0), .sqconf noGuard false .absent (.v 0) (.imm 17), .sqconf noGuard false .absent (.imm 0) (.imm 1),
    .sqrej noGuard (.s 0) (.v 0), .sqrej noGuard .absent .absent, .sqrule noGuard .absent (.v 0) (.imm 16) (.v 2), .sqrule noGuard .absent (.v 0) (.imm 0) (.v 3),
    .sqrule noGuard (.v 0) (.v 0) (.imm 0) (.v 2), .sqclose noGuard (.imm 0), .sqclose fiHd (.v 0), .ckptReq noGuard (.v 1), .ckptGen laHd .absent,
    .ckptWait noGuard .absent (.imm 256), .ckptWait noGuard (.v 1) (.imm 0), .brk laHd 0, .mark noGuard 0 (.p false 0)] = true := by decide +kernel

/-! ### States and operands that meet the hypotheses of the statements

`base` is the machine with one resident group of 16 lanes whose bundle is in issue at 0x1000; the address space 0 to 8 GiB lies in device
memory. Each `witness_` theorem is named after the statement whose hypotheses it meets, clause by clause. -/

def issue0 : Issue := ⟨0, 0xFFFF, 0x1000, 0x1000, 0, false, false, none, false, none⟩

def base : State :=
  let s := State.reset.withFetchWord 96 0
  { s with sch := { s.sch with latch := [], issue := some issue0 } }

/-- `base` with its group changed. -/
def grp (f : Group → Group) : State := base.setGroup 0 (f fetchGroup)

/-- `base` with lane 0 of its group changed. -/
def lane0 (f : Lane → Lane) : State := grp fun g => g.updLane 0 f

/-- The group in which only lane 0 has P0. -/
def oneP : Group := fetchGroup.updLane 0 fun l => { l with p := 1 }

/-- `base` with P0 in lane 0 only, so that `p0Hd` guards that lane alone. -/
def one : State := base.setGroup 0 oneP

def p0Hd : Hd := { noGuard with ga := 0 }

/-- A guard that holds in no lane: not P7. -/
def offHd : Hd := { noGuard with ga := 15 }

/-- The value of a computation that succeeds. -/
def okOr {ε α : Type} (x : Except ε α) (d : α) : α := match x with | .ok y => y | .error _ => d

theorem ok_of {ε α : Type} {x : Except ε α} {d : α} (h : (match x with | .ok _ => true | .error _ => false) = true) : x = .ok (okOr x d) := by
  cases x with
  | ok y => rfl
  | error e => cases h

theorem ok_is {ε α : Type} [DecidableEq α] {x : Except ε α} {a : α} (h : (match x with | .ok y => decide (y = a) | .error _ => false) = true) :
    x = .ok a := by
  cases x with
  | ok y => exact congrArg _ (of_decide_eq_true h)
  | error e => cases h

theorem error_of {α : Type} {x : Except Code α} {c : Code} (h : (match x with | .ok _ => false | .error e => decide (e = c)) = true) :
    x = .error c := by
  cases x with
  | ok y => cases h
  | error e => exact congrArg _ (of_decide_eq_true h)

theorem errNat_of {α : Type} {x : Except Nat α} {c : Nat} (h : (match x with | .ok _ => false | .error e => decide (e = c)) = true) :
    x = .error c := by
  cases x with
  | ok y => cases h
  | error e => exact congrArg _ (of_decide_eq_true h)

theorem faults_of {x : CopyEnd} {c : Code} {a : DWord} (h : (match x with | .fault d b => decide (d = c ∧ b = a) | _ => false) = true) :
    x = .fault c a := by
  cases x with
  | done s => cases h
  | wait s => cases h
  | fault d b => obtain ⟨rfl, rfl⟩ := of_decide_eq_true h; rfl

theorem base_current : base.current = some (issue0, fetchGroup) := by decide +kernel

theorem one_current : one.current = some (issue0, oneP) := by decide +kernel

theorem one_guarded : issue0.guarded oneP p0Hd = [0] := by decide +kernel

/-- Every statement of the forms `Writes`, `WritesLater` and their kin without a further condition. -/
theorem witness_IntegerArithmeticResults : base.current = some (issue0, fetchGroup) := base_current

theorem witness_FitWrapsAndClamps : ITy.isSigned .i8 = true ∧ ITy.isSigned .n8 = false ∧ ITy.min .i8 = -128 ∧ ITy.max .i8 = 127 ∧
    (-129 : Int) < ITy.min .i8 ∧ ITy.max .i8 < 128 ∧ ITy.min .n8 = 0 ∧ ITy.max .n8 = 255 := by decide +kernel

theorem witness_BitAndShiftResults : base.current = some (issue0, fetchGroup) ∧ ITy.isRaw .b32 = true ∧ ITy.isRaw .b64 = true :=
  ⟨base_current, by decide⟩

theorem witness_MoveAndPredicateResults : base.current = some (issue0, fetchGroup) := base_current

/-- The second conjunct is the trap: %fpen enables INT_DIVIDE and the divisor is the immediate 0. -/
theorem witness_Division :
    issue0.traps fetchGroup (issue0.effects fetchGroup noGuard fun g _ l =>
      { fault := if srcInt g l .i32 (.imm 0) = 0 ∧ l.fpen.getLsbD 8 then some (.intDivide, 0) else none }) = [] ∧
    (let g := fetchGroup.updLanes 0xFFFF fun l => { l with fpen := 0x100 }
     (base.setGroup 0 g).current = some (issue0, g) ∧
       issue0.traps g (issue0.effects g noGuard fun g _ l =>
        { fault := if srcInt g l .i32 (.imm 0) = 0 ∧ l.fpen.getLsbD 8 then some (.intDivide, 0) else none }) ≠ []) ∧
    ITy.isSigned .i64 = true := by decide +kernel

theorem witness_SpecialRegisters : base.current = some (issue0, fetchGroup) ∧ (2 : BitVec 9) ≠ 3 ∧
    Table.get base.ckp.ints (base.ctxOf (issue0.source fetchGroup)) = none := ⟨base_current, by decide +kernel⟩

/-- A marked target, the line of `base` itself; the zeros at 0x2000 carry no mark, and 0x1001 has none. -/
theorem witness_ControlTransfer : base.targetOk (base.ctxOf fetchGroup) 0x1000 = true ∧
    base.targetOk (base.ctxOf fetchGroup) 0x2000 = false ∧ base.targetOk (base.ctxOf fetchGroup) 0x1008 = false ∧
    pcOk 0x1004 = true ∧ pcOk 0x1005 = false ∧ (issue0.guarded fetchGroup noGuard) ≠ [] := by decide +kernel

theorem witness_TrapAndReturn : base.current = some (issue0, fetchGroup) ∧ issue0.guarded fetchGroup noGuard ≠ [] ∧
    issue0.guarded fetchGroup offHd = [] ∧ (∃ k ∈ issue0.active, (fetchGroup.lane k).h = false) ∧
    (let g := fetchGroup.updLanes 0xFFFF fun l => { l with h := true, xpc := 0x1000 }
     (base.setGroup 0 g).current = some (issue0, g) ∧ (∀ k ∈ issue0.active, (g.lane k).h = true) ∧
       ∀ k ∈ issue0.guarded g noGuard, pcOk ((issue0.source g).lane k).xpc = true) ∧
    (let g := fetchGroup.updLanes 0xFFFF fun l => { l with h := true, xpc := 0x1008 }
     (base.setGroup 0 g).current = some (issue0, g) ∧ (∀ k ∈ issue0.active, (g.lane k).h = true) ∧
       ∃ k ∈ issue0.guarded g noGuard, pcOk ((issue0.source g).lane k).xpc = false) := ⟨base_current, by decide +kernel⟩

/-- A kernel with a handler at the marked line, and one without; H clear in the lanes that fault, and set in one. -/
theorem witness_PreciseTraps :
    (let s := { base with ker := { base.ker with kernels := [(0, { fetchKernel with hdr := { fetchHeader with handler := 0x1000 } })] } }
     s.group issue0.gid = some fetchGroup ∧
     s.kernelOf (issue0.source fetchGroup) = some { fetchKernel with hdr := { fetchHeader with handler := 0x1000 } } ∧
     s.handlerOk 0 0x1000 = true ∧ (∀ f ∈ [(0, Code.float, (1 : DWord))], ((issue0.source fetchGroup).lane f.1).h = false) ∧
     (∀ p ∈ s.run.pend, p.2.gid ≠ issue0.gid)) ∧
    base.group issue0.gid = some fetchGroup ∧ base.kernelOf (issue0.source fetchGroup) = some fetchKernel ∧ fetchKernel.hdr.handler = 0 ∧
    (let g := fetchGroup.updLane 0 fun l => { l with h := true }
     (base.setGroup 0 g).group issue0.gid = some g ∧ ∃ f ∈ [(0, Code.float, (1 : DWord))], ((issue0.source g).lane f.1).h = true) := by
  decide +kernel

theorem witness_LaneStateInstructions : base.current = some (issue0, fetchGroup) ∧
    (∃ k, k < oneP.width ∧ k < 64 ∧ k ∉ issue0.guarded oneP p0Hd ∧ (oneP.lane k).st ≠ .exited) ∧
    (¬ fetchGroup.lives (issue0.guarded fetchGroup noGuard)) ∧ (∃ k ∈ issue0.guarded fetchGroup noGuard, k < fetchGroup.width) ∧
    (∀ k ∈ issue0.active, (fetchGroup.lane k).st = .running ∧ (fetchGroup.lane k).meet = 0) ∧
    (∀ j ∈ issue0.guarded fetchGroup noGuard, pcOk (meetTo issue0 fetchGroup .label (.imm 1) (.imm 2) j) = true) ∧
    pcOk (meetTo issue0 fetchGroup .label (.imm 1) (.imm 5) 0) = false ∧ issue0.firstOfPair = false := by
  refine ⟨base_current, ⟨1, by decide +kernel⟩, ?_, by decide +kernel⟩
  rintro ⟨k, h1, h2, h3, -⟩
  have h : ∀ k, k < fetchGroup.width → k ∈ issue0.guarded fetchGroup noGuard := by decide +kernel
  exact h3 (h k h1)

/-- SHFL: segments of 16 and of 32 lanes in a group of 16. -/
theorem witness_CrossLaneResults : base.current = some (issue0, fetchGroup) ∧ shflSeg 4 fetchGroup.width ≤ fetchGroup.width ∧
    fetchGroup.width < shflSeg 5 fetchGroup.width := ⟨base_current, by decide +kernel⟩

/-- The last conjunct is FLOAT: invalid operation enabled, ∞ times 0. -/
theorem witness_FloatArithmeticResults : base.current = some (issue0, fetchGroup) ∧
    issue0.traps fetchGroup (issue0.effects fetchGroup noGuard (fpMould noGuard .f32 .rne (.v 0) [.v 1, .v 2] fnMul)) = [] ∧
    (let g := fetchGroup.updLane 3 fun l => { l.writeV 1 0x7F800000 with fpen := 1 }
     (base.setGroup 0 g).current = some (issue0, g) ∧ ((issue0.guarded g noGuard).filter fun k =>
        decide (((issue0.source g).lane k).fpen.setWidth 5 &&& (fpMould noGuard .f32 .rne (.v 0) [.v 1, .v 2] fnMul (issue0.source g) k ((issue0.source g).lane k)).exc.setWidth 5 ≠ (0 : BitVec 5)))
        ≠ []) := ⟨base_current, by decide +kernel⟩

/-- Lane 3 holds a signalling NaN of FP32 and BF16 in v1 and of FP16 in v2, with invalid operation enabled. -/
def signalling : Group := fetchGroup.updLane 3 fun l => { (l.writeV 1 0x7F817F81).writeV 2 0x7C017C01 with fpen := 1 }

/-- An effect of lane 3 raises what its %fpen enables. -/
def enabled (f : Group → Nat → Lane → Eff) : Bool :=
  decide ((signalling.lane 3).fpen.setWidth 5 &&& (f signalling 3 (signalling.lane 3)).exc.setWidth 5 ≠ (0 : BitVec 5))

/-- FLOAT in each form of the mould: a signalling NaN. -/
theorem witness_float_traps : (base.setGroup 0 signalling).current = some (issue0, signalling) ∧ 3 ∈ issue0.guarded signalling noGuard ∧
    (∀ f ∈ [fpMould noGuard .f32 .rne (.v 0) [.v 1, .v 3] fun | [x, y] => Machine.Num.sum .rne [x, y] | _ => (.nan false, false),
      fpMould noGuard .bf16x2 .rne (.v 0) [.v 1, .v 3] fun | [x, y] => Machine.Num.mul x y | _ => (.nan false, false),
      fpMould noGuard .f16x2 .rne (.v 0) [.v 2, .v 3, .v 3] fun | [x, y, z] => Machine.Num.fma .rne x y z | _ => (.nan false, false),
      fpMould noGuard .f32 .rne (.v 0) [.v 1] fun | [x] => (x.scale 1, x.isSig) | _ => (.nan false, false)], enabled f = true) ∧
    (Fmt.f32.decode (elemIn noGuard signalling (signalling.lane 3) .f32 0 (.v 1)).1).isSig = true ∧
    (Fmt.f32.minMax true (elemIn noGuard signalling (signalling.lane 3) .f32 0 (.v 1)).1 0).2.getLsbD 0 = true ∧
    (cvtOne noGuard .i32 .f32 .rne 0 false false signalling (signalling.lane 3) (.v 1)).2.getLsbD 0 = true ∧
    (cvtOne noGuard .f16x2 .f32 .rne 0 false false signalling (signalling.lane 3) (.v 1)).2.getLsbD 0 = true := by decide +kernel

theorem witness_FloatComparisonResults : base.current = some (issue0, fetchGroup) ∧ FTy.f16x2 ≠ .f32 ∧ FTy.bf16x2 ≠ .f32 :=
  ⟨base_current, by decide⟩

theorem witness_SignAndClass : base.current = some (issue0, fetchGroup) := base_current

theorem witness_ConversionResults : base.current = some (issue0, fetchGroup) ∧ CTy.isPacked .f32 = false ∧ CTy.isPacked .f16x2 = true :=
  ⟨base_current, by decide⟩

theorem witness_RoundingKeepsRepresentable : 0x7F800001 < 2 ^ (Fmt.f32.eb + Fmt.f32.fb + 1) ∧ 0x1 < 2 ^ (Fmt.f16.eb + Fmt.f16.fb + 1) ∧
    0xFFFF < 2 ^ (Fmt.bf16.eb + Fmt.bf16.fb + 1) := by decide

theorem witness_LongLatencyIssue : base.current = some (issue0, fetchGroup) ∧
    issue0.traps fetchGroup (issue0.effects fetchGroup noGuard fun _ _ _ => ({} : Eff)) = [] ∧ GTy.i32 ≠ .f32 ∧
    ((0x42, Instr.rcp noGuard (.v 0) (.v 1)) ∈ [(0x42, Instr.rcp noGuard (.v 0) (.v 1)), (0x43, .rsq noGuard (.v 0) (.v 1))]) :=
  ⟨base_current, by decide +kernel⟩

/-- An address of 0 in every lane, plain and releasing; an offset of 1 is misaligned. -/
theorem witness_LoadsAndStoresIssue : base.current = some (issue0, fetchGroup) ∧ issue0.guarded fetchGroup noGuard ≠ [] ∧
    base.breaks (base.ctxOf fetchGroup) = false ∧
    (∀ k ∈ issue0.guarded fetchGroup noGuard, (effAddr (issue0.source fetchGroup) ((issue0.source fetchGroup).lane k) ⟨.v 0, .absent, 0⟩ 0).toNat %
      MTy.size .b32 = 0) ∧
    (∀ k ∈ issue0.guarded fetchGroup noGuard, (BitVec.ofNat 64 (spAddr (issue0.source fetchGroup) ((issue0.source fetchGroup).lane k)
      ⟨.v 0, .absent, 0⟩ 0)).toNat + MTy.size .b64 ≤ base.allot fetchGroup) ∧
    base.gate issue0 fetchGroup .dev true = .go ∧ base.room issue0.gid (issue0.guarded fetchGroup noGuard).length = true ∧
    (Opnd.v 0).isS = false ∧ ((Opnd.v 0).uniform && Addr.uniform ⟨.v 0, .absent, 0⟩) = false ∧
    ((issue0.guarded fetchGroup noGuard).filter fun k =>
      (effAddr (issue0.source fetchGroup) ((issue0.source fetchGroup).lane k) ⟨.v 0, .absent, 1⟩ 0).toNat % MTy.size .b32 != 0) ≠ [] :=
  ⟨base_current, by decide +kernel⟩

theorem witness_AtomicsAndMonitorsIssue : base.current = some (issue0, fetchGroup) ∧ issue0.guarded fetchGroup noGuard ≠ [] ∧
    base.breaks (base.ctxOf fetchGroup) = false ∧
    (∀ k ∈ issue0.guarded fetchGroup noGuard, (effAddr (issue0.source fetchGroup) ((issue0.source fetchGroup).lane k) (atomAddr .cas ⟨.v 0, .v 2, 0⟩)
      0).toNat % ATy.size .b64 = 0) ∧
    (∀ k ∈ issue0.guarded fetchGroup noGuard, (BitVec.ofNat 64 (spAddr (issue0.source fetchGroup) ((issue0.source fetchGroup).lane k)
      (atomAddr .add ⟨.v 0, .absent, 0⟩) 0)).toNat + ATy.size .n64 ≤ base.allot fetchGroup) ∧
    base.gate issue0 fetchGroup .sys true = .go ∧ base.room issue0.gid (issue0.guarded fetchGroup noGuard).length = true ∧
    base.room issue0.gid 1 = true ∧ (readOp fetchGroup (fetchGroup.lane 0) true (.s 0) + BitVec.ofNat 64 (8 * 3)).toNat % 8 = 0 :=
  ⟨base_current, by decide +kernel⟩

/-- An earlier access of the group that is still bound makes a FENCE wait. -/
def unfinished : Access :=
  { newAccess base issue0 fetchGroup 0 .store 0 4 with st := .bound }

def busyBase : State := { base with run := { base.run with accs := [(0, unfinished)] } }

theorem witness_FencePrefetchProbe : base.current = some (issue0, fetchGroup) ∧ issue0.guarded fetchGroup noGuard ≠ [] ∧
    issue0.guarded fetchGroup offHd = [] ∧ base.gate issue0 fetchGroup .die true = .go ∧
    (busyBase.current = some (issue0, fetchGroup) ∧ busyBase.gate issue0 fetchGroup .die true = .wait) ∧
    (let g := { fetchGroup with unreachable := some 0x4000 }
     (base.setGroup 0 g).current = some (issue0, g) ∧ (base.setGroup 0 g).gate issue0 g .sys true = .unreachable 0x4000) ∧
    (base.mem.wf = true ∧ base.mem.views = [] ∧ (base.dbgReg (base.partOf (base.ctxOf fetchGroup)) 0).getLsbD 1 = false) ∧
    base.walk 0 0x200000000 = .invalid ∧ base.breaks (base.ctxOf fetchGroup) = false ∧ issue0.paired = false ∧
    (∀ k ∈ issue0.active, (fetchGroup.lane k).st = .running) ∧
    (let s := base.setDbg 0 0 1
     s.current = some (issue0, fetchGroup) ∧ s.breaks (s.ctxOf fetchGroup) = true) ∧
    lineParity (BitVec.ofNat 512 (leNat (base.load 0x1000 64))) = true := ⟨base_current, by decide +kernel⟩

/-- Barrier 15, the last one, and 16, which the kernel does not have; an arrival that completes the phase, one that does not, and the
limit of 0. -/
theorem witness_BarrierInstructions : one.current = some (issue0, oneP) ∧ issue0.guarded oneP p0Hd = [0] ∧ issue0.snap = none ∧
    0 < oneP.width ∧ one.barrierArgs issue0 oneP 0 (.imm 15) (.imm 1) = .ok (15, some 1) ∧
    one.barrierArgs issue0 oneP 0 (.imm 15) .absent = .ok (15, none) ∧
    one.reached issue0.gid .team one.sch.nextId = true ∧ Table.get one.ckp.ints (one.ctxOf oneP) = none ∧
    hasBit ((one.barrier oneP 15).mask oneP.gidx) 0 = false ∧ (Opnd.v 0).isS = false ∧
    (∃ tm, one.teamOf oneP = some tm ∧ 15 < tm.barriers.length) ∧
    (one.barrierArgs issue0 oneP 0 (.s 0) (.s 0) = .error .resourceBound) ∧
    (let g := { oneP with s := [(0, 16)] }
     (match (one.setGroup 0 g).kernelOf g with
      | some y => decide (y.hdr.barriers ≤ srcN32 (issue0.source g) ((issue0.source g).lane 0) (.s 0))
      | none => false) = true) ∧
    issue0.paired = false ∧ (∀ k ∈ issue0.active, (oneP.lane k).st = .running) := by
  refine ⟨one_current, one_guarded, rfl, by decide +kernel, ?_, ?_, by decide +kernel, by decide +kernel, by decide +kernel, rfl,
    ⟨fetchTeam, by decide +kernel⟩, ?_, by decide +kernel⟩
  all_goals rfl

/-- A wait of lane 0, which stands in `base` with its bundle. -/
def stalled (k : WaitKind) (left : Option Nat) (d : Opnd) : State :=
  lane0 fun l => { l with st := .stalled ⟨k, 4, left, d, 0, false, false⟩ }

def waiter (k : WaitKind) (left : Option Nat) (d : Opnd) : Group :=
  fetchGroup.updLane 0 fun l => { l with st := .stalled ⟨k, 4, left, d, 0, false, false⟩ }

/-- Monitors IDLE, ARMED and FIRED; a counter below its target, at it, and on a page that is absent; tags met, unmet, and in ERROR. -/
theorem witness_WaitInstructions : base.current = some (issue0, fetchGroup) ∧ issue0.snap = none ∧ issue0.paired = false ∧
    issue0.guarded fetchGroup noGuard ≠ [] ∧ (∀ k ∈ issue0.active, (fetchGroup.lane k).st = .running) ∧
    (∀ k ∈ issue0.guarded fetchGroup noGuard, base.loggedWait fetchGroup k = none) ∧ (fetchGroup.lane 0).monitor.st = .idle ∧
    (∀ st, st = MonState.armed ∨ st = .fired → let g := fetchGroup.updLanes 0xFFFF fun l => { l with monitor := ⟨st, 0, false, 0⟩ }
      (base.setGroup 0 g).current = some (issue0, g) ∧ (∀ k ∈ issue0.guarded g noGuard, (base.setGroup 0 g).loggedWait g k = none) ∧
      (g.lane 0).monitor.st = st) ∧
    (∀ k ∈ issue0.guarded fetchGroup noGuard, (effAddr fetchGroup (fetchGroup.lane k) ⟨.v 0, .absent, 0⟩ 0).toNat % 8 = 0) ∧
    base.engineRead (base.ctxOf fetchGroup) 0 = .ok ⟨0xF, 33, 0x200008000⟩ ∧ leNat (base.load 0 8) = 0 ∧ (readOp fetchGroup (fetchGroup.lane 0) true (.imm 0)).toNat ≤ (0 : DWord).toNat ∧
    (0 : DWord).toNat < (readOp fetchGroup (fetchGroup.lane 0) true (.imm 1)).toNat ∧
    base.engineRead (base.ctxOf fetchGroup) 0x200000000 = .fault .pageNotPresent ∧
    Table.get base.ckp.ints (base.ctxOf fetchGroup) = none ∧
    (let g := { fetchGroup with tags := 3 }
     (base.setGroup 0 g).current = some (issue0, g) ∧ issue0.guarded g noGuard = 0 :: ((List.range 15).map (· + 1)) ∧
       g.tags &&& readOp g (g.lane 0) true (.imm 3) = readOp g (g.lane 0) true (.imm 3) ∧ g.errorIn 3 = none ∧
       (let m := readOp g (g.lane 0) true (.imm 0)
        m = 0 ∧ ¬ g.tags &&& m ≠ 0) ∧ srcN32 g (g.lane 0) (.imm 0) = 0 ∧
       g.tags &&& readOp g (g.lane 0) true (.imm 7) ≠ readOp g (g.lane 0) true (.imm 7) ∧
       ({ g with terr := 2, tagFault := [(1, .float, 0)] } : Group).errorIn 3 = some (1, .float, 0)) := by
  refine ⟨base_current, rfl, rfl, by decide +kernel, by decide +kernel, by decide +kernel, rfl, ?_, by decide +kernel,
    by decide +kernel, by decide +kernel, by decide +kernel, by decide +kernel, by decide +kernel, by decide +kernel, by decide +kernel⟩
  rintro st (rfl | rfl) <;> decide +kernel

/-- A ready bundle in a cycle that is not throttled; lanes of a resident group that run. -/
theorem witness_IssueChoice : (0, 0xFFFF) ∈ base.choose 0 0 ∧ base.group 0 = some fetchGroup ∧ fetchGroup.st = .resident ∧
    Table.get base.run.busy 0 = none := by decide +kernel

theorem witness_ArrivalsAndWaits :
    (let p : Pending := ⟨0, [(0, .v 1, false, 5), (0, .s 2, true, 6)], [(0, .p false 1, true)], [(0, 1)], false⟩
     let s := { base with run := { base.run with pend := [(7, p)] } }
     Table.get s.run.pend 7 = some p ∧ s.group p.gid = some fetchGroup) ∧
    (let k : WaitKind := .barrier 15 0xFFFFFFFF .team
     (stalled k none (.p false 0)).waiting 0 0 =
       some (waiter k none (.p false 0), (waiter k none (.p false 0)).lane 0, ⟨k, 4, none, .p false 0, 0, false, false⟩) ∧
     0 < (waiter k none (.p false 0)).width ∧
     tokenDone ((stalled k none (.p false 0)).barrier (waiter k none (.p false 0)) 15).phase 0xFFFFFFFF = true ∧
     (stalled k none (.p false 0)).loggedWait (waiter k none (.p false 0)) 0 = none) ∧
    (let k : WaitKind := .barrier 15 0 .team
     (stalled k (some 0) (.p false 0)).waiting 0 0 =
       some (waiter k (some 0) (.p false 0), (waiter k (some 0) (.p false 0)).lane 0, ⟨k, 4, some 0, .p false 0, 0, false, false⟩) ∧
     tokenDone ((stalled k (some 0) (.p false 0)).barrier (waiter k (some 0) (.p false 0)) 15).phase 0 = false ∧
     (stalled k (some 0) (.p false 0)).loggedWait (waiter k (some 0) (.p false 0)) 0 = none) ∧
    (let g := fetchGroup.updLane 0 fun l => { l with st := .sleeping 0 }
     (base.setGroup 0 g).standing 0 = some g ∧ (g.lane 0).st = .sleeping 0 ∧ (0 : DWord).toNat ≤ ((base.setGroup 0 g).ptime g).toNat ∧
     (g.lane 0).meet = 0 ∧ (base.setGroup 0 g).loggedSleep g 0 = none ∧ (base.setGroup 0 g).asleepInLog ((base.setGroup 0 g).ctxOf g) = false) ∧
    (let g := fetchGroup.updLane 0 fun l => { l with st := .sleeping 1 }
     (base.setGroup 0 g).standing 0 = some g ∧ (g.lane 0).st = .sleeping 1 ∧ ((base.setGroup 0 g).ptime g).toNat < (1 : DWord).toNat ∧
       (base.setGroup 0 g).loggedSleep g 0 = none) ∧
    (let k : WaitKind := .arrive 15 none .team 0 false false (.v 3)
     (stalled k none .absent).waiting 0 0 =
       some (waiter k none .absent, (waiter k none .absent).lane 0, ⟨k, 4, none, .absent, 0, false, false⟩) ∧
     (stalled k none .absent).reached 0 .team 0 = true ∧
     Table.get (stalled k none .absent).ckp.ints ((stalled k none .absent).ctxOf (waiter k none .absent)) = none ∧
     hasBit (((stalled k none .absent).barrier (waiter k none .absent) 15).mask (waiter k none .absent).gidx) 0 = false ∧ (Opnd.v 3).isS = false) ∧
    (let g := fetchGroup.updLane 0 fun l => { l with monitor := ⟨.armed, 0, false, 0⟩ }
     (base.setGroup 0 g).standing 0 = some g ∧ 0 < g.width ∧ (g.lane 0).monitor.st = .armed) ∧
    (let g := fetchGroup.updLane 0 fun l => { l with monitor := ⟨.armed, 0, false, 1⟩ }
     (base.setGroup 0 g).readWord ((base.setGroup 0 g).ctxOf g) (g.lane 0).monitor.addr (g.lane 0).monitor.w64 = .ok 0) ∧
    (∀ w, (fetchGroup.lane 0).st = .stalled w → base.counterReached fetchGroup w = false) ∧
    (base.counterReached fetchGroup ⟨.counter 0 0 false .dev, 7, none, .absent, 0, false, false⟩ = true) := by
  refine ⟨by decide +kernel, by decide +kernel, by decide +kernel, by decide +kernel, by decide +kernel, by decide +kernel, by decide +kernel, ok_is (by decide +kernel), ?_, by decide +kernel⟩
  intro w h; exact absurd h (by rw [show (fetchGroup.lane 0).st = .running by decide +kernel]; exact fun h => by cases h)

/-- An access of lane 0 to address 0x3000 that stands alone in the table of `withAcc`. -/
def acc (kind : AccKind) (st : AccState) : Access :=
  { newAccess base issue0 fetchGroup 0 kind 0x3000 4 with
    st := st, bytes := [1, 2, 3, 4], dst := .v 5, tr := some (okOr (base.translate 0 .load 0x3000) ⟨0, 0, 0⟩) }

def withAcc (a : Access) : State := { base with run := { base.run with accs := [(0, a)] } }

/-- What a scratchpad access of lane 0 is. -/
def accSp (kind : AccKind) : Access := { acc kind .queued with sp := true, va := 0, tr := none }

theorem witness_AccessLife :
    (let a := acc (.load .b32) .queued
     Table.get (withAcc a).run.accs 0 = some a ∧ (∀ p ∈ (withAcc a).mates 0 a, (withAcc a).bindable p.1 p.2 = true) ∧
       (withAcc a).viewGone a = false ∧ (∀ p ∈ (withAcc a).run.accs, p.1 = 0 → p.2 = a) ∧ Table.get (withAcc a).ckp.ints a.ctx = none) ∧
    (let a := accSp (.load .b32)
     (∀ p ∈ (withAcc a).mates 0 a, (withAcc a).bindable p.1 p.2 = true) ∧ (withAcc a).viewGone a = false ∧ a.sp = true) ∧
    (let a := { acc (.load .b32) .queued with hint := .fresh }
     (∀ p ∈ (withAcc a).mates 0 a, (withAcc a).bindable p.1 p.2 = true) ∧ (withAcc a).viewGone a = false ∧ a.sp = false ∧ a.tr.isSome = true) ∧
    (let a := acc (.load .b32) .bound
     (withAcc a).group a.gid = some fetchGroup ∧ a.dst.isS = false ∧ a.st = .bound) ∧
    (let a := acc .store .queued
     (withAcc a).combinable 0 a = true) ∧
    (let a := acc .store .combined
     (withAcc a).performable 0 a = true ∧ a.sp = false ∧ (∀ t ∈ a.tr, t.cls ≠ 3) ∧ a.tr.isSome = true ∧ inAperture a.key = false ∧
       (withAcc a).mem.views = [] ∧ (withAcc a).mem.wf = true) ∧
    (let a := acc (.atom .add .n32) .queued
     (withAcc a).performable 0 a = true ∧ a.sp = false ∧ a.tr.isSome = true ∧ (∀ t ∈ a.tr, t.cls ≠ 1) ∧ (withAcc a).viewGone a = false ∧ inAperture a.key = false) ∧
    (let a := accSp .store
     (withAcc a).performable 0 a = true ∧ Table.get (withAcc a).run.teams a.team = some fetchTeam) ∧
    (let a := acc .store .performed
     Table.get (withAcc a).run.accs 0 = some a ∧ a.fault = none) ∧
    (let a := acc (.atom .add .n32) .performed
     Table.get (withAcc a).run.accs 0 = some a ∧ a.fault = none ∧ (withAcc a).group a.gid = some fetchGroup) ∧
    (let a := acc .store .refused
     Table.get (withAcc a).run.accs 0 = some a ∧ (withAcc a).group a.gid = some fetchGroup) ∧
    (let a := { acc (.load .b32) .queued with fault := some .pageNotPresent }
     Table.get (withAcc a).run.accs 0 = some a ∧ (withAcc a).group a.gid = some fetchGroup ∧ hasBit a.bundle 0 = true ∧
       (fetchGroup.lane 0).st ≠ .parked ∧ (fetchGroup.lane 0).st ≠ .exited ∧ Table.get (withAcc a).ckp.ints a.ctx = none) := by
  decide +kernel

/-- A format window and a view block of it, clean or dirty. -/
def windowState (dirty : Bool) : State :=
  { base with
    sys := { base.sys with windows := [(0, ⟨1, 0x10000, 0x20000⟩)] }
    mem := { base.mem with views := [⟨0, 0, List.replicate 32 0, dirty⟩] } }

/-- A walk for an address of context 0. -/
def walking (va : DWord) : State := { base with mem := { base.mem with walks := [(0, ⟨0, 0, 0, va, false, none⟩)] } }

/-- The leaf of page 0 as it stands, and as it stood before it was made read-only. -/
def leafNow : Trans := okOr (base.translate 0 .load 0x3000) ⟨0, 0, 0⟩
def leafOld : Trans := { leafNow with leaf := leafNow.leaf ||| 0x8 ^^^ 0x1000 }

theorem witness_PagesAndLines : 64 * 0x100 + 64 ≤ Config.deviceBytes ∧ inAperture (64 * 0x100) = false ∧ base.mem.views = [] ∧
    base.mem.wf = true ∧ base.lineOwner 0x100 = some 0 ∧ base.partOf 0 < 12 ∧
    (State.reset.mem.wf = true ∧ State.reset.mem.views = [] ∧ State.reset.lineOwner 0x100 = none) ∧
    (∀ b, b = true ∨ b = false → (windowState b).mem.views.find? (fun x => x.win == 0 && x.blk == 0) = some ⟨0, 0, List.replicate 32 0, b⟩ ∧
      Table.get (windowState b).sys.windows 0 = some ⟨1, 0x10000, 0x20000⟩) ∧
    (Table.get (walking 0x200000000).mem.walks 0 = some ⟨0, 0, 0, 0x200000000, false, none⟩ ∧ 0 < (walking 0x200000000).sch.nextId ∧
      (walking 0x200000000).walk 0 0x200000000 = .invalid) ∧
    (∃ tr, (walking 0x3000).walk 0 0x3000 = .found tr ∧ tr.cls ≠ 7) ∧
    (leafNow.cls ≠ 7 ∧ leafOld.cls ≠ 7 ∧ base.overtaken ⟨0, 0, 0, 0x3000, false, some leafNow⟩ leafNow = false ∧
      base.overtaken ⟨0, 0, 0, 0x3000, false, some leafOld⟩ leafOld = true) ∧
    (let v : Inval := ⟨0, 0, 0, 0, none⟩
     let s := { base with mem := { base.mem with invals := [(0, v)] } }
     s.mem.invals.find? (fun p => p.2.ctx == v.ctx) = some (0, v) ∧ Table.get s.mem.invals 0 = some v ∧
       (s.run.accs.all fun p => !(p.2.ctx == v.ctx && (match p.2.tr with | some t => v.covers t p.2.va | none => false))) = true) := by
  refine ⟨by decide +kernel, by decide +kernel, by decide +kernel, by decide +kernel, by decide +kernel, by decide +kernel, by decide +kernel, ?_,
    by decide +kernel, ⟨okOr (base.translate 0 .load 0x3000) ⟨0, 0, 0⟩, by decide +kernel⟩, by decide +kernel, by decide +kernel⟩
  rintro b (rfl | rfl) <;> decide +kernel

/-- Tag 63, the last one, and a tag of 64; a shape of one unit, and one without units; a channel that is idle. -/
theorem witness_TransferIssue :
    (let g := { oneP with s := [(0, 0x101), (1, 64), (2, 0x100000000)] }
     let s := base.setGroup 0 g
     s.current = some (issue0, g) ∧ BlockIssues s issue0 g p0Hd true false (.imm 63) (.s 3) (.imm 0) (.imm 1) .absent 0 [] ∧
       (shapeOf g (g.lane 0) (.imm 1) .absent).1 ≠ 0 ∧ (shapeOf g (g.lane 0) (.imm 1) .absent).2.1 ≠ 0 ∧
       BlockIssues s issue0 g p0Hd false true (.imm 0) (.s 3) (.imm 0) (.s 3) .absent 0 [] ∧
       ((shapeOf g (g.lane 0) (.s 3) .absent).1 = 0 ∨ (shapeOf g (g.lane 0) (.s 3) .absent).2.1 = 0) ∧
       64 ≤ (readOp (issue0.source g) ((issue0.source g).lane 0) true (.s 1)).toNat) ∧
    (let g := { oneP with s := [(1, 2 ^ 40), (2, 2 ^ 40 + 1)] }
     let s := base.setGroup 0 g
     let r (x : Opnd) : DWord := readOp (issue0.source g) ((issue0.source g).lane 0) true x
     s.current = some (issue0, g) ∧ issue0.guarded g p0Hd = 0 :: [] ∧ (r (.s 1)).toNat ≤ 2 ^ 40 ∧ (r (.s 0)).toNat % 4096 = 0 ∧
       (r (.s 1)).toNat % 4096 = 0 ∧ (s.queuedStreams (clusterOf g.core)).length < 64 ∧
       s.reached issue0.gid .die (s.earlier issue0 g) = true ∧ 2 ^ 40 < (r (.s 2)).toNat) ∧
    (issue0.guarded fetchGroup noGuard ≠ [] ∧ (readOp fetchGroup (fetchGroup.lane 0) true (.imm 3)).toNat < 4 ∧
      (readOp fetchGroup (fetchGroup.lane 0) true (.s 0)).toNat % 64 = 0) ∧ (64 : DWord) ≠ 0 := by
  unfold BlockIssues; decide +kernel

/-- A BTL of `rows` rows of one unit from 0x4000 to the start of the scratchpad, under tag 63. -/
def btl1 (rows : Nat) : Transfer := ⟨0, 0, 0, 0, 0, 63, true, 0x4000, 0, rows, 1, 64, 64, .dflt, [], [], none, 0⟩

def withTransfer (x : Transfer) : State := { base with eng := { base.eng with transfers := [(0, x)] } }

/-- `base` with the Steppe link of die 0 DOWN: every access of its stack is a MACHINE_CHECK. -/
def linkDown (s : State) : State := { s with lnk := { s.lnk with dieLinks := Table.set s.lnk.dieLinks 0 ⟨.down, 4⟩ } }

/-- One word to be copied, in its order of fields. -/
def copy (src dst : DWord) : Stream := ⟨0, 0, 0, 1, dst, src, 4, none, 0, false, false, .dflt, none, 0, 0, [], [], 0, none, false, 0⟩

def withStream (x : Stream) : State := { base with eng := { base.eng with streams := [(0, x)] } }

/-- Channel 15 of cluster 7 with its record at 0x5000, OWN as given. -/
def withChan (st : ChanState) (own : Nat) : State :=
  { base with
    eng := { base.eng with channels := [(chanKey 7 15, ⟨st, 0x5000, 0, 0, 1, false⟩)] }
    mem := base.mem.setBytes 0x5000 (List.replicate 24 0 ++ natToBytes 8 64 ++ List.replicate 16 0 ++ natToBytes 4 own) }

def pageT (s : State) (va : DWord) : Trans := okOr (s.translate 0 .load va) ⟨0, 0, 0⟩

theorem at_of {x : Side} {key : Nat} (h : (match x with | .at k _ => decide (k = key) | _ => false) = true) : ∃ t, x = .at key t := by
  rcases x with ⟨k, t⟩ | _ | _
  · exact ⟨t, by rw [of_decide_eq_true h]⟩
  · cases h
  · cases h

theorem witness_TransferSteps :
    (∀ n, n = 1 ∨ n = 2 → ∀ load : Bool, let x := { btl1 n with load := load }
      Table.get (withTransfer x).eng.transfers 0 = some x ∧ (withTransfer x).unitRuns 0 x 0 = true ∧
      (withTransfer x).unitMeet 0 x 0 = .ok (pageT base (x.memAt 0)) ∧
      Table.get (withTransfer x).ckp.ints x.ctx = none ∧ x.got = [] ∧
      (if n = 1 then x.done.length + 1 = x.rows * x.units else x.done.length + 1 ≠ x.rows * x.units) ∧
      (withTransfer x).group x.gid = some fetchGroup ∧ Table.get (withTransfer x).run.teams x.team = some fetchTeam) ∧
    (∀ o ∈ fetchTeam.olds, o.off < 0 ∨ 64 ≤ o.off) ∧ (pageT base 0x7000).cls ≠ 1 ∧
    inAperture ((pageT base 0x4000).key 0x4000) = false ∧ Sparse.wf fetchTeam.sp = true ∧
    ((linkDown (withTransfer (btl1 1))).transferRuns 0 (btl1 1) = true ∧
      (linkDown (withTransfer (btl1 1))).unitFault 0 (btl1 1) = some (.machineCheck, 0x4000) ∧ Code.machineCheck.serviced = false) ∧
    (let x := { btl1 1 with mem := 0x200000000 }
     (withTransfer x).transferRuns 0 x = true ∧ (withTransfer x).unitFault 0 x = some (.pageNotPresent, 0x200000000) ∧
       Code.pageNotPresent.serviced = true ∧ (withTransfer x).walk x.ctx 0x200000000 = .invalid) ∧
    (let x := { btl1 1 with fault := some (.pageNotPresent, 0x4000) }
     Table.get (withTransfer x).eng.transfers 0 = some x ∧ (withTransfer x).translate x.ctx .load 0x4000 = .ok (pageT base 0x4000)) ∧
    (let x := { btl1 1 with fault := some (.pageNotPresent, 0x200000000) }
     (withTransfer x).translate x.ctx .load 0x200000000 = .error .pageNotPresent) ∧
    (let x := copy 0x6000 0x7FF0
     let s := withStream x
     Table.get s.eng.streams 0 = some x ∧ s.streamTurn 0 x = true ∧ x.moved = false ∧ s.pieceRuns x 0 = true ∧ x.got = [] ∧
       x.words 0 = [0] ∧ x.size 0 = 4 ∧ Table.get s.ckp.ints x.ctx = none ∧ s.takeTurn x 4 = some ⟨0, 4092⟩ ∧
       inAperture 0x6000 = false ∧ inAperture 0x7FF0 = false ∧ s.mem.views = [] ∧ s.mem.wf = true) ∧
    (let x := copy 0x6000 0x7FF0
     (∃ t, (withStream x).side x.ctx false x.sfl (x.wordAt 0) 4 0 = .at 0x6000 t) ∧
       ∃ t, (withStream x).side x.ctx true x.dfl (x.dstAt 0) 4 0 = .at 0x7FF0 t) ∧
    (∀ c, c = none ∨ c = some (0x7000 : DWord) → let x := { copy 0x6000 0x7FF0 with done := [0], ctr := c }
     let s := withStream x
     Table.get s.eng.streams 0 = some x ∧ s.streamTurn 0 x = true ∧ x.moved = true ∧ x.fault = none ∧ x.reading = false ∧
       s.streamsStopped x.ctx = false ∧ x.chan = none ∧ x.phase ≤ 1 ∧ s.engineWrite x.ctx 0x7000 32 (some 0) = .ok (pageT base 0x7000) ∧
       inAperture ((pageT base 0x7000).key 0x7000) = false) ∧
    (∃ t, base.translate 0 .atomic 0x7000 = .ok t) ∧
    (∀ own, own = 0 ∨ own = 1 → ((withChan .walking own).chan (chanKey 7 15)).st = .walking ∧
      ((withChan .walking own).eng.streams.all fun p => p.2.chan != some (chanKey 7 15)) = true ∧
      (withChan .walking own).engineRead 0 0x5000 = .ok (pageT base 0x5000) ∧
      leNat (((withChan .walking own).load ((pageT base 0x5000).key 0x5000) 64).drop 48 |>.take 4) % 2 = own ∧
      (recStream 7 (chanKey 7 15) ((withChan .walking own).chan (chanKey 7 15))
        ((withChan .walking own).load ((pageT base 0x5000).key 0x5000) 64)).isSome = true) ∧
    ((withChan .waiting 1).chan (chanKey 7 15)).st = .waiting ∧ (withChan .waiting 1).vload 0 (0x5000 + 48) 4 = .ok [1, 0, 0, 0] ∧
    (let x := copy 0x6000 0x7FF0
     (linkDown (withStream x)).streamTurn 0 x = true ∧ (linkDown (withStream x)).streamFault 0 x = some (.machineCheck, 0x6000)) ∧
    (let x := copy 0x200000000 0x7FF0
     (withStream x).streamTurn 0 x = true ∧ (withStream x).streamFault 0 x = some (.pageNotPresent, 0x200000000)) := by
  refine ⟨?_, by decide +kernel, by decide +kernel, by decide +kernel, by decide +kernel, by decide +kernel, by decide +kernel, ⟨by decide +kernel, ok_is (by decide +kernel)⟩,
    error_of (by decide +kernel), by decide +kernel, ⟨at_of (by decide +kernel), at_of (by decide +kernel)⟩, ?_, ⟨pageT base 0x7000, ok_is (by decide +kernel)⟩, ?_,
    by decide +kernel, ok_is (by decide +kernel), by decide +kernel, by decide +kernel⟩
  · rintro n (rfl | rfl) <;> decide +kernel
  · rintro c (rfl | rfl) <;> decide +kernel
  · rintro n (rfl | rfl) <;> decide +kernel

/-- `one` with an MMA of its team on tile 63. -/
def anMma : TileOp := ⟨0, 0, 0, 0, 63, .mma .lns6 0 0 1 1024 1024, 1, 0, 0, false, none, none, [], acc .store .queued⟩

def withOp (s : State) (x : TileOp) : State := { s with eng := { s.eng with tileOps := [(0, x)] } }

/-- Tile 63, the last that the kernel declares, free and in use; tile 64; the scratchpad's last 4096 and 1024 bytes. -/
theorem witness_LaneTileInstructions : one.current = some (issue0, oneP) ∧ TileFree one issue0 oneP p0Hd 0 [] 63 ∧
    (let g := { oneP with s := [(1, BitVec.ofNat 64 (1024 * 1024 - 4096)), (2, BitVec.ofNat 64 (1024 * 1024 - 1024)), (3, 64)] }
     let s := base.setGroup 0 g
     s.current = some (issue0, g) ∧ s.allot g = 1024 * 1024 ∧ srcN32 g (g.lane 0) (.s 1) % 64 = 0 ∧ srcN32 g (g.lane 0) (.s 1) + 4096 ≤ s.allot g ∧
       srcN32 g (g.lane 0) (.s 2) % 32 = 0 ∧ srcN32 g (g.lane 0) (.s 2) + 1024 ≤ s.allot g ∧
       s.declaredTiles g ≤ (readOp g (g.lane 0) true (.s 3)).toNat) ∧
    (readOp oneP (oneP.lane 0) true (.imm 63)).toNat = 63 ∧ (readOp oneP (oneP.lane 0) true (.s 0)).toNat % 64 = 0 ∧ one.room issue0.gid 64 = true ∧
    one.reached issue0.gid .sys one.sch.nextId = true ∧
    (SpQuiet one issue0 0 4096 ∧ ∀ o ∈ fetchTeam.olds, o.off < 0 ∨ 4096 ≤ o.off) ∧
    (let a := { accSp .store with lanes := 1, inst := 0 }
     let s : State := { one with run := { one.run with accs := [(0, a)] }, sch := { one.sch with nextId := 1 } }
     (0, a) ∈ s.run.accs ∧ a.sp = true ∧ a.kind.writes = true ∧ a.gid = issue0.gid ∧ a.lanes &&& issue0.lanes ≠ 0 ∧ a.st = .queued ∧
       a.inst < s.sch.nextId ∧ overlap 0 4096 a.va.toNat a.size = true ∧ TileFree s issue0 oneP p0Hd 0 [] 63) ∧
    ((withOp one anMma).current = some (issue0, oneP) ∧ 63 < (withOp one anMma).declaredTiles oneP ∧
      ((withOp one anMma).coreOps oneP.core).length < 32 ∧ (withOp one anMma).tileOrder oneP.team 63 ≠ []) := by
  have free (s : State) (h : s = one ∨ s = { one with run := { one.run with accs := [(0, { accSp .store with lanes := 1, inst := 0 })] }
                                                      sch := { one.sch with nextId := 1 } }) : TileFree s issue0 oneP p0Hd 0 [] 63 := by
    rcases h with rfl | rfl <;>
      exact ⟨one_guarded, by decide +kernel, by decide +kernel, by decide +kernel, by decide +kernel, fetchTeam, by decide +kernel⟩
  refine ⟨one_current, free one (.inl rfl), by decide +kernel, by decide +kernel, by decide +kernel, by decide +kernel, by decide +kernel,
    ⟨by unfold SpQuiet; decide +kernel, by decide +kernel⟩, ?_, by decide +kernel⟩
  exact ⟨by decide +kernel, by decide +kernel, by decide +kernel, by decide +kernel, by decide +kernel, by decide +kernel, by decide +kernel,
    by decide +kernel, free _ (.inr rfl)⟩

theorem witness_MatrixInstructions : one.current = some (issue0, oneP) ∧ issue0.guarded oneP p0Hd = [0] ∧ 63 < one.declaredTiles oneP ∧
    (255 : BitVec 9).toNat ≤ 255 ∧ srcN32 oneP (oneP.lane 0) (.s 0) % 32 = 0 ∧ 1024 % 32 = 0 ∧ 512 % 16 = 0 ∧ (one.coreOps oneP.core).length < 32 ∧
    Table.get one.ckp.ints (one.ctxOf oneP) = none ∧ one.reached issue0.gid .team (one.earlier issue0 oneP) = true ∧
    (∃ tm, Table.get one.run.teams oneP.team = some tm ∧ 63 < tm.tiles.length) ∧
    oneP.mcmade.toNat ≤ oneP.mcdone.toNat ∧ oneP.unreported oneP.mcmade = none ∧
    (let g := { oneP with mcmade := 1, commits := [⟨1, 1, true, none⟩] }
     (base.setGroup 0 g).current = some (issue0, g) ∧ g.mcdone.toNat < g.mcmade.toNat) := by
  refine ⟨one_current, one_guarded, by decide +kernel, by decide, by decide +kernel, by decide, by decide, by decide +kernel, by decide +kernel,
    by decide +kernel, ⟨fetchTeam, by decide +kernel⟩, by decide +kernel⟩

/-- An MMA without slices to compute, one that leaves the scratchpad, a result, an abort, and a TZERO whose bundle waits. -/
theorem witness_TileEngineSteps :
    (let x := { anMma with kind := .mma .lns6 0 0 0 1024 1024 }
     let s := withOp one x
     Table.get s.eng.tileOps 0 = some x ∧ s.opTurn 0 x = true ∧ ((s.coreOps x.core).filter fun p => p.2.started).length < 4 ∧
       ((s.readOperands x).1.withOperands (s.readOperands x).2).mmaSlices x.team (s.teamAllot x.team) .lns6 0 0 1024 1024 0 0 (s.tile x.team x.tile).list 0 = .ok ((s.tile x.team x.tile).list, 0)) ∧
    (let x := { anMma with kind := .mma .lns6 0 1048576 1 1024 1024 }
     let s := withOp one x
     Table.get s.eng.tileOps 0 = some x ∧ s.opTurn 0 x = true ∧
       ((s.readOperands x).1.withOperands (s.readOperands x).2).mmaSlices x.team (s.teamAllot x.team) .lns6 0 1048576 1024 1024 1 1 (s.tile x.team x.tile).list 0 = .error 1048576) ∧
    (∀ tm, Table.get (withOp one anMma).run.teams anMma.team = some tm → tm.olds = []) ∧
    (let x := { anMma with started := true, result := some ([], 3) }
     Table.get (withOp one x).eng.tileOps 0 = some x ∧ ∃ tm, Table.get (withOp one x).run.teams x.team = some tm ∧ x.tile < tm.tiles.length) ∧
    (let x := { anMma with started := true, abort := some 0x10000 }
     Table.get (withOp one x).eng.tileOps 0 = some x ∧ (withOp one x).group x.gid = some oneP) ∧
    (let x := { anMma with kind := .zero true, bundle := 0xFFFF, lanes := 1 }
     let g := oneP.updLanes 0xFFFF fun l => { l with st := .stalled ⟨.tile 0, 6, none, .absent, 0, false, false⟩ }
     let s := withOp (base.setGroup 0 g) x
     Table.get s.eng.tileOps 0 = some x ∧ s.group x.gid = some g ∧ s.opTurn 0 x = true ∧ g.tileWaiter 0 = some 0 ∧
       ∃ tm, Table.get s.run.teams x.team = some tm ∧ x.tile < tm.tiles.length) ∧
    (let x := { anMma with kind := .load 0x4000 128 false .dev, lanes := 1, started := true, got := (List.range 64).map fun n => (n, List.replicate 64 0) }
     let g := oneP.updLanes 0xFFFF fun l => { l with st := .stalled ⟨.tile 0, 6, none, .absent, 0, false, false⟩ }
     let s := withOp (base.setGroup 0 g) x
     Table.get s.eng.tileOps 0 = some x ∧ s.group x.gid = some g ∧ s.opTurn 0 x = true ∧ 64 ≤ x.got.length ∧ g.tileWaiter 0 = some 0) := by
  refine ⟨⟨by decide +kernel, by decide +kernel, by decide +kernel, rfl⟩, ⟨by decide +kernel, by decide +kernel, errNat_of (by decide +kernel)⟩,
    by decide +kernel, ⟨by decide +kernel, fetchTeam, by decide +kernel⟩, by decide +kernel,
    ⟨by decide +kernel, by decide +kernel, by decide +kernel, by decide +kernel, fetchTeam, by decide +kernel⟩, by decide +kernel⟩

/-- `base` with host 0 attached, named in DEVAUTH and privileged over partition 0, which is enabled and has every cluster. -/
def hosted (s : State) : State :=
  { s with sys := { s.sys with
      hosts := [(0, true), (1, true)], devauth := 1, cxlWin := [(0, (0x100000, 0x10000))]
      parts := [(0, ⟨0x010101, 0xFFFFFFFFFFFF, 0, 0, 1000⟩)] } }

/-- 128 bytes of a kernel header: one team of one 16-lane group, one v register, no scratchpad. -/
def headerBytes : List Byte :=
  natToBytes 8 0x14B524E4C ++ natToBytes 8 0x1000 ++ List.replicate 16 0 ++ natToBytes 8 (4 + 16 * 1024) ++ List.replicate 8 0 ++
  (List.range 5).flatMap (fun _ => natToBytes 4 1) ++ natToBytes 4 0x10001 ++ List.replicate 56 0

/-- `hosted base` with the header at 0x8000; the zeros at 0x9000 are no header. -/
def launchable (s : State) : State := { hosted s with mem := (hosted s).mem.setBytes 0x8000 headerBytes }

/-- A queue of context 0 with a ring of 16 records at 0xA000, from RDIDX to WRIDX. -/
def ring (rd wr : DWord) (st : QueueState) : Queue := ⟨0x84, 0xA000, wr, rd, 0, 0, st, .disabled, false, 0, none, none, none⟩

def withQueue (s : State) (q : Nat) (x : Queue) : State := { launchable s with ker := { (launchable s).ker with queues := [(q, x)] } }

/-- A kernel of that header as the dispatcher offers it. -/
def spawned : Kernel := ⟨0, 0, 0x8000, headerOf 0x8000 headerBytes, List.replicate 6 0, none, .dispatching, 0, 1, true, none, 1024, none, none, none, none⟩

def withKernel (k : Kernel) : State := { launchable base with ker := { (launchable base).ker with kernels := [(0, fetchKernel), (1, k)] } }

/-- 256 kernels that hold spawn slots. -/
def crowded (s : State) : State := { s with ker := { s.ker with kernels := (0, fetchKernel) :: (List.range 256).map fun n => (n + 1, spawned) } }

/-- A kernel as a launch enters it, with its header at an address. -/
def accepted (va : DWord) : Kernel := { spawned with hdrVa := va, st := .accepted, live := 0, est := 0, hdr := headerOf va [] }

/-- The page at 0x200000000 lies in the memory of host 7, which is not attached. -/
def awayPage (s : State) : State := { s with mem := s.mem.setBytes 0x200008008 (natToBytes 8 0x3907) }

/-- Queue q is locked by a QPOST of another group, which waits at issue. -/
def lockedQueue (g : Group) (q : Nat) : State :=
  let s := withQueue (base.setGroup 0 g) q { ring 0 15 .active with lock := some (0, 7, 1) }
  s.setGroup 1 { fetchGroup.updLane 0 fun l => { l with since := some 0 } with gidx := 7 }

theorem witness_SpawnAndPost :
    (let g := { oneP with s := [(0, 0x8000), (1, 0x9000), (2, 0x8001)] }
     let s := launchable (base.setGroup 0 g)
     let r (x : Opnd) : DWord := readOp (issue0.source g) ((issue0.source g).lane 0) true x
     s.current = some (issue0, g) ∧ issue0.guarded g p0Hd = [0] ∧ 58 + 5 < s.sregs g ∧ (r (.s 0)).toNat % 128 = 0 ∧
       (r (.s 1)).toNat % 16 = 0 ∧ (r (.s 2)).toNat % 128 ≠ 0 ∧ s.sregs g ≤ 59 + 5 ∧
       s.reached issue0.gid .dev (s.earlier issue0 g) = true ∧ s.spawnSlots (s.partOf (s.ctxOf g)) < 256 ∧
       256 ≤ (crowded s).spawnSlots ((crowded s).partOf ((crowded s).ctxOf g)) ∧
       (crowded s).reached issue0.gid .dev ((crowded s).earlier issue0 g) = true) ∧
    (∀ a, a = none ∨ a = some (0xC000 : DWord) → ∀ x, x = none ∨ x = some headerBytes → let k := { accepted 0x8000 with args := a, text := x }
     let s := withKernel k
     Table.get s.ker.kernels 1 = some k ∧ k.st = .accepted ∧ k.early = none ∧ k.verdict = none ∧ k.text = x ∧ s.loadWaits k.ctx k.hdrVa = false ∧
       headerOk headerBytes (headerOf k.hdrVa headerBytes) = true ∧ s.empty.placeableSomewhere k.part (headerOf k.hdrVa headerBytes) = true ∧
       s.loadWaits k.ctx 0xC000 = false ∧ s.loadWaits k.ctx (0xC000 + 40) = false ∧ s.refusalWaits k 1 = false) ∧
    (withKernel (accepted 0x8000)).vload 0 0x8000 128 = .ok headerBytes ∧
    (withKernel (accepted 0x8000)).launchValues 0 0xC000 = .ok (List.replicate 6 0) ∧
    (withKernel (accepted 0x9000)).vload 0 0x9000 128 = .ok (List.replicate 128 0) ∧
    headerOk (List.replicate 128 0) (headerOf 0x9000 (List.replicate 128 0)) = false ∧
    (awayPage (withKernel (accepted 0x200000000))).loadWaits 0 0x200000000 = true ∧
    (let g := { oneP with s := [(1, 0xB000), (2, 1024), (3, 1023)] }
     let s := withQueue (base.setGroup 0 g) 1023 (ring 0 15 .active)
     s.current = some (issue0, g) ∧ issue0.guarded g p0Hd = [0] ∧ srcN32 g (g.lane 0) (.s 3) = 1023 ∧
       (readOp g (g.lane 0) true (.s 1)).toNat % 64 = 0 ∧ s.reached issue0.gid .dev (s.earlier issue0 g) = true ∧
       Table.get s.ckp.ints (s.ctxOf g) = none ∧ (s.queue 1023).takes (s.ctxOf g) = true ∧ (s.queue 1023).lock = none ∧
       s.overdue (s.ctxOf g) (0xA000 + 64 * 15) issue0.gid = false ∧ (ring 0 16 .active).takes 0 = false ∧
       s.engineRead (s.ctxOf g) 0xB000 64 = .ok (pageT base 0xB000) ∧ s.engineWrite (s.ctxOf g) (0xA000 + 64 * 15) 64 (some issue0.gid) = .ok (pageT base 0xA3C0) ∧
       inAperture ((pageT base 0xB000).key 0xB000) = false ∧ inAperture ((pageT base 0xA3C0).key 0xA3C0) = false ∧ s.mem.views = [] ∧ s.mem.wf = true ∧
       1024 ≤ srcN32 g (g.lane 0) (.s 2)) ∧
    (let g := { oneP with s := [(1, 0xB000), (3, 1023)] }
     let s := lockedQueue g 1023
     s.current = some (issue0, g) ∧ issue0.guarded g p0Hd = [0] ∧ srcN32 g (g.lane 0) (.s 3) = 1023 ∧ (readOp g (g.lane 0) true (.s 1)).toNat % 64 = 0 ∧
       s.reached issue0.gid .dev (s.earlier issue0 g) = true ∧ s.locked (s.queue 1023) = true ∧ (s.queue 1023).lockedBy g issue0.lanes = false) := by
  refine ⟨by decide +kernel, ?_, ok_is (by decide +kernel), ok_is (by decide +kernel), ok_is (by decide +kernel), by decide +kernel,
    by decide +kernel, by decide +kernel, by decide +kernel⟩
  rintro a (rfl | rfl) x (rfl | rfl) <;> decide +kernel

/-- A call record at 0x2000 (record 2 of the area at 0), for every lane, in the given state. -/
def called (st : Nat) : State :=
  { base with mem := base.mem.setBytes 0x2000 (natToBytes 4 9 ++ natToBytes 4 st ++ natToBytes 8 0xFFFF ++ List.replicate 16 0) }

/-- `base` with its call area on a page that is absent: no record is FREE. -/
def uncalled : State :=
  { base with ctx := { base.ctx with contexts := [(0, { fetchContext with record := { fetchRecord with callA := 0x200000000 } })] } }

theorem witness_SystemCalls :
    (issue0.guarded fetchGroup noGuard ≠ [] ∧ (6 : BitVec 9) ≠ 0 ∧
      (243 : BitVec 8).toNat + 2 * (6 : BitVec 9).toNat ≤ (base.declared fetchGroup).1 ∧
      base.reached issue0.gid .sys (base.earlier issue0 fetchGroup) = true ∧ Table.get base.ckp.ints (base.ctxOf fetchGroup) = none ∧
      (base.postCalls issue0.gid (issue0.source fetchGroup) 243 6 (callsOf issue0 fetchGroup noGuard (.imm 7))).2.1 = [] ∧
      (base.freeRecords (base.ctxOf fetchGroup)).head? = some 0 ∧ (base.callRec (base.ctxOf fetchGroup) 0).isSome = true) ∧
    (uncalled.current = some (issue0, fetchGroup) ∧ uncalled.reached issue0.gid .sys (uncalled.earlier issue0 fetchGroup) = true ∧
      uncalled.freeRecords (uncalled.ctxOf (issue0.source fetchGroup)) = [] ∧
      (uncalled.postCalls issue0.gid (issue0.source fetchGroup) 243 6 (callsOf issue0 fetchGroup noGuard (.imm 7))).2.1 ≠ []) ∧
    (∀ st, st = 0 ∨ st = 1 ∨ st = 3 ∨ st = 4 → (called st).current = some (issue0, fetchGroup) ∧ Table.get (called st).ckp.ints ((called st).ctxOf fetchGroup) = none) ∧
    (∀ k ∈ issue0.guarded fetchGroup noGuard, (called 3).replyFor fetchGroup k (srcN32 fetchGroup (fetchGroup.lane k) (.imm 2)) = .replied 0 ∧
      (called 4).replyFor fetchGroup k (srcN32 fetchGroup (fetchGroup.lane k) (.imm 2)) = .refused 0x2000 ∧
      (called 1).replyFor fetchGroup k (srcN32 fetchGroup (fetchGroup.lane k) (.imm 2)) = .waits ∧
      (called 0).replyFor fetchGroup k (srcN32 fetchGroup (fetchGroup.lane k) (.imm 2)) = .stale) ∧
    (∃ c, Table.get base.ctx.contexts (base.ctxOf fetchGroup) = some c) := by
  refine ⟨by decide +kernel, by decide +kernel, ?_, by decide +kernel, fetchContext, by decide +kernel⟩
  rintro st (rfl | rfl | rfl | rfl) <;> decide +kernel

/-- A size of 2^4 and of 2^16, and one below and one above; WRIDX at the ring's end and one past it. -/
theorem witness_QueueStates :
    ((hosted base).privileged 0 (field 0 35 32) = true ∧ (hosted base).privileged 0 (field 0x100000000 35 32) = false ∧
      ((hosted base).queue 1023).cfg.getLsbD 7 = false ∧ field 4 4 0 = 4 ∧ field 16 4 0 = 16 ∧ field 3 4 0 < 4 ∧ 16 < field 17 4 0 ∧
      ((hosted base).queue 1023).base.toNat % (64 * 2 ^ field 16 4 0) = 0 ∧
      Table.get (hosted base).ctx.contexts (field 4 47 36) = some fetchContext ∧ fetchContext.record.part = field 4 35 32 ∧
      fetchContext.st ≠ .tornDown ∧ fetchContext.st ≠ .suspended ∧ (hosted base).partEnabled (field 4 35 32) = true) ∧
    (let s := withQueue base 0 (ring 4 20 .active)
     (s.queue 0).cfg.getLsbD 7 = true ∧ s.privileged 0 (s.queue 0).part = true ∧
       ¬ (((s.queue 0).st = .active ∨ (s.queue 0).st = .waiting) ∧ (s.queue 0).size < ((20 : DWord) - (s.queue 0).rd).toNat) ∧
       ((s.queue 0).st = .active ∧ (s.queue 0).size < ((21 : DWord) - (s.queue 0).rd).toNat)) ∧
    (base.queue 5).st = .disabled ∧
    (let s := withQueue base 0 (ring 4 20 .active)
     s.locked (s.queue 0) = false ∧ (lockedQueue oneP 0).locked ((lockedQueue oneP 0).queue 0) = true ∧ base.locked (base.queue 5) = false) ∧
    (({ ring 0 0 .disabled with base := 64 } : Queue).base.toNat % (64 * 2 ^ field 4 4 0) ≠ 0 ∧ (hosted base).partEnabled (field 0x500000004 35 32) = false ∧
      ∀ c, Table.get (hosted base).ctx.contexts (field 0x1000000004 47 36) = some c → c.record.part ≠ field 0x1000000004 35 32 ∨ c.st = .tornDown) := by
  decide +kernel

/-- A record for the header at 0x8000, without arguments: its dependency as given. -/
def recordBytes (seq dep : Nat) (target : Nat) : List Byte :=
  natToBytes 8 0x8000 ++ natToBytes 8 0 ++ natToBytes 8 0x9000 ++ natToBytes 8 target ++ List.replicate 24 0 ++ natToBytes 4 dep ++ natToBytes 4 seq

/-- Queue 0 waits with the record in its ring, and holds what it has read of it; kernel 1 was the last that it accepted. -/
def withRecord (b : List Byte) (held : Option (List Byte)) (k : Option Kernel) : State :=
  let s := withQueue base 0 { ring 0 1 .waiting with record := held, last := some 1 }
  { s with
    mem := s.mem.setBytes 0xA000 b
    ker := { s.ker with kernels := (0, fetchKernel) :: match k with | some k => [(1, k)] | none => [] } }

theorem witness_RecordTaken :
    (∀ b, b = recordBytes 0 0 0 ∨ b = recordBytes 0 1 0 ∨ b = recordBytes 0 3 0 → let s := withRecord b (some b) none
      let x := s.queue 0
      x.st = .waiting ∧ x.pending ≠ 0 ∧ x.pending ≤ x.size ∧ s.dispatches x.ctx = true ∧ x.record = some b ∧
      s.previousAllows x (bytesField b 56 2 / 4 % 2 == 1) = true ∧ (recordDep b).all (fun a => !s.loadWaits x.ctx a) = true ∧ s.depMet x.ctx b = true) ∧
    recordBad (recordBytes 0 0 0) = false ∧ recordBad (recordBytes 0 3 0) = true ∧
    (∀ k, k = none ∨ k = some spawned → let b := recordBytes 0 1 5
      let s := withRecord b (some b) k
      let x := s.queue 0
      (x.pending ≠ 0 ∧ x.pending ≤ x.size ∧ s.dispatches x.ctx = true ∧ x.record = some b) ∧
      ((k = some spawned → s.previousAllows x (bytesField b 56 2 / 4 % 2 == 1) = false) ∧
        (k = none → (recordDep b).all (fun a => !s.loadWaits x.ctx a) = true ∧ s.depMet x.ctx b = false))) ∧
    (∀ b, b = recordBytes 0 0 0 ∨ b = recordBytes 7 0 0 → ∀ k, k = none ∨ k = some spawned →
      let s := withRecord b none k
      let x := s.queue 0
      x.pending ≠ 0 ∧ x.pending ≤ x.size ∧ s.dispatches x.ctx = true ∧ x.record = none ∧
      s.loadWaits x.ctx (x.base + BitVec.ofNat 64 (64 * (x.rd.toNat % x.size))) = false ∧
      s.vload x.ctx (x.base + BitVec.ofNat 64 (64 * (x.rd.toNat % x.size))) 64 = .ok b ∧
      s.previousAllows x (bytesField b 56 2 / 4 % 2 == 1) = k.isNone) ∧
    (bytesField (recordBytes 7 0 0) 60 4 ≠ 0 % 2 ^ 32 ∧ bytesField (recordBytes 0 0 0) 60 4 = 0 % 2 ^ 32 ∧ recordDep (recordBytes 0 0 0) = none) ∧
    (base.queue 0).pending = 0 := by
  refine ⟨?_, by decide +kernel, by decide +kernel, ?_, ?_, by decide +kernel, by decide +kernel⟩
  · rintro b (rfl | rfl | rfl) <;> decide +kernel
  · rintro k (rfl | rfl) <;> decide +kernel
  · rintro b (rfl | rfl) k (rfl | rfl) <;> exact ⟨by decide +kernel, by decide +kernel, by decide +kernel, by decide +kernel, by decide +kernel,
      ok_is (by decide +kernel), by decide +kernel⟩

def retired (t : Team) : State := { base with run := { base.run with teams := [(0, t)] } }

theorem base_tables_end : ∀ n, 1 ≤ n → Table.get base.run.groups n = none ∧ Table.get base.run.teams n = none := by
  intro n h
  have hg : base.run.groups = [(0, fetchGroup)] := by decide +kernel
  have ht : base.run.teams = [(0, fetchTeam)] := by decide +kernel
  have hn : (0 : Nat) ≠ n := by omega
  rw [hg, ht]
  simp [Table.get, hn]

theorem witness_TeamsAndKernels :
    (Table.get (withKernel spawned).ker.kernels 1 = some spawned ∧ (withKernel spawned).offered 1 spawned = true ∧
      (withKernel spawned).placeable spawned.part spawned.hdr 191 = true ∧ (withKernel spawned).quadsOk 191 spawned.hdr [3] = true ∧
      spawned.launch = none ∧ spawned.hdr.unit = 1 ∧ Table.get (withKernel spawned).ckp.ints spawned.ctx = none ∧
      ∀ n, (withKernel spawned).sch.nextId ≤ n →
        Table.get (withKernel spawned).run.groups n = none ∧ Table.get (withKernel spawned).run.teams n = none) ∧
    (let t := { fetchTeam with retiring := true, freed := true }
     Table.get (retired t).run.teams 0 = some t ∧ Table.get (retired t).ker.kernels t.kernel = some fetchKernel ∧ fetchKernel.join = none ∧ (retired t).teamQuiescing t = false ∧
       (∀ p ∈ (retired t).eng.transfers, p.2.team ≠ 0) ∧ ∀ p ∈ (retired t).eng.tileOps, p.2.team ≠ 0) ∧
    (let t := { fetchTeam with retiring := true, freed := true }
     let k := { fetchKernel with join := some 0xC000 }
     let s : State := { retired t with ker := { base.ker with kernels := [(0, k)] } }
     Table.get s.run.teams 0 = some t ∧ s.teamQuiescing t = false ∧ s.teamQuiet 0 = true ∧ Table.get s.ker.kernels t.kernel = some k ∧
       Table.get s.ckp.ints k.ctx = none ∧ s.overdue k.ctx 0xC000 0 = false ∧ s.translate k.ctx .atomic 0xC000 = .ok (pageT base 0xC000) ∧
       (pageT base 0xC000).cls ≠ 1 ∧ s.engineWrite k.ctx 0xC000 1 (some 0) = .ok (pageT base 0xC000) ∧
       s.engineWrite k.ctx 0xC000 32 = .ok (pageT base 0xC000) ∧ inAperture ((pageT base 0xC000).key 0xC000) = false ∧ s.mem.views = [] ∧
       s.mem.wf = true) ∧
    fetchTeam.retiring = false ∧
    (let k := { spawned with st := .flushing }
     Table.get (withKernel k).ker.kernels 1 = some k ∧ ((withKernel k).run.accs.any fun p => p.2.kernel == 1) = false ∧
       ((withKernel k).eng.streams.any fun p => p.2.kernel == 1 && p.2.chan.isNone) = false ∧
       ((withKernel k).ker.records.any fun p => p.kernel == 1) = false ∧ (withKernel k).quiescing k.ctx = false ∧ k.launch = none) ∧
    (let l : Launch := ⟨0, 0, none, 0xC000, 5⟩
     let k := { spawned with st := .flushing, launch := some l }
     Table.get (withKernel k).ker.kernels 1 = some k ∧ l.cpla ≠ 0 ∧ Table.get (withKernel k).ckp.ints k.ctx = none ∧
       (withKernel k).translate k.ctx .atomic l.cpla = .ok (pageT base 0xC000) ∧
       (withKernel k).overdue k.ctx l.cpla 1 = false ∧ (pageT base 0xC000).cls ≠ 1 ∧
       (withKernel k).engineWrite k.ctx l.cpla 1 (some 1) = .ok (pageT base 0xC000) ∧ (withKernel k).engineWrite k.ctx l.cpla 32 = .ok (pageT base 0xC000) ∧ inAperture ((pageT base 0xC000).key 0xC000) = false ∧
       (withKernel k).mem.views = [] ∧ (withKernel k).mem.wf = true) ∧
    (let b := natToBytes 64 0x8000
     Table.get (launchable base).ctx.contexts 0 = some fetchContext ∧ fetchContext.st ≠ .building ∧ fetchContext.st ≠ .tornDown ∧ b.length = 64 ∧
       (BitVec.ofNat 64 (bytesField b 0 8) : DWord) = 0x8000 ∧ bytesField b 56 8 % 16 = 0 ∧ (launchable base).spawnSlots fetchContext.record.part < 256 ∧
       Table.get (crowded base).ctx.contexts 0 = some fetchContext ∧ 256 ≤ (crowded base).spawnSlots fetchContext.record.part) ∧
    ((base.residentEnergy 0).sum ≠ 0 ∧ (base.residentEnergy 0).sum ≤ 4 * (base.residentEnergy 0).sum) := by
  refine ⟨⟨by decide +kernel, by decide +kernel, by decide +kernel, by decide +kernel, by decide +kernel, by decide +kernel, by decide +kernel,
    base_tables_end⟩, by decide +kernel,
    ⟨by decide +kernel, by decide +kernel, by decide +kernel, by decide +kernel, by decide +kernel, by decide +kernel, ok_is (by decide +kernel),
      by decide +kernel⟩, by decide +kernel, by decide +kernel, ⟨by decide +kernel, by decide +kernel, by decide +kernel,
    ok_is (by decide +kernel), by decide +kernel, by decide +kernel⟩, by decide +kernel⟩

/-- `hosted base` with context 0 in a state of its own, and host 0's page with its operands. -/
def ctxIn (st : CtxState) (gs : List Guardian) (arg arg2 : DWord) : State :=
  let s := hosted base
  { s with ctx := { s.ctx with
      contexts := [(0, { fetchContext with st := st, guardians := gs })]
      pages := [(0, { pageZero with arg := arg, arg2 := arg2 })] } }

/-- `hosted base` without a context, with a record of partition `part` at 0x400 and CARG as given. -/
def creating (part : Nat) (arg : DWord) : State :=
  let s := ctxIn .building [] arg 0
  { s with
    ctx := { s.ctx with contexts := [] }
    mem := s.mem.setBytes 0x400 (natToBytes 8 0x200000000 ++ List.replicate 32 0 ++ natToBytes 2 part) }

/-- A record that START takes: a save area of 16 MiB, where the partition has one cluster. -/
def startRecord : Record := { fetchRecord with saveSz := 0x1000000 }

def starting (r : Record) : State :=
  let s := ctxIn .building [] 0 0
  { s with
    ctx := { s.ctx with contexts := [(0, { fetchContext with record := r, st := .building, guardians := [] })] }
    sys := { s.sys with parts := [(0, ⟨0x010101, 1, 0, 0, 1000⟩)] } }

theorem witness_ContextCommands :
    (∀ p, p = 0 ∨ p = 5 → CanCommand (creating p 0x400) 0 ∧ (creating p 0x400).context 4095 = none ∧
      ((creating p 0x400).page 0).arg.toNat % 1024 = 0 ∧ (creating p 0x400).present ((creating p 0x400).page 0).arg.toNat 1024 = true ∧
      (recordOf ((creating p 0x400).load ((creating p 0x400).page 0).arg.toNat 1024)).part = p) ∧
    ((creating 0 0x400).partEnabled 0 = true ∧ (creating 0 0x400).privileged 0 0 = true ∧ (creating 5 0x400).partEnabled 5 = false ∧
      ((creating 0 0x401).page 0).arg.toNat % 1024 ≠ 0 ∧ CanCommand (creating 0 0x401) 0) ∧
    (CanCommand (starting startRecord) 0 ∧ (starting startRecord).context 0 = some { fetchContext with record := startRecord, st := .building, guardians := [] } ∧
      (starting startRecord).startable 0 startRecord = true ∧ (starting fetchRecord).startable 0 fetchRecord = false) ∧
    (let s := ctxIn .shared [⟨0, 5⟩, ⟨2, 0⟩] 1 0
     CanCommand s 0 ∧ s.context 0 = some { fetchContext with st := .shared, guardians := [⟨0, 5⟩, ⟨2, 0⟩] } ∧ s.attached (s.page 0).named = true ∧
       (s.page 0).named = 1) ∧
    (let c := { fetchContext with st := .guarded, guardians := [⟨0, 5⟩] }
     let s := ctxIn .guarded [⟨0, 5⟩] 1 0
     s.context 0 = some c ∧ c.guards 0 = true ∧ c.guards 1 = false ∧ c.guards 3 = false ∧ c.guardians.length < 3 ∧ c.events = [] ∧
       3 ≤ ({ c with guardians := [⟨0, 0⟩, ⟨2, 0⟩, ⟨3, 0⟩] } : Context).guardians.length) ∧
    (let s := (ctxIn .guarded [⟨0, 5⟩] 1 0).limitsFirst 0
     CanCommand s 1 ∧ s.context 0 = some { fetchContext with st := .guarded, guardians := [⟨0, 5⟩] }) ∧
    (Instr.addg 3 0 ∈ [Instr.addg 3 0, .handover 3 0, .release 3 0, .suspend 3 0, .resume 3 0, .resumeg 3 0, .evvec 3 0]) ∧
    (creating 0 0).context 7 = none := by
  unfold CanCommand
  refine ⟨?_, by decide +kernel, by decide +kernel, by decide +kernel, by decide +kernel, by decide +kernel, by decide, by decide +kernel⟩
  rintro p (rfl | rfl) <;> decide +kernel

/-- An adoption signed with a key made for it, with r = s = the hash e of the message, so that the check is of G + Q: Q is the point (e, y)
less G. Context, host and lease are 0, the nonce is 2. -/
def adoptMessage : List Byte := natToBytes 8 0x54504441 ++ natToBytes 16 2 ++ List.replicate 40 0

def adoptHash : Nat := 0x1bc4e6d8f8d36c79c7e0516644f14b61709082ec2de826ddda9e8e59cc961c77557e760f561e0397db801e607e8a0da8

def adoptKey : List Byte := 4 ::
  (natToBytes 48 0x85e44aab9a8e632ff77f899b31ca94e015e9f8346e7a0820460c4ba30241962c9008d4eee3d9580ad632be6a51fca506).reverse ++
  (natToBytes 48 0x10814c5c2cacab732d20eea40f7070769313c7e9fa29c8ddfd71afeeba02b9ac0b4c7f4994948ddca15ab6fb2748e4d2).reverse

def adoptSig : List Byte := (natToBytes 48 adoptHash).reverse ++ (natToBytes 48 adoptHash).reverse

/-- SHA-384 of the key. -/
def adoptKeyHash : BitVec 384 := 0xf79790f759af440ae9f6469b2539037270b51311e51725027e6fafdaaece5ab398679c0523c27a551477be7e39b6290f

def adoptee : Context :=
  { fetchContext with st := .orphaned, guardians := [], nonce := 2, record := { fetchRecord with nadopt := 1, adopt := [adoptKeyHash] } }

def adopting (key sig : List Byte) : State :=
  let s := ctxIn .orphaned [] 0 0
  { s with ctx := { s.ctx with
      contexts := [(0, adoptee)]
      pages := [(0, { pageZero with msg := adoptMessage, key := key, sig := sig })] } }

theorem test_sha384 : keyHash adoptKey = adoptKeyHash ∧ beNat (sha384 adoptMessage) = adoptHash := by decide +kernel

theorem test_signature : signatureHolds adoptKey adoptMessage adoptSig = true ∧
    signatureHolds adoptKey (0 :: adoptMessage.drop 1) adoptSig = false := by decide +kernel

theorem witness_adoption :
    (CanCommand ((adopting adoptKey adoptSig).limitsFirst 0) 0 ∧ ((adopting adoptKey adoptSig).limitsFirst 0).context 0 = some adoptee ∧ adoptee.st ≠ .tornDown ∧
      adoptee.events = [] ∧ adoptCheck 0 0 (((adopting adoptKey adoptSig).limitsFirst 0).page 0) adoptee = 0) ∧
    adoptCheck 0 0 ((adopting adoptKey []).page 0) adoptee = 3 ∧
    (adopting adoptKey []).context 7 = none ∧ adoptMessageOk 0 adoptMessage = true ∧ adoptMessageOk 7 adoptMessage = false := by
  unfold CanCommand; decide +kernel

theorem witness_ContextLives :
    (let c := { fetchContext with st := .guarded, guardians := [⟨0, 100000000⟩] }
     let s := ctxIn .guarded [⟨0, 100000000⟩] 0 0
     CanCommand s 0 ∧ s.context 0 = some c ∧ c.st ≠ .tornDown ∧ c.guards 0 = true ∧ (∃ g ∈ c.guardians, g.host = 0 ∧ c.record.leaseNs ≤ g.age)) ∧
    (∀ g ∈ fetchContext.guardians, g.host = 0 → g.age < fetchContext.record.leaseNs) ∧
    (∀ c, base.context 0 = some c → (∀ g ∈ c.guardians, g.age < c.record.leaseNs) ∧ ∀ n, c.record.limitNs = some n → c.orphan < n) ∧
    (ctxIn .orphaned [] 0 0).privileged 0 fetchRecord.part = true ∧
    (let c := { fetchContext with st := .orphaned, guardians := [], orphan := 60000000000 }
     c.record.limitNs = some 60000000000 ∧ 60000000000 ≤ c.orphan ∧ fetchContext.orphan < 60000000000) ∧
    (let c := { fetchContext with st := .tornDown, guardians := [], tearing := true }
     let s := { base with ctx := { base.ctx with contexts := [(0, c)] } }
     s.context 0 = some c ∧ (∀ p ∈ s.run.accs, p.2.ctx ≠ 0) ∧ ∃ p ∈ (withAcc (acc .store .performed)).run.accs, p.2.ctx = 0) ∧
    (let s := ctxIn .suspended [⟨0, 0⟩] 0 0
     s.context 0 = some { fetchContext with st := .suspended } ∧ (∀ p ∈ s.ker.queues, p.2.ctx = 0 → p.2.st ≠ .suspended) ∧ s.allSaved 0 = false) ∧
    (let s := ctxIn .suspended [⟨0, 0⟩] 0 0
     s.streamsAtBoundary 0 = true ∧ ({ s with eng := { s.eng with streams := [(0, copy 0x1000 0x2000)] } } : State).streamsAtBoundary 0 = true ∧
       ({ s with eng := { s.eng with streams := [(0, { copy 0x1000 0x2000 with len := 128, done := [0] })] } } : State).streamsAtBoundary 0 =
         false) ∧
    (let c := { fetchContext with st := .suspended, guardians := [⟨0, 0⟩], marked := [(0, 0x1000)] }
     let s := ctxIn .suspended [⟨0, 0⟩] 0 0
     let t := ({ s with ctx := { s.ctx with contexts := [(0, c)] } }).setGroup 0 { fetchGroup with st := .parked }
     t.context 0 = some c ∧ t.group 0 = some { fetchGroup with st := .parked } ∧ CanCommand t 0) ∧
    (retired { fetchTeam with saved := true }).allSaved 0 = true ∧
    (let g := { fetchGroup.updLane 0 fun l => { l with st := .parked } with st := .parked }
     let s := (ctxIn .guarded [⟨0, 0⟩] (base.wid fetchGroup 0) 0x1000).setGroup 0 g
     s.group 0 = some g ∧ s.ctxOf g = 0 ∧ s.wid g 0 = (s.page 0).arg ∧
       (∀ p ∈ s.run.groups, s.ctxOf p.2 = 0 → s.wid p.2 0 = (s.page 0).arg → p = (0, g)) ∧ 0 < g.width ∧ (g.lane 0).st = .parked ∧
       (g.lane 0).meet = 0) ∧
    (let g := { fetchGroup with st := .saved true }
     let s := (ctxIn .suspended [⟨0, 0⟩] (base.wid fetchGroup 0) 0x1000).setGroup 0 g
     s.group 0 = some g ∧ g.st = .saved true ∧ s.wid g 0 = (s.page 0).arg ∧
       (∀ p ∈ s.run.groups, s.ctxOf p.2 = 0 → s.wid p.2 0 = (s.page 0).arg → p = (0, g))) := by
  unfold CanCommand
  refine ⟨by decide +kernel, by decide +kernel, ?_, by decide +kernel, by decide +kernel, by decide +kernel, by decide +kernel, by decide +kernel,
    by decide +kernel, by decide +kernel, by decide +kernel, by decide +kernel, by decide +kernel⟩
  intro c h
  obtain rfl : fetchContext = c := Option.some.inj h
  exact ⟨by decide +kernel, fun n h => by
    obtain rfl : (60000000000 : Nat) = n := Option.some.inj h
    decide⟩

theorem witness_GuardianCommands :
    (let s := (ctxIn .guarded [⟨0, 0⟩] 6 0).limitsFirst 0
     CanCommand s 0 ∧ s.context 0 = some { fetchContext with st := .guarded, guardians := [⟨0, 0⟩] }) ∧
    (let s := ctxIn .guarded [⟨0, 0⟩] 6 0
     let p := s.page 0
     CanCommand s 0 ∧ s.context 0 = some { fetchContext with st := .guarded, guardians := [⟨0, 0⟩] } ∧ fetchContext.guards 0 = true ∧
       p.invVa.toNat % 65536 = 0 ∧ p.invLen.toNat % 65536 = 0 ∧ p.invCtr.toNat / 2 % 4 = 0 ∧
       s.rangeOk 0 (p.invCtr.toNat / 8 * 8) 8 false = true ∧ (s.mem.invals.filter fun v => v.2.part == 0).length < 64 ∧
       ({ p with invVa := 1 } : CmdPage).invVa.toNat % 65536 ≠ 0 ∧ 6 ≤ field p.arg 4 0 ∧ field p.arg 4 0 ≤ 16 ∧
       (p.arg &&& ~~~0xFFF#64).toNat % (64 * 2 ^ field p.arg 4 0) = 0 ∧ (∀ q ∈ s.ctx.contexts, q.2.events = [])) ∧
    (field (5 : DWord) 4 0 < 6 ∧ 16 < field (17 : DWord) 4 0 ∧ (2047 : DWord).toNat ≤ 2047) ∧ base.attached 0 = false := by
  unfold CanCommand; decide +kernel

/-- A team that is settled, one that is not, one that is saved, and a group in transit. -/
def savedTeam : State :=
  let s := retired { fetchTeam with saved := true }
  (hosted s).setGroup 0 { fetchGroup with st := .saved false }

theorem witness_SaveAndRestore :
    (Table.get base.run.teams 0 = some fetchTeam ∧ Table.get base.ker.kernels fetchTeam.kernel = some fetchKernel ∧
      base.context fetchKernel.ctx = some fetchContext ∧ fetchTeam.saved = false ∧ base.workless 0 fetchTeam = false ∧ (withAcc (acc .store .queued)).workless 0 fetchTeam = false ∧
      base.teamSettled 0 fetchTeam = true ∧ fetchTeam.groups.Nodup ∧ (withAcc (acc .store .queued)).teamSettled 0 fetchTeam = false) ∧
    (let tm := { fetchTeam with saved := true }
     let g := { fetchGroup with st := .saved false }
     let s := savedTeam
     Table.get s.run.teams 0 = some tm ∧ s.dispatches fetchKernel.ctx = true ∧ 191 / 4 ∈ s.clusters fetchKernel.part ∧
       1 ≤ s.teamRoom 191 { fetchKernel.hdr with xs := tm.groups.length :: fetchKernel.hdr.xs.drop 1 } ∧
       s.quadsOk 191 { fetchKernel.hdr with xs := tm.groups.length :: fetchKernel.hdr.xs.drop 1 } [3] = true ∧ tm.groups = [0] ∧
       s.group 0 = some g ∧ (∀ l ∈ g.lanes, l.st = .running ∧ l.meet = 0 ∧ l.monitor.st ≠ .armed) ∧
       (s.context fetchKernel.ctx).all fun c => (Table.get c.marked 0).isNone) ∧
    (let g := { fetchGroup with st := .inTransit, core := 191, quad := 3 }
     (base.setGroup 0 g).group 0 = some g ∧ g.st = .inTransit ∧ (∀ l ∈ g.lanes, l.st = .running ∧ l.meet = 0 ∧ l.monitor.st ≠ .armed) ∧
       ((base.setGroup 0 g).context ((base.setGroup 0 g).ctxOf g)).all fun c => (Table.get c.marked 0).isNone) ∧
    fetchGroup.st ≠ .inTransit := by decide +kernel

/-- `hosted base` with port 15 as given; device 0 is in a fabric domain. -/
def ported (p : Port) : State :=
  { hosted base with lnk := { (hosted base).lnk with fen := true, ports := Table.set (hosted base).lnk.ports 15 p } }

def portIn (st : PortState) : Port := { portReset with st := st, peer := some 3, alw := [127, 128, 32, 8] }

theorem witness_Ports : base.authority 0 = false ∧ (hosted base).authority 0 = true ∧ 15 < 16 ∧ (3 : Nat) ≠ base.lnk.fdev ∧ base.lnk.fdev < 16 ∧
    (∀ st : PortState, ((ported (portIn st)).port 15).st = st) ∧
    ((ported (portIn .locked)).port 15).alw.getD 0 0 < [128, 128, 32, 8].getD 0 0 ∧
    Instr.portTrain 0 15 1 ∈ [Instr.portTrain 0 15 1, .portDarken 0 15 1, .portRelock 0 15 1, .portDown 0 15 1, .fabcfgWrite 0 1] := by
  refine ⟨by decide +kernel, by decide +kernel, by decide, by decide +kernel, by decide +kernel, ?_, by decide +kernel, by decide +kernel⟩
  intro st
  cases st <;> decide +kernel

/-- An access of a page of device 3's memory. -/
def remoteAcc (kind : AccKind) (waited : Nat) : Access :=
  { acc kind .queued with tr := some ⟨BitVec.ofNat 64 (0x20F + 3 * 2048), 33, 0⟩, waited := waited }

def withRemote (a : Access) : State :=
  { ported (portIn .locked) with run := { (ported (portIn .locked)).run with accs := [(0, a)] } }

theorem witness_RoutesAndFlows :
    (let s := withRemote (remoteAcc .store 0)
     let l : Links := { s.lnk with fen := false }
     3 ∈ ((List.range 16).filter fun f => s.lnk.route f != l.route f) ∧ l.route 3 = .none ∧
       (∃ p ∈ s.run.accs, p.2.endsWith 3 = true) ∧ s.authority 0 = true) ∧
    (let s := withRemote (remoteAcc .store 0)
     let apart : State := { s with lnk := { s.lnk with fen := false } }
     3 ∈ ((List.range 16).filter fun f => apart.lnk.route f != s.lnk.route f) ∧ apart.lnk.route 3 = .none ∧ s.lnk.route 3 ≠ .none ∧
       0 < apart.sch.clocks.length ∧ apart.authority 0 = true ∧ apart.lnk.fen = false ∧ (16 : DWord).getLsbD 4 = true) ∧
    (base.lnk.flows.any fun f => f.port == 15 && f.src == 1 && f.dst == 2 && f.die == 8) = false ∧
    (base.lnk.flows.any fun f => f.port == 15 && f.src == 0 && f.dst == 2 && f.die == 8) = false ∧ base.lnk.fdev = 0 ∧
    (let a := remoteAcc (.load .b32) 1000000
     Table.get (withRemote a).run.accs 0 = some a ∧ (∃ tr, a.tr = some tr ∧ tr.cls = 2) ∧ a.sp = false ∧ a.fault = none ∧
       a.st ≠ .refused ∧ 1000000 ≤ a.waited) ∧
    (remoteAcc (.load .b32) 999999).waited < 1000000 ∧
    (let s : State := { base with lnk := { base.lnk with markers := [(1, ⟨15, [], [], false, false⟩)] } }
     Table.get s.lnk.markers 1 = some ⟨15, [], [], false, false⟩ ∧ s.markerDone ⟨15, [], [], false, false⟩ = true) ∧
    ((withRemote (remoteAcc .store 0)).marker 15 = ⟨15, [0], [], false, false⟩ ∧ (withRemote (remoteAcc .store 0)).markerDone ⟨15, [0], [], false, false⟩ = false) := by
  refine ⟨⟨by decide +kernel, by decide +kernel, ⟨_, .head _, by decide +kernel⟩, by decide +kernel⟩, by decide +kernel, by decide +kernel, by decide +kernel, by decide +kernel,
    ⟨by decide +kernel, ⟨_, rfl, by decide +kernel⟩, by decide +kernel⟩, by decide +kernel, by decide +kernel, by decide +kernel⟩

def linkIn (n : Nat) (x : DieLink) : State := { base with lnk := { base.lnk with dieLinks := Table.set base.lnk.dieLinks n x } }

theorem witness_LinkInstructions :
    (let ports := (List.range 16).filter fun p => (readOp oneP (oneP.lane 0) true (.imm 255)).getLsbD p
     one.current = some (issue0, oneP) ∧ issue0.guarded oneP p0Hd = [0] ∧ one.sentAll issue0.gid (one.earlier issue0 oneP) = true ∧
      (∀ p ∈ one.lnk.markers, p.1 < one.sch.nextId) ∧ (∀ p ∈ ports, one.markerDone (one.marker p) = true) ∧
      (one.placeMarkers ports).1.drained (one.placeMarkers ports).2 ports.length = true) ∧
    (let a := { remoteAcc .store 0 with st := .performed }
     let g := { oneP with s := [(1, 0x8000)] }
     let s := (withRemote a).setGroup 0 g
     let ports := (List.range 16).filter fun p => (readOp g (g.lane 0) true (.s 1)).getLsbD p
     s.current = some (issue0, g) ∧ issue0.guarded g p0Hd = [0] ∧ ports = [15] ∧ s.sentAll issue0.gid (s.earlier issue0 g) = true ∧
       (s.placeMarkers ports).1.drained (s.placeMarkers ports).2 ports.length = false) ∧
    ((withRemote (remoteAcc .store 0)).sentAll issue0.gid 1 = false) ∧
    (let k := { fetchKernel with hdr := { fetchHeader with scratch := 64 } }
     let s : State := { hosted one with ker := { one.ker with kernels := [(0, k)] } }
     let g := { oneP with s := [(0, 0x300000000), (1, 0x100000000), (2, 0)] }
     let t := { s with mem := s.mem.setBytes 0x200008008 (natToBytes 8 0xC0000000F) } |>.setGroup 0 g
     let after (va : DWord) : State := match t.walk (t.ctxOf g) va with | .found w => if w.cls = 7 then t else (t.setAccessed w false).1 | _ => t
     t.current = some (issue0, g) ∧ t.kernelOf g = some k ∧ k.hdr.x1 ≤ 1 ∧ k.hdr.scratch ≤ 64 ∧ Table.get t.ckp.ints (t.ctxOf g) = none ∧
       t.walk (t.ctxOf g) 0x400000000 = .invalid ∧ (t.homeDie (t.ctxOf g) 0x400000000 = none) ∧
       (((after 0).homeDie (t.ctxOf g) (readOp g (g.lane 0) true (.s 2))).map (·.1)) = some (dieOf g.core) ∧
       (∃ n, n ≠ dieOf g.core ∧ (((after 0x300000000).homeDie (t.ctxOf g) (readOp g (g.lane 0) true (.s 0))).map (·.1)) = some n ∧
         ∃ c ∈ (after 0x300000000).coresOn k.part n, (after 0x300000000).landable c k.hdr = true) ∧
       (after 0x300000000).groupQuiet issue0.gid g.team = true) ∧
    64 < fetchKernel.hdr.scratch ∧ one.kernelOf oneP = some fetchKernel ∧
    (indexIn oneP (oneP.lane 0) (.imm 15) ≤ 15 ∧ 15 < indexIn oneP (oneP.lane 0) (.imm 16)) ∧
    (Table.get base.lnk.dieLinks 19 = some ⟨.locked, 0⟩ ∧ 3 ≤ 3 ∧ (2 : Nat) < 3) ∧
    (Table.get (linkIn 7 ⟨.retraining, 2⟩).lnk.dieLinks 7 = some ⟨.retraining, 2⟩ ∧ (2 : Nat) < 3) ∧
    (Table.get (linkIn 8 ⟨.retraining, 3⟩).lnk.dieLinks 8 = some ⟨.retraining, 3⟩) ∧
    (Table.get (linkIn 0 ⟨.retraining, 3⟩).lnk.dieLinks 0 = some ⟨.retraining, 3⟩ ∧ (linkIn 0 ⟨.retraining, 3⟩).run.groups = [(0, fetchGroup)] ∧
      dieOf fetchGroup.core = 0 ∧ fetchGroup.st = .resident ∧ (fetchGroup.lane 0).st ≠ .exited) ∧
    (12 < base.sch.clocks.length ∧ 12 < base.sch.slews.length ∧ base.sch.bounded = true ∧
      (let c : Sched := { base.sch with clocks := base.sch.clocks.set 12 1000000, slews := List.replicate 13 ⟨5000, 0⟩ }
       c.bounded = false ∧ (c.time 12).toNat + 2 * 10000 < 2 ^ 64 ∧ (c.slews.getD 12 ⟨0, 0⟩).run < 10000 ∧
         (c.slews.getD 12 ⟨0, 0⟩).left = 5000)) := by
  refine ⟨by decide +kernel, by decide +kernel, by decide +kernel, ?_, by decide +kernel, by decide +kernel, by decide +kernel, by decide +kernel,
    by decide +kernel, by decide +kernel, by decide +kernel, by decide +kernel⟩
  refine ⟨by decide +kernel, by decide +kernel, by decide +kernel, by decide +kernel, by decide +kernel, by decide +kernel, by decide +kernel,
    by decide +kernel, ⟨1, by decide +kernel, by decide +kernel, 24, by decide +kernel, by decide +kernel⟩, by decide +kernel⟩

/-- `hosted` with deferred pages from 8 GiB and held pages from 16 GiB, and Sumac enabled for context 0: window, inbox, staging pool. -/
def stubbed (s : State) : State :=
  let t := hosted s
  { t with
    mem := (t.mem.setBytes 0x200008008 (natToBytes 8 0x40F)).setBytes 0x200008010 (natToBytes 8 0x50F)
    sum := { t.sum with regs := [(0, ⟨0x41, 0x10000000000, 0x20000, 0xE000, 0x300000, 0x20000, 0⟩)] } }

/-- A stub of two tiles at the window's base, received from hold 9. -/
def stub0 (st : StubState) : Stub := ⟨0, 0x10000000000, 0x2000, 0, 0, 0x200000000, 9, st, 0x1000000, [0x300000], [], [], 100000000, 1000000000, none, 7⟩

def withStub (s : State) (x : Stub) (age : Nat) : State :=
  { stubbed s with sum := { (stubbed s).sum with stubs := [(0, x)], holds := [(9, ⟨0, 0x200000000, 0x2000, 0, 0, age⟩)] } }

theorem witness_StubInstructions :
    (let g := { oneP with s := [(0, 0x200000000), (1, 4096), (2, 0), (3, 2 ^ 36), (4, 2 ^ 36 + 1)] }
     let s := stubbed (base.setGroup 0 g)
     let r (x : Opnd) : DWord := readOp (issue0.source g) ((issue0.source g).lane 0) true x
     s.current = some (issue0, g) ∧ issue0.guarded g p0Hd = [0] ∧ Table.get s.ckp.ints (s.ctxOf g) = none ∧ 0 < (r (.s 1)).toNat ∧
       (r (.s 3)).toNat ≤ 2 ^ 36 ∧ (r (.s 0)).toNat % 4096 = 0 ∧ (r (.s 1)).toNat % 4096 = 0 ∧
       s.reached issue0.gid .dom (s.earlier issue0 g) = true ∧ s.liveStub (s.ctxOf g) (r (.s 0)) = none ∧
       ¬ ((s.swRegs (s.ctxOf g)).base.toNat ≤ (r (.s 0)).toNat ∧
         (r (.s 0)).toNat < (s.swRegs (s.ctxOf g)).base.toNat + (s.swRegs (s.ctxOf g)).size.toNat) ∧
       s.sendable (s.ctxOf g) (r (.s 0)) (r (.s 1)).toNat = true ∧ field (r (.s 2)) 35 32 = s.lnk.fdev ∧ s.sum.holds.length < 65536 ∧
       (s.touchRange (s.ctxOf g) (r (.s 0)) (r (.s 1)).toNat).receiveCode ((r (.s 2)).setWidth 32) (r (.s 1)) (r (.s 0)) = 0 ∧ r (.s 5) = 0 ∧ 2 ^ 36 < (r (.s 4)).toNat) ∧
    (let g := { oneP with s := [(0, 0x10000000000)] }
     let s := withStub (base.setGroup 0 g) (stub0 .active) 0
     s.current = some (issue0, g) ∧ s.liveStub (s.ctxOf g) (readOp g (g.lane 0) true (.s 0)) = some (0, stub0 .active) ∧
       (stub0 .active).va.toNat + (stub0 .active).len.toNat ≤ 2 ^ 64 ∧ s.liveStub (s.ctxOf g) (readOp g (g.lane 0) true (.s 1)) = none) := by
  decide +kernel

theorem witness_StubSteps :
    (∀ ps, ps = [] ∨ ps = (List.range (stub0 .active).past).drop ((stub0 .active).first + 1) →
     let x := { stub0 .active with pulling := [(stub0 .active).first], pulled := ps }
     (withStub base x 0).stub 0 = some x ∧ x.first ∈ x.pulling ∧
       inAperture (x.frames.getD (x.first / 16) 0 + 4096 * (x.first % 16)) = false ∧ (withStub base x 0).mem.views = [] ∧
       (withStub base x 0).mem.wf = true) ∧
    (List.replicate 4096 (0 : Byte)).length = 4096 ∧
    (let x := stub0 .active
     (∃ k, x.first ≤ k ∧ k < x.past ∧ k ∉ [x.first]) ∧
       ∀ k, k < x.past → x.first ≤ k → k ∈ x.first :: (List.range x.past).drop (x.first + 1)) ∧
    (withStub base (stub0 .lost) 0).stub 0 = some (stub0 .lost) ∧
    (let k : WaitKind := .pulled 0 7 0 1 none
     (withStub (stalled k none .absent) (stub0 .active) 0).group 0 = some (waiter k none .absent) ∧ (stub0 .active).serial = 7 ∧
       ((waiter k none .absent).lane 0).st = .stalled ⟨k, 4, none, .absent, 0, false, false⟩) ∧
    ((withStub base (stub0 .active) 0).stub 0 = some (stub0 .active) ∧ (stub0 .active).st = .active ∧ 100000000 ≤ (stub0 .active).renew ∧
      (withStub base (stub0 .active) 0).local (stub0 .active).origin = true ∧ 1000000000 ≤ (stub0 .active).quiet) ∧
    ((stubbed base).receiveCode 0 0x2000 0x200000000 = 0 ∧ 0 < (0x2000 : DWord).toNat ∧ (0x2000 : DWord).toNat ≤ 2 ^ 36 ∧
      (0x2000 : DWord).toNat % 4096 = 0 ∧ (0x200000000 : DWord).toNat % 4096 = 0) ∧
    (base.privileged 0 fetchRecord.part = false ∧ base.context 0 = some fetchContext) ∧
    ((hosted base).privileged 0 fetchRecord.part = true ∧ ((hosted base).swRegs 0).ctl.getLsbD 0 = false ∧ (0x41 : DWord).getLsbD 0 = true ∧
      (hosted base).context 0 = some fetchContext ∧ fetchContext.st = .guarded) ∧
    (let s : State := { hosted base with sum := { base.sum with regs := [(0, { (stubbed base).swRegs 0 with ctl := 0 })] } }
     let r := s.swRegs 0
     r.base.toNat % 65536 = 0 ∧ r.size.toNat ≤ 2 ^ 46 ∧ field (0x41 : DWord) 7 4 = 4 ∧ r.inbox.toNat % 1024 = 0 ∧
       s.rangeOk fetchRecord.part r.stage.toNat r.stageSz.toNat true = true) := by
  refine ⟨?_, List.length_replicate, ⟨⟨(stub0 .active).first + 1, by decide +kernel⟩, by decide +kernel⟩, by decide +kernel, by decide +kernel, by decide +kernel,
    by decide +kernel, by decide +kernel, by decide +kernel, by decide +kernel⟩
  rintro ps (rfl | rfl) <;> decide +kernel

/-- The hold entry of `withStub`'s stub, of device `dev`, at an age. -/
def hold0 (dev age : Nat) : Hold := ⟨0, 0x200000000, 0x2000, dev, 0, age⟩

def withHold (h : Hold) : State := { stubbed base with sum := { (stubbed base).sum with holds := [(9, h)] } }

theorem witness_HoldSteps :
    (Table.get (withHold (hold0 0 0)).sum.holds 9 = some (hold0 0 0) ∧ (withHold (hold0 0 0)).local (hold0 0 0).dev = true ∧
      (hold0 0 0).age < 1000000000 ∧
      ∃ b, (withHold (hold0 0 0)).vload 0 (BitVec.ofNat 64 ((hold0 0 0).base.toNat / 65536 * 65536 + 4096 * 1)) 4096 = .ok b) ∧
    (Table.get (withHold { hold0 0 0 with base := 0x600000000 }).sum.holds 9 = some { hold0 0 0 with base := 0x600000000 } ∧
      ∃ e, (withHold { hold0 0 0 with base := 0x600000000 }).vload 0 (BitVec.ofNat 64 (0x600000000 / 65536 * 65536 + 4096 * 1)) 4096 = .error e) ∧
    (Table.get (withHold (hold0 0 1000000000)).sum.holds 9 = some (hold0 0 1000000000) ∧ 1000000000 ≤ (hold0 0 1000000000).age) ∧
    (Table.get (withHold (hold0 0 999999999)).sum.holds 9 = some (hold0 0 999999999) ∧ (hold0 0 999999999).age < 1000000000) ∧
    ((stubbed base).sendable 0 0x200000000 (0x2000 : DWord).toNat = true ∧ (stubbed base).sum.holds.length < 65536 ∧ 0 < (0x2000 : DWord).toNat ∧
      (stubbed base).local 3 = false ∧ (stubbed base).local 0 = true ∧
      (withStub base (stub0 .active) 0).sendable 0 0x200000000 (0x2000 : DWord).toNat = true ∧
      (withStub base (stub0 .active) 0).stub 0 = some (stub0 .active)) ∧
    ((stubbed base).sendable 0 0x600000000 (0x2000 : DWord).toNat = false) ∧
    (let a := { acc .store .queued with va := 0x400000000, tr := some ⟨0x50F, 33, 0⟩, waited := 100000000 }
     let s : State := { stubbed base with
       run := { (stubbed base).run with accs := [(0, a)] }
       sum := { (stubbed base).sum with holds := [(9, ⟨0, 0x400000000, 0x2000, 0, 0, 0⟩)] } }
     Table.get s.run.accs 0 = some a ∧ (∃ tr, a.tr = some tr ∧ tr.cls = 5) ∧ s.heldOn a.ctx a.va = true ∧ a.kind.writes = true ∧ a.fault = none ∧
       a.st = .queued ∧ s.holdLimNs a.ctx ≤ a.waited) ∧
    Table.get ({ base with sum := { base.sum with restoredLeft := [(0, 0)] } } : State).sum.restoredLeft 0 = some 0 := by
  refine ⟨⟨by decide +kernel, by decide +kernel, by decide +kernel, ⟨_, ok_of (d := []) (by decide +kernel)⟩⟩, ⟨by decide +kernel, ?_⟩, by decide +kernel,
    by decide +kernel, by decide +kernel, by decide +kernel, ?_, by decide +kernel⟩
  · exact ⟨.pageNotPresent, error_of (by decide +kernel)⟩
  · exact ⟨by decide +kernel, ⟨_, rfl, by decide +kernel⟩, by decide +kernel⟩
/-- A sequence of context 0 without rules, with drafts; the machine in which it is number 5 and one iteration for it waits. -/
def seq0 (drafts : List Nat) (stopped : Bool) : Sequence :=
  ⟨0, 0, [7], drafts.map (fun t => (BitVec.ofNat 32 t, [])), [], 0, [], 0, [], [], 0, none, stopped⟩

def iter0 (handle : Word) (k : IterKind) : Iter := ⟨3, 0, 1, handle, k, .v 4, .v 5, none, 0, 0⟩

def cloved (q : Sequence) (x : Iter) : State :=
  { hosted base with clv := { (hosted base).clv with seqs := [(5, q)], iters := [(0, x)], shares := [(0, 8)] } }

/-- No sequence with the handle; stopped; 0, 1, 15 and 16 drafts. The last part is a position at which nothing hits, a STOP, an INJECT. -/
theorem witness_SequenceIterations :
    (NextIteration (cloved (seq0 [] false) (iter0 0x10005 .close)) 5 0 (iter0 0x10005 .close) ∧
      (cloved (seq0 [] false) (iter0 0x10005 .close)).seqOf 0 0x10005 = none) ∧
    (∀ q ∈ [seq0 [] true, seq0 [] false, seq0 [1] false, seq0 (List.replicate 15 1) false, seq0 (List.replicate 16 1) false],
      ∀ k ∈ [IterKind.tok false 9, .tok true 9, .conf 0, .conf 1, .rej, .rule 3 none, .rule 3 (some ⟨[], [], 0, 1, false, none, 0⟩), .close],
      NextIteration (cloved q (iter0 5 k)) 5 0 (iter0 5 k) ∧ (cloved q (iter0 5 k)).iterCtx (iter0 5 k) = 0 ∧
      (cloved q (iter0 5 k)).seqOf 0 5 = some (5, q) ∧ q.run = [] ∧ (cloved q (iter0 5 k)).rulesFor q = [] ∧
      (cloved q (iter0 5 k)).rulesFor { q with drafts := q.drafts.drop 1 } = [] ∧ q.drafts.length ≤ 16) ∧
    ((seq0 (List.replicate 15 1) false).drafts.length < 16 ∧ 16 ≤ (seq0 (List.replicate 16 1) false).drafts.length ∧
      (seq0 [1] false).drafts = (1, []) :: []) ∧
    (let stop : Rule := ⟨[8], [], 0, 1, true, none, 0⟩
     let inject : Rule := ⟨[8], [42, 43], 2, 3, true, none, 0⟩
     stop.matches [7, 8] = true ∧ inject.matches [7, 8] = true ∧ stop.matches [8, 7] = false ∧ (([(0, stop)] : List (Nat × Rule)).map (·.1)).Nodup) := by
  unfold NextIteration
  decide +kernel

theorem witness_SequenceInstructions :
    (let s := cloved (seq0 [] false) (iter0 5 .close)
     s.current = some (issue0, fetchGroup) ∧ issue0.guarded fetchGroup p0Hd = [] ∧ issue0.guarded oneP p0Hd = [0]) ∧
    (let s : State := (cloved (seq0 [] false) (iter0 5 .close)).setGroup 0 oneP
     s.current = some (issue0, oneP) ∧ Table.get s.ckp.ints (s.ctxOf oneP) = none ∧ (readOp oneP (oneP.lane 0) true (.v 0)).toNat % 8 = 0 ∧
       s.seqsHeld 0 + 1 ≤ (Sparse.get s.clv.shares 0).toNat ∧ s.clv.seqs.length + 1 ≤ 65536 ∧
       s.reached issue0.gid .sys (s.earlier issue0 oneP) = true) ∧
    one.freeSeq (one.partOf (one.ctxOf oneP)) = none ∧
    (Instr.sqrej noGuard .absent (.v 0) = Instr.sqrej noGuard .absent (.v 0) ∧ (15 : BitVec 9).toNat ≤ 15 ∧
      (readOp oneP (oneP.lane 0) true (.v 0)).toNat % 128 = 0 ∧ one.engineRead (one.ctxOf oneP) 0 = .ok (pageT base 0)) ∧
    (let g := { oneP with s := [(1, 5)] }
     let s : State := (cloved (seq0 [] false) (iter0 5 .close)).setGroup 0 g
     s.current = some (issue0, g) ∧ issue0.guarded g p0Hd = [0] ∧ (s.seqOf (s.ctxOf g) ((readOp g (g.lane 0) false (.s 1)).setWidth 32)).isSome = true ∧
       s.engineRead (s.ctxOf g) 0 = .ok (pageT base 0) ∧ s.seqOf (s.ctxOf g) ((readOp g (g.lane 0) false (.v 0)).setWidth 32) = none) ∧
    (let k : WaitKind := .clove 3
     let g := { waiter k none .absent with bundles := [] }
     let x := { iter0 5 (.tok false 9) with answer := some (9, 0x7F00, false, none) }
     let s := (cloved (seq0 [] false) x).setGroup 0 g
     s.waiting 0 0 = some (g, g.lane 0, ⟨k, 4, none, .absent, 0, false, false⟩) ∧ s.answered 3 = true ∧ g.waitersWith 0 = laneMask [0] ∧ 0 < g.width ∧
       Table.get s.ckp.ints (s.ctxOf g) = none ∧ s.iterFor 3 0 = some x ∧ x.d.isS = false ∧ x.e.isS = false) ∧
    (base.authority 0 = false ∧ (hosted base).authority 0 = true ∧ (cloved (seq0 [] false) (iter0 5 .close)).seqsHeld 0 = 1 ∧
      field 65536 16 0 + (((List.range 12).filter (· != 0)).map fun k =>
        (Sparse.get (cloved (seq0 [] false) (iter0 5 .close)).clv.shares k).toNat).sum ≤ 65536 ∧ 1 ≤ field 65536 16 0 ∧ field 0 16 0 < 1 ∧
      (List.replicate 128 (0 : Byte)).length = 128) := by decide +kernel

/-- An interval of context 0 in a state of its own. -/
def interval (st : IntState) : Interval :=
  { intervalZero with st := st, number := 3, begun := 3, prep := 2, gen := 2, allDirty := false, logs := [] }

/-- `hosted base` where context 0 keeps that interval, alone in its job, with units in 1 MiB at 0x400000 and a root at 0x600000. -/
def checkpointed (x : Interval) (ctl : DWord) : State :=
  { hosted base with ckp := { (hosted base).ckp with
      ints := [(0, x)], regs := [(0, ⟨ctl, 1, 0x400000, 0x100000, 0x600000, 0x700000, 0x100000, 0⟩)] } }

theorem witness_Intervals :
    (let s : State := { hosted base with ckp := { base.ckp with regs := [(0, ⟨0, 1, 0x400000, 0x100000, 0x600000, 0x700000, 0x100000, 0⟩)] } }
     s.context 0 = some fetchContext ∧ s.privileged 0 fetchContext.record.part = true ∧ (s.ck 0).en = false ∧
       s.ckptOk 0 fetchContext (s.ck 0) = true ∧ s.ckptOk 0 fetchContext { s.ck 0 with root := 1 } = false) ∧
    (let s := checkpointed (interval .running) 1
     s.int 0 = some (interval .running) ∧ (interval .running).busy = false ∧ Table.get s.ckp.regs 0 = some (s.ck 0) ∧ s.rank 0 = 0 ∧
       (interval .running).instant = none ∧ s.boundaryDue 0 (interval .running) = false ∧ fetchContext.st ≠ .building ∧
       s.current = some (issue0, fetchGroup) ∧ s.int (s.ctxOf fetchGroup) = some (interval .running) ∧ (s.ck (s.ctxOf fetchGroup)).logs = false ∧
       (interval .running).number.toNat + 2 < 2 ^ 64 ∧ (interval .running).gen < 2 ^ 64 ∧ issue0.guarded fetchGroup noGuard ≠ []) ∧
    (let x := { interval .running with clock := 10000000 }
     (checkpointed x 1).boundaryDue 0 x = true ∧ x.instant = none) ∧
    (let x := { interval .running with instant := some 0 }
     x.busy = true ∧ (0 : DWord).toNat ≤ ((checkpointed x 1).sch.time 8).toNat) ∧
    (let x := { interval .running with instant := some 1 }
     ((checkpointed x 1).sch.time 8).toNat < (1 : DWord).toNat) ∧
    (let s := checkpointed (interval .running) 1
     let t : State := { s with lnk := { s.lnk with fdev := 1 } }
     let u : State := { t with ckp := { t.ckp with regs := [(0, ⟨1, 3, 0, 0, 0, 0, 0, 0⟩)] } }
     let v : State := { t with ckp := { t.ckp with regs := [(0, ⟨5, 3, 0, 0, 0, 0, 0x10000 - 1, 0⟩)] } }
     u.rank 0 ≠ 0 ∧ (interval .running).out = false ∧ v.rank 0 ≠ 0 ∧ (v.ck 0).logs = true ∧ v.logLeft 0 (interval .running) < 65536 ∧
       (u.ck 0).logs = false ∧ (interval .running).begun + 1 < 2 ^ 64 ∧ u.current = some (issue0, fetchGroup) ∧
       u.int (u.ctxOf fetchGroup) = some (interval .running) ∧ u.privileged 0 fetchContext.record.part = true ∧
       ({ interval .running with out := true } : Interval).out = true) ∧
    base.int (base.ctxOf fetchGroup) = none ∧
    (let g := fetchGroup.updLane 0 fun l => l.writeV 2 3
     let s := (checkpointed (interval .running) 1).setGroup 0 g
     s.current = some (issue0, g) ∧ issue0.guarded g noGuard = 0 :: (List.range 15).map (· + 1) ∧
       (interval .running).gen < (readOp g (g.lane 0) true (.v 2)).toNat) := by decide +kernel

/-- A snapshot without objects but a group. -/
def snap0 (gs : List (Nat × Group)) : Snapshot := ⟨gs, [], [], [], [], [], [], [], [], [], [], [], [], [], [], [], []⟩

theorem base_groups_end : ∀ n, (hosted base).sch.nextId ≤ n → Table.get (hosted base).run.groups n = none := fun n h => (base_tables_end n h).1

theorem witness_BoundaryAndRestore :
    (let s := checkpointed (interval .quiescing) 1
     let t : State := { s with run := { s.run with groups := [], teams := [] } }
     t.int 0 = some (interval .quiescing) ∧ (t.ck 0).ndev = 1 ∧ t.rank 0 = 0 ∧ 0 ∉ (interval .quiescing).drained ∧
       t.quiesced 0 (interval .quiescing) = true ∧ s.quiesced 0 (interval .quiescing) = false ∧ (t.dbgReg (t.partOf 0) 0).getLsbD 1 = false) ∧
    (let x := { interval .quiescing with drained := [0], dirty := [7] }
     (checkpointed x 1).int 0 = some x ∧ (checkpointed x 1).rank 0 ∈ x.drained ∧ (checkpointed (interval .quiescing) 1).rank 0 ∉ (interval .quiescing).drained) ∧
    (let y := { snap0 [] with maps := [(0x20007, 7)], fresh := [0x20007] }
     let x := { interval .snapshot with marked := [7], snaps := [(3, y)] }
     (checkpointed x 1).int 0 = some x ∧ 7 ∈ x.marked ∧ 8 ∉ x.marked ∧ x.marked ≠ [] ∧ Table.get x.snaps x.number.toNat = some y ∧
       (0x20007, 7) ∈ y.maps ∧ x.written < y.unitCount ∧ ({ x with unacked := [0] } : Interval).unacked ≠ []) ∧
    (let x := { interval .snapshot with snaps := [(3, snap0 [])] }
     (checkpointed x 1).int 0 = some x ∧ x.marked = [] ∧ x.prep ≠ x.number.toNat ∧ Table.get x.snaps x.number.toNat = some (snap0 []) ∧
       (snap0 []).unitCount ≤ x.written ∧ x.unacked = [] ∧ x.gen ≠ x.number.toNat ∧ x.number ≠ 0 ∧
       inAperture ((checkpointed x 1).ck 0).root.toNat = false ∧ inAperture (((checkpointed x 1).ck 0).root.toNat + 8) = false ∧
       (checkpointed x 1).mem.views = [] ∧ (checkpointed x 1).mem.wf = true) ∧
    (let x := { interval .snapshot with prep := 3 }
     (checkpointed x 1).int 0 = some x ∧ (checkpointed x 1).rank 0 = 0 ∧ 0 < ((checkpointed x 1).ck 0).ndev ∧ 0 ∉ x.prepared ∧
       x.prep = x.number.toNat ∧ x.gen ≠ x.number.toNat ∧ x.number.toNat ≠ 4) ∧
    (let x := { interval .snapshot with prep := 3, gen := 3, snaps := [(2, snap0 []), (3, snap0 [])], units := [⟨2, 0, 0, false, [0], 0⟩] }
     x.gen = x.number.toNat ∧ ((checkpointed x 1).ck 0).ndev = 1 ∧ x.marked = [] ∧ x.units ≠ []) ∧
    (let x := { interval .running with snaps := [(2, snap0 [])], drain := some (2, 0, 0) }
     let s : State := { checkpointed x 1 with ker := { base.ker with queues := [(0, ring 1 1 .active)] } }
     s.int 0 = some x ∧ Table.get x.snaps x.gen = some (snap0 []) ∧ s.sys.module = true ∧ x.flashGen < x.gen ∧ s.drainRan 0 0 = true ∧
       (interval .running).drain = none) ∧
    ({ base with sys := { base.sys with module := false } } : State).sys.module = false ∧
    (∀ us, us = [] ∨ us = [⟨3, 1, 0, true, [], 1⟩] → let x := { interval .snapshot with units := us }
     let s := checkpointed x 1
     let t : State := { s with ckp := { s.ckp with regs := [(0, ⟨1, 3, 0x400000, 0x100000, 0x600000, 0x700000, 0x100000, 0⟩)] } }
     let mine (u : StripeUnit) : Bool := u.gen == x.number.toNat && u.parity && u.row == 1
     t.int 0 = some x ∧ 1 < (t.ck 0).ndev ∧ 1 ≠ t.rank 0 ∧ t.rank 0 = (t.ck 0).ndev - 1 - 1 % (t.ck 0).ndev ∧
       (match x.units.find? mine with | some u => some u.slot | none => (t.ck 0).freeSlot x.units) = some 0) := by
  refine ⟨by decide +kernel, by decide +kernel, by decide +kernel, by decide +kernel, by decide +kernel, by decide +kernel, by decide +kernel,
    by decide +kernel, ?_⟩
  rintro us (rfl | rfl) <;> decide +kernel

/-- RESTORE and GO: a context that is BUILDING, a generation in its reserve and none, a replay that reaches its stop. -/
theorem witness_BoundaryAndRestore_restore :
    (let c := { fetchContext with st := .building, guardians := [] }
     let x := { interval .running with snaps := [(2, snap0 [])] }
     let s := { checkpointed x 1 with ctx := { base.ctx with contexts := [(0, c)] } }
     let job : State := { s with ckp := { s.ckp with regs := [(0, ⟨1, 3, 0x400000, 0x100000, 0x600000, 0x700000, 0x100000, 0⟩)] } }
     s.context 0 = some c ∧ s.privileged 0 c.record.part = true ∧ s.findGeneration 0 2 = some (snap0 []) ∧ (s.rebuild 0 (snap0 [])).isSome = true ∧
       s.findGeneration 0 9 = none ∧ ({ s with mem := s.mem.setBytes 0x600000 [1] } : State).mem.le 0x600000 8 ≠ 0 ∧
       (s.ck 0).ndev ≤ 1 ∧ 1 < (job.ck 0).ndev ∧ job.findGeneration 0 9 = none ∧
       fetchContext.st ≠ .building ∧
       s.rebuild 0 { snap0 [] with granules := [(0x20000, [(0, 1)])] } = none) ∧
    ((snap0 [(0, fetchGroup)]).stubs = [] ∧ (snap0 [(0, fetchGroup)]).granules = [] ∧ (snap0 [(0, fetchGroup)]).held = [] ∧
      ({ fetchRecord with saveSz := 0 } : Record).saveSz.toNat < 64 ∧ (∀ l ∈ fetchGroup.lanes, (match l.st with | .stalled _ => false | _ => true) = true) ∧
      ∀ n, (hosted base).sch.nextId ≤ n → Table.get (hosted base).run.groups n = none) ∧
    (let x := { interval .running with snaps := [(1, snap0 [])], logs := [(1, [])] }
     let s := (checkpointed x 5).setDbg 0 0x40 1
     s.int (field 0 11 0) = some x ∧ fetchContext.guards 0 = true ∧ Table.get x.snaps (s.dbgReg 0 0x40).toNat = some (snap0 []) ∧
       Table.get x.logs (s.dbgReg 0 0x40).toNat = some [] ∧ (s.ck (field 0 11 0)).logs = true ∧ s.dbgReg 0 0x40 ≠ 0 ∧
       (s.dbgReg 0 0x40).toNat ≤ x.gen ∧ x.marked = []) ∧
    base.context (field 9 11 0) = none ∧
    (let x := { interval .replaying with stop := some (base.wid fetchGroup 0, 0) }
     let s := checkpointed x 5
     (s.stopsIn 0).head? = some (0, x) ∧ s.stopLane 0 (base.wid fetchGroup 0) = some (0, fetchGroup, 0) ∧ s.group 0 = some fetchGroup ∧
       (fetchGroup.lane 0).retired = 0 ∧ fetchGroup.st = .resident ∧ (fetchGroup.lane 0).st = .running) ∧
    base.stopsIn 0 = [] ∧
    (let x := { interval .replaying with reached := [(3, base.retiredCounts 0)] }
     (checkpointed x 5).int 0 = some x ∧ x.replay = [] ∧ (checkpointed x 5).allBack 0 x = true ∧ (checkpointed x 5).stopAhead 0 x = false ∧
       Table.get x.snaps (x.number.toNat + 1) = none ∧ (checkpointed (interval .replaying) 5).allBack 0 (interval .replaying) = false ∧
       (checkpointed x 5).stopAhead 0 { x with stop := some (base.wid fetchGroup 0, 0) } = true) ∧
    (let x := { interval .replaying with snaps := [(4, snap0 [])], logs := [(4, [])], reached := [(3, base.retiredCounts 0)] }
     let s := checkpointed x 5
     s.int 0 = some x ∧ Table.get x.snaps (x.number.toNat + 1) = some (snap0 []) ∧ Table.get x.logs (x.number.toNat + 1) = some [] ∧
       s.allBack 0 x = true ∧ s.stopAhead 0 x = false) ∧
    ({ interval .replaying with replay := [⟨2, 0, 0, 0, 0, []⟩] } : Interval).replay ≠ [] := by
  refine ⟨⟨by decide +kernel, by decide +kernel, by decide +kernel, by decide +kernel, by decide +kernel, by decide +kernel, by decide +kernel,
    by decide +kernel, by decide +kernel, by decide +kernel, ?_⟩, ⟨by decide +kernel, by decide +kernel, by decide +kernel, by decide +kernel, by decide +kernel, base_groups_end⟩, by decide +kernel, by decide +kernel, by decide +kernel, by decide +kernel,
    by decide +kernel, by decide +kernel, by decide +kernel⟩
  exact of_decide_eq_true (by decide +kernel)


/-- R383: of two iterations of one cycle, that of the lower group slot is taken first, whichever instruction issued first; one of an
earlier cycle keeps its place. -/
theorem test_iterations_of_one_cycle :
    let it (cycle place : Nat) : Iter := { iter0 5 .rej with cycle := cycle, place := place }
    (arrived [(0, it 6 70), (1, it 7 65)] [(2, it 7 64), (3, it 7 64)]).map (·.1) = [0, 2, 3, 1] := by decide +kernel
/-- A partition's registers that EN takes, and partition 1's beside it. -/
def goodPart : Partition := ⟨0x01010000, 1, 0x1, 0, 10⟩

def parted (x : Partition) : State := { hosted base with sys := { (hosted base).sys with parts := [(0, x)] } }

/-- A window of 1 block of FP32 elements at 0x10000, on the stack of die 0. -/
def goodWindow : Window := ⟨0x100000003, 0x10000, 0x20000⟩

theorem witness_PartitionRegisters :
    (base.authority 0 = false ∧ (hosted base).authority 0 = true ∧ (parted goodPart).part 0 = goodPart ∧ goodPart.en = false ∧
      (parted goodPart).partitionOk 0 { goodPart with ctl := 0x01010000 &&& 0xFFFFFF00 } = true ∧
      (parted goodPart).partitionOk 0 { goodPart with ctl := 0 } = false ∧ ((hosted base).part 0).en = true) ∧
    (∀ c ∈ ({ hosted base with ctx := { base.ctx with contexts := [] } } : State).ctx.contexts, c.2.record.part = 0 → c.2.st = .tornDown) ∧
    (∃ c ∈ base.ctx.contexts, c.2.record.part = 0 ∧ c.2.st ≠ .tornDown) ∧
    ((hosted base).wattsExceed 0 (field 1000 15 0) = false ∧ hottest [959] < 960) ∧
    ((hosted base).window 15 = windowZero ∧ ((hosted base).window 15).en = false ∧
      (hosted base).privileged 0 ({ (hosted base).window 15 with ctl := 0x100000002 &&& 0xFFFFFFFF00000F06 } : Window).part = true ∧
      (hosted base).windowOk 15 { goodWindow with ctl := 0x100000002 &&& 0xFFFFFFFF00000F06 } = true ∧
      (hosted base).windowOk 15 { goodWindow with ctl := 0 } = false) ∧
    (let s : State := { hosted base with
       sys := { (hosted base).sys with windows := [(0, goodWindow)] }, mem := { base.mem with views := [⟨0, 0, List.replicate 32 0, true⟩] } }
     (s.window 0).en = true ∧ s.privileged 0 (s.window 0).part = true ∧
       (s.mem.views.filter fun u => u.win == 0 && u.dirty) = [⟨0, 0, List.replicate 32 0, true⟩]) ∧
    (let s : State := { hosted base with sys := { (hosted base).sys with flash := [(1, (0x10000, 0x10000))] } }
     s.privileged 0 0 = true ∧ (∀ o ∈ s.sys.flash, o.1 ≠ 0 → overlap (s.flashRange 0).1.toNat (0x10000 : DWord).toNat o.2.1.toNat o.2.2.toNat = false) ∧
       (∃ o ∈ s.sys.flash, o.1 ≠ 0 ∧ overlap (s.flashRange 0).1.toNat (0x10001 : DWord).toNat o.2.1.toNat o.2.2.toNat = true)) ∧
    (let s : State := { hosted base with sys := { (hosted base).sys with module := true, flash := [(0, (1953124999, 2))] } }
     Table.get s.sys.flash (s.partOf 0) = some (1953124999, 2) ∧ s.flashAt 0 4095 ≠ none ∧ s.flashAt 0 4096 = none ∧ s.flashAt 0 8192 = none) := by
  decide +kernel

/-- Glen's key is a free value (log 13): an image is signed where that key is one that was made for it. -/
theorem witness_imageSigned : (Config.fusedKey = adoptKey → imageSigned (adoptMessage ++ adoptSig) = true) ∧ imageSigned [] = false := by
  constructor
  · intro h
    have ht : (adoptMessage ++ adoptSig).take ((adoptMessage ++ adoptSig).length - 96) = adoptMessage := by decide +kernel
    have hd : (adoptMessage ++ adoptSig).drop ((adoptMessage ++ adoptSig).length - 96) = adoptSig := by decide +kernel
    rw [imageSigned, ht, hd, h]
    exact test_signature.1
  · unfold imageSigned signatureHolds
    cases keyPoint Config.fusedKey <;> simp

theorem witness_HostsAndGlen :
    (Table.get (hosted base).sys.hosts 0 = some true ∧ Table.get (hosted base).sys.cxlWin 0 = some (0x100000, 0x10000) ∧
      0xFFFF + [(1 : Byte)].length ≤ (0x10000 : DWord).toNat ∧ (hosted base).present (0x100000 + 0xFFFF) 1 = true ∧
      inAperture (0x100000 + 0xFFFF) = false ∧ (hosted base).memBlocked (0x100000 + 0xFFFF) 1 = false ∧ (hosted base).mem.views = [] ∧ (hosted base).mem.wf = true) ∧
    (hottest [1100] ≤ 1100 ∧ 1100 < hottest [1101]) ∧
    (let x := { interval .snapshot with marked := [0x10] }
     Table.get (checkpointed x 1).sys.hosts 0 = some true ∧ Table.get (checkpointed x 1).sys.cxlWin 0 = some (0x100000, 0x10000) ∧
       (checkpointed x 1).memBlocked 0x100000 8 = true ∧ (checkpointed x 1).present 0x100000 8 = true) ∧
    (base.lostDies = [] ∧ (linkDown base).lostDies = [0] ∧ Table.get (linkDown base).lnk.dieLinks 0 = some ⟨.down, 4⟩ ∧
      ∃ d, d < 8 ∧ d ∉ [0] ∧ d ∉ (linkDown base).lostDies) ∧
    (base.sys.recovery = false ∧ (∃ d, d < 8 ∧ d ∉ [0, 1, 2, 3, 4, 5, 6] ∧ d ∉ base.lostDies) ∧ ∀ d, d < 8 → d ∈ [0, 1, 2, 3, 4, 5, 6, 7]) ∧
    (let x := { ring 0 15 .active with cfg := 0xC4 }
     let s := withQueue base 1023 x
     (s.queue 1023).cfg.getLsbD 6 = true ∧ (s.queue 1023).part = 0 ∧ (s.queue 1023).takes (s.queue 1023).ctx = true ∧
       (List.replicate 64 (0 : Byte)).length = 64 ∧ s.engineWrite (s.queue 1023).ctx (0xA000 + 64 * 15) = .ok (pageT base 0xA3C0) ∧
       inAperture ((pageT base 0xA3C0).key 0xA3C0) = false ∧ s.mem.views = [] ∧ s.mem.wf = true) ∧
    (base.queue 1023).takes (base.queue 1023).ctx = false := by
  exact ⟨by decide +kernel, by decide +kernel, by decide +kernel, ⟨by decide +kernel, by decide +kernel, by decide +kernel, 7, by decide +kernel⟩,
    ⟨by decide +kernel, ⟨7, by decide +kernel⟩, by decide +kernel⟩, by decide +kernel, by decide +kernel⟩

theorem witness_RegisterWrites : base.sch.powered = true ∧ ({ base with sch := { base.sch with powered := false } } : State).sch.powered = false ∧
    ({ hosted base with sch := { base.sch with powered := false } } : State).attached 0 = true ∧
    7 % 8 ≠ 0 ∧ (0x3FF8 < 0x4000) ∧ (0x4200 ≤ 0x5FF8 ∧ 0x5FF8 < 0x6000) ∧ (0x6300 ≤ 0xFFF8 ∧ 0xFFF8 < 0x10000) ∧
    (0x20200 ≤ 0x2FFF8 ∧ 0x2FFF8 < 0x30000) ∧ (0x81 : DWord).getLsbD 0 = true ∧ (0x80 : DWord).getLsbD 7 = true ∧
    ((hosted base).queue 1023).cfg.getLsbD 7 = false ∧ (hosted base).privileged 0 ((hosted base).queue 1023).part = true ∧
    ((withQueue base 0 (ring 0 0 .active)).queue 0).cfg.getLsbD 7 = true ∧ field 1 2 0 = 1 ∧ field 4 2 0 = 4 ∧ (base.context 0).isSome = true ∧
    (base.context 4095).isSome = false ∧ (hosted base).attached 0 = true ∧ field 7 7 0 = 7 ∧ field 12 7 0 = 12 := by decide +kernel

/-- The line at 0x1000 with other words: head, slot 0 and slot 1. -/
def lined (head w0 : Nat) : State :=
  { base with
    mem := base.mem.setBytes 0x1000 (natToBytes 4 head ++ natToBytes 12 w0)
    sch := { base.sch with issue := none, latch := [(0, 0xFFFF)] } }

/-- The line of `lined`, and the lanes of its bundle. -/
def lineAt (s : State) : BitVec 512 := okOr (s.fetchLine 0 0x1000) 0

/-- A bundle of `lined` that re-executes from a region entry. -/
def reentering (s : State) : State := s.setGroup 0 (fetchGroup.updLane 0 fun l => { l with reenter := true })

/-- `lined` in a kernel that declares three v registers. -/
def threeRegs (s : State) : State :=
  { s with ker := { s.ker with kernels := [(0, { fetchKernel with hdr := { fetchHeader with vregs := 3 } })] } }

/-- The bundle chosen first: a NOP, a pair of NOPs, an illegal word (OPC 0xFF), an IADD that names v3 where three registers are declared,
a slot without TGT and a bundle that re-executes; no comparator, or one that has stopped the bundle before. -/
theorem witness_StepRunsDecoded :
    (∀ s, s ∈ [lined 0x4020000 0, lined 0x420000 0, lined 0xC020000 (0xFF * 2 ^ 88 + 1), linkDown (lined 0x4020000 0),
        threeRegs (lined 0xC020000 0x0400770000C00400B8038000)] →
      s.sch.latch.head? = some (0, 0xFFFF) ∧ s.sch.agenda.any Due.choosing = false ∧ s.group 0 = some fetchGroup ∧
      maskLanes 0xFFFF = 0 :: (List.range 15).map (· + 1) ∧ fetchGroup.st = .resident ∧ s.halted fetchGroup 0xFFFF = false ∧
      (∀ j ∈ maskLanes 0xFFFF, (fetchGroup.lane j).st = .running ∧ (fetchGroup.lane j).pc = 0x1000 ∧ (fetchGroup.lane j).reenter = false) ∧
      s.loggedPark fetchGroup 0xFFFF = none ∧ pcOk 0x1000 = true ∧ s.pcHit 0 0x1000 = none) ∧
    ((linkDown (lined 0x4020000 0)).fetchLine 0 0x1000 = .error .machineCheck ∧ (lined 0x4020000 0).fetchLine 0 0x1000 = .ok (lineAt (lined 0x4020000 0))) ∧
    (let a := lineAt (lined 0x4020000 0)
     lineParity a = true ∧ pairsAt a 0 fetchGroup.width = false ∧ legalWord a (lineSlot a 0) fetchGroup.width = true ∧
       decodeTableWord 96 (lineSlot a 0).toNat = some .nop ∧ beyond (base.declared fetchGroup).1 (base.declared fetchGroup).2 (lineSlot a 0) = false ∧
       ∃ t, exec .nop base = .next t) ∧
    (let s := threeRegs (lined 0xC020000 0x0400770000C00400B8038000)
     let a := lineAt s
     lineParity a = true ∧ pairsAt a 0 fetchGroup.width = false ∧ legalWord a (lineSlot a 0) fetchGroup.width = true ∧
       beyond (s.declared fetchGroup).1 (s.declared fetchGroup).2 (lineSlot a 0) = true ∧ issue0.guarded fetchGroup (wordHd (lineSlot a 0)) ≠ []) ∧
    (let b := lineAt (lined 0x420000 0)
     lineParity b = true ∧ pairsAt b 0 fetchGroup.width = true ∧ lineSlot b 0 = 0 ∧ lineSlot b 1 = 0 ∧ base.pcHit 0 (succPc 0x1000) = none ∧
       base.group 0 = some fetchGroup ∧ base.stopped = false ∧ base.stopReached fetchGroup 0xFFFF 1 = false ∧
       (((base.setDbg 0 0 1).setDbg 0 0x100 (succPc 0x1000)).setDbg 0 0x108 1).pcHit 0 (succPc 0x1000) ≠ none) ∧
    (let c := lineAt (lined 0xC020000 (0xFF * 2 ^ 88 + 1))
     lineParity c = true ∧ pairsAt c 0 fetchGroup.width = false ∧ legalWord c (lineSlot c 0) fetchGroup.width = false) ∧
    (let s := reentering (lined 0 0)
     (∃ g, s.group 0 = some g ∧ (g.lane 0).reenter = true ∧ s.halted g 0xFFFF = false ∧ s.loggedPark g 0xFFFF = none) ∧
       lineParity (lineAt s) = true ∧ (lineHead (lineAt s)).getLsbD 17 = false ∧ (lineHead (lineAt (reentering (lined 0x4020000 0)))).getLsbD 17 = true) ∧
    (let s : State := (((lined 0x4020000 0).setDbg 0 0 1).setDbg 0 0x100 0x1000).setDbg 0 0x108 1
     ({ s with ckp := { s.ckp with passed := [(0, 0x1000)] } } : State).passes 0 0x1000 = true) := by
  refine ⟨by decide +kernel, ⟨error_of (by decide +kernel), ok_of (by decide +kernel)⟩, ⟨by decide +kernel, by decide +kernel, by decide +kernel, by decide +kernel,
    by decide +kernel, _, rfl⟩, by decide +kernel, by decide +kernel, by decide +kernel, ⟨⟨_, rfl, by decide +kernel⟩, by decide +kernel⟩, by decide +kernel⟩

/-- More of the hosts' and Glen's clauses: a store to a held page, an answer from loaded firmware, and an image that does not verify. -/
theorem witness_HostsAndGlen_more :
    (let s : State := { stubbed base with sum := { (stubbed base).sum with holds := [(9, ⟨0, 0x400000000, 0x2000, 0, 0, 0⟩)] } }
     Table.get ({ s with sys := (hosted base).sys } : State).sys.hosts 0 = some true ∧ (s.heldPages 0x100000 8).isEmpty = false ∧ s.memBlocked 0x100000 8 = true) ∧
    ({ base with sys := { base.sys with loaded := true } } : State).sys.loaded = true ∧
    ({ base with sys := { base.sys with loaded := false } } : State).sys.loaded = false ∧ base.imageVerifies = true ∧
    ({ base with sys := { base.sys with image := [0] } } : State).imageVerifies = false ∧
    ({ base with sys := { base.sys with recovery := true } } : State).sys.recovery = true := by
  refine ⟨by decide +kernel, rfl, rfl, by decide +kernel, ?_, rfl⟩
  have h : imageSigned [0] = false := by
    unfold imageSigned signatureHolds
    cases keyPoint Config.fusedKey <;> simp
  have key (s : State) (e : s.activeImage = [0]) : s.imageVerifies = false := by rw [State.imageVerifies, e, h]; rfl
  exact key _ (by decide +kernel)

/-- A partition with an empty flash range and a leftover base shuts no range out (R426). -/
theorem test_flash_empty : (match exec (.flashRangeWrite 0 0 true 0x20000)
      { hosted base with sys := { (hosted base).sys with flash := [(1, (0x10000, 0))] } } with
    | .next t => t.flashRange 0
    | _ => (1, 1)) = (0, 0x20000) := by decide +kernel

/-- The head of the agenda: no bundle is latched, or a quadrant has still to choose; a row of no link, and one of host 0 that nothing of its
link, or a write held, stands before. -/
theorem witness_StepRunsDecoded_agenda :
    (let s : State := { base with sch := { base.sch with issue := none, agenda := [.row .powerLoss] } }
     s.sch.latch = [] ∧ nextDue s.sch.agenda = some (.row .powerLoss, []) ∧ Due.link (.row .powerLoss) = none ∧ Due.command (.row .powerLoss) = none) ∧
    (let s : State := { base with sch := { base.sch with issue := none, latch := [(0, 0xFFFF)], agenda := [.row .powerLoss, .row (.quadrantIssue 0 0 false)] } }
     s.sch.agenda.any Due.choosing = true) ∧
    (let s : State := { base with sch := { base.sch with issue := none, agenda := [.row (.create 0 0)], held := [.row (.spawnWrite 1 0 0 [])] } }
     nextDue s.sch.agenda = some (.row (.create 0 0), []) ∧ Due.link (.row (.create 0 0)) = some 0 ∧ ∀ d ∈ s.sch.held, Due.link d ≠ some 0) ∧
    (let s : State := { base with sch := { base.sch with issue := none, agenda := [.row (.create 0 0)], held := [.row (.spawnWrite 0 0 0 [])] } }
     ∃ d ∈ s.sch.held, Due.link d = some 0) := by
  refine ⟨⟨rfl, rfl, rfl, rfl⟩, rfl, ⟨rfl, rfl, by decide⟩, ⟨_, .head _, rfl⟩⟩

/-- The word of IADD, and one of OPC 0xF0; memory with one byte; a step that goes on. -/
theorem witness_OneWordEach : (match decode 0x0400770000C00400B8038000 with | .ok _ => true | .error _ => false) = true ∧
    0xF0 ≤ wordOpc 0xF00000000000000000000000 ∧ wordOpc 0 = 0 := by decide +kernel

theorem witness_EncodeRoundTrip : (Instr.iadd noGuard .i32 false (.v 3) (.v 1) (.v 2)).wf = true ∧
    encode (.iadd noGuard .i32 false (.v 3) (.v 1) (.v 2)) = some 0x0400770000C00400B8038000 := by decide +kernel

theorem witness_MemoryFormKept : (lined 0x4020000 0).mem.wf = true ∧
    (match step (lined 0x4020000 0) with | .next _ => true | _ => false) = true := by decide +kernel


/-! ### Single steps with the results the manual gives -/

/-- `base` whose 16 lanes hold the given v registers. -/
def withV (v : Sparse 32) : State := grp fun g => g.updLanes 0xFFFF fun l => { l with v := v }

/-- What a step leaves in lane 0. -/
def lane0After {α : Type} (i : Instr) (s : State) (f : Lane → α) : Option α :=
  match exec i s with
  | .next t => (t.group 0).map fun g => f (g.lane 0)
  | _ => none

/-- The results that a step leaves under way: lane and value, and the exception bits. -/
def lateAfter (i : Instr) (s : State) : Option (List (Nat × Nat) × List Nat) :=
  match exec i s with
  | .next t => t.run.pend.head?.map fun p => (p.2.regs.map fun r => (r.1, r.2.2.2.toNat), p.2.exc.map fun e => e.2.toNat)
  | _ => none

/-- R103: a sum out of range wraps. -/
theorem test_iadd_wraps : lane0After (.iadd noGuard .i32 false (.v 3) (.v 1) (.v 2)) (withV [(1, 0x7FFFFFFF), (2, 1)])
    (fun l => (l.read32 0 3).toNat) = some 0x80000000 := by decide +kernel

/-- R102: `.sat` clamps it. -/
theorem test_iadd_saturates : lane0After (.iadd noGuard .i32 true (.v 3) (.v 1) (.v 2)) (withV [(1, 0x7FFFFFFF), (2, 1)])
    (fun l => (l.read32 0 3).toNat) = some 0x7FFFFFFF := by decide +kernel

/-- The worked example of 06_arithmetic.md: 3 × 0x3EAA_AAAB − 1 is 2^−25, exactly. -/
theorem test_ffma_fused : lane0After (.ffma noGuard .rtz (.v 4) (.v 1) (.v 2) (.v 3)) (withV [(1, 0x40400000), (2, 0x3EAAAAAB), (3, 0xBF800000)])
    (fun l => ((l.read32 0 4).toNat, l.fpst.toNat)) = some (0x33000000, 0) := by decide +kernel

/-- Its contrast: the product alone, rounded towards zero, is 1.0 and inexact. -/
theorem test_fmul_rounds : lane0After (.fmul noGuard .rtz (.v 4) (.v 1) (.v 2)) (withV [(1, 0x40400000), (2, 0x3EAAAAAB)])
    (fun l => ((l.read32 0 4).toNat, l.fpst.toNat)) = some (0x3F800000, 16) := by decide +kernel

/-- R33: 1 + 2^−8 lies half way between two BF16 values; ties go to the even one. -/
theorem test_cvt_tie_even : lane0After (.cvt noGuard .bf16 .f32 .rne false false (.v 3) (.v 1) .absent) (withV [(1, 0x3F808000)])
    (fun l => ((l.read32 0 3).toNat, l.fpst.toNat)) = some (0x3F80, 16) := by decide +kernel

/-- R33: RNA takes the one away from zero. -/
theorem test_cvt_tie_away : lane0After (.cvt noGuard .bf16 .f32 .rna false false (.v 3) (.v 1) .absent) (withV [(1, 0x3F808000)])
    (fun l => (l.read32 0 3).toNat) = some 0x3F81 := by decide +kernel

/-- R34: a lane whose S is 1 draws 0x0004_2021 first. -/
theorem test_first_draw : srNext 1 = 0x00042021 := by decide +kernel

/-- R136: CVTL.scale of 3.0. -/
theorem test_cvtl_scale : (lateAfter (.cvtlScale noGuard (.v 3) (.v 1)) (withV [(1, 0x40400000)])).map (fun r => r.1.head?) =
    some (some (0, 0x003E6454)) := by decide +kernel

/-- R154: sixteen 1.0 with 2^24 in lane 3 add up, in the order of the tree, to 0x4B80_0007, inexactly. -/
theorem test_gred_order : (lateAfter (.gred noGuard .add .f32 0 (.v 3) (.v 1))
    (grp fun g => (g.updLanes 0xFFFF fun l => { l with v := [(1, 0x3F800000)] }).updLane 3 fun l => { l with v := [(1, 0x4B800000)] })).map
      (fun r => (r.1.head?, r.2.head?)) = some (some (0, 0x4B800007), some 16) := by decide +kernel

/-- R44: one block of MMA.lns6 at work gives 0xBCC1_C000. -/
theorem test_block_product :
    (blockDot false ⟨0x14 :: 0x29 :: List.replicate 30 0, Sc.decode 0x3F0000⟩ ⟨0x04 :: 0x10 :: List.replicate 30 0, Sc.decode 0x3F8000⟩).1 =
      0xBCC1C000 := by decide +kernel

/-- R45: a block of 3.0 and −0.25 takes the scale 0x3E_6454 and the elements 0x1F and 0x31. -/
theorem test_quantisation : let b := (quantBlock ((Fmt.decode .f32 0x40400000) :: (Fmt.decode .f32 0xBE800000) :: List.replicate 30 (Fmt.decode .f32 0))).1
    (b.els.take 2, b.sc.code) = ([0x1F, 0x31], 0x3E6454) := by decide +kernel

/-- R40: the bytes of the example block. -/
theorem test_block_bytes : natToBytes 32 (Block.bits ⟨0x14 :: 0x29 :: List.replicate 30 0, Sc.decode 0x3F0000⟩) =
    0x54 :: 0x0A :: (List.replicate 22 0 ++ [0, 0, 0x3F, 0, 0, 0, 0, 0]) := by decide +kernel

/-- The 12 bytes of the IADD slot in 05_lane.md, first to last. -/
theorem test_slot_bytes : (encode (.iadd noGuard .i32 false (.v 3) (.v 1) (.v 2))).map (fun w => natToBytes 12 w.toNat) =
    some [0x00, 0x80, 0x03, 0xB8, 0x00, 0x04, 0xC0, 0x00, 0x00, 0x77, 0x00, 0x04] := by decide +kernel

/-- The example of 16_queue.md: a ring of 16 with RDIDX 3 and 20 written to WRIDX is overrun by 17 records. -/
theorem test_queue_overrun : (match exec (.wridxWrite 0 20) (withQueue base 0 ⟨0x84, 0xA000, 4, 3, 0, 0, .active, .disabled, false, 0, none, none, none⟩) with
    | .next t => ((t.queue 0).st, (t.queue 0).dropped.toNat, (t.queue 0).rd.toNat)
    | _ => (.disabled, 0, 0)) = (.overrun, 17, 20) := by decide +kernel

/-- One more record taken first, and the same write leaves 16 pending. -/
theorem test_queue_full : (match exec (.wridxWrite 0 20) (withQueue base 0 ⟨0x84, 0xA000, 4, 4, 0, 0, .active, .disabled, false, 0, none, none, none⟩) with
    | .next t => ((t.queue 0).st, (t.queue 0).dropped.toNat)
    | _ => (.disabled, 0)) = (.active, 0) := by decide +kernel

/-- R133, R135: a zero is its own integer value in every rounding mode, and exact. -/
theorem test_frnd_zero : lane0After (.frnd noGuard .rup true (.v 3) (.v 1)) (withV [(1, 0)])
    (fun l => ((l.read32 0 3).toNat, l.fpst.toNat)) = some (0, 0) := by decide +kernel

theorem test_cvt_zero : lane0After (.cvt noGuard .i32 .f32 .rdn false false (.v 3) (.v 1) .absent) (withV [(1, 0x80000000)])
    (fun l => ((l.read32 0 3).toNat, l.fpst.toNat)) = some (0, 0) := by decide +kernel

/-- R423: of two commands of one nanosecond that of the lower link is taken first. -/
theorem test_command_order : nextDue [.row (.nonce 2 0), .row .powerLoss, .row (.nonce 1 0)] =
    some (.row (.nonce 1 0), [.row (.nonce 2 0), .row .powerLoss]) := by decide +kernel

end Sys2Proof.Tests
end

section
/-! Division (R29, R108): which exact integers Fit keeps, what IDIV writes from the model's quotient and remainder, and the
statement about IDIV. -/

namespace Sys2Proof.Machine

/-! ### What Fit keeps (R27, R28, R102) -/

/-- The range of a type is 2^w wide: half of it lies below 2^(w-1). -/
theorem ITy.two_pow_width (t : ITy) : (2 : Int) ^ ITy.width t = 2 * 2 ^ (ITy.width t - 1) := by
  cases t <;> rfl

theorem ITy.wrap_congr {t : ITy} {x y : Int} (h : x % 2 ^ ITy.width t = y % 2 ^ ITy.width t) :
    ITy.wrap t x = ITy.wrap t y := by
  unfold ITy.wrap; rw [h]

theorem ITy.fit_congr {t : ITy} {x y : Int} (h : x % 2 ^ ITy.width t = y % 2 ^ ITy.width t) :
    ITy.fit t false x = ITy.fit t false y :=
  congrArg (BitVec.ofInt 64) (ITy.wrap_congr h)

/-- A value of the type is its own representative modulo 2^w. -/
theorem ITy.wrap_of_mem_range {t : ITy} {x : Int} (hmin : ITy.min t ≤ x) (hmax : x ≤ ITy.max t) : ITy.wrap t x = x := by
  have hw := ITy.two_pow_width t
  unfold ITy.wrap
  cases hs : t.isSigned with
  | false =>
    simp only [ITy.min, ITy.max, hs, Bool.false_eq_true, if_false] at hmin hmax
    simpa using Int.emod_eq_of_lt hmin (by omega)
  | true =>
    simp only [ITy.min, ITy.max, hs, if_true] at hmin hmax
    by_cases hx : 0 ≤ x
    · have hmod : x % 2 ^ ITy.width t = x := Int.emod_eq_of_lt hx (by omega)
      have hlow : ¬ 2 ^ (ITy.width t - 1) ≤ x := by omega
      simp [hmod, hlow]
    · have hmod : x % 2 ^ ITy.width t = x + 2 ^ ITy.width t := by
        rw [← Int.add_emod_right]; exact Int.emod_eq_of_lt (by omega) (by omega)
      have hhigh : 2 ^ (ITy.width t - 1) ≤ x + 2 ^ ITy.width t := by omega
      simp [hmod, hhigh]

theorem ITy.fit_of_mem_range {t : ITy} {x : Int} (hmin : ITy.min t ≤ x) (hmax : x ≤ ITy.max t) :
    ITy.fit t false x = BitVec.ofInt 64 x :=
  congrArg (BitVec.ofInt 64) (ITy.wrap_of_mem_range hmin hmax)

theorem ITy.min_nonpos (t : ITy) : ITy.min t ≤ 0 := by cases t <;> decide

theorem ITy.max_nonneg (t : ITy) : 0 ≤ ITy.max t := by cases t <;> decide

theorem ITy.min_le_neg_one {t : ITy} (h : t.isSigned = true) : ITy.min t ≤ -1 := by
  have : (0 : Int) < 2 ^ (ITy.width t - 1) := Int.pow_pos (by decide)
  simp only [ITy.min, h, if_true]; omega

/-- Negating the least value of a signed type gives the same value modulo 2^w. -/
theorem ITy.neg_min_congr {t : ITy} (h : t.isSigned = true) :
    -ITy.min t % 2 ^ ITy.width t = ITy.min t % 2 ^ ITy.width t := by
  have hsum : -ITy.min t = ITy.min t + 2 ^ ITy.width t := by
    have hw := ITy.two_pow_width t
    simp only [ITy.min, h, if_true]; omega
  rw [hsum, Int.add_emod_right]

/-- The greatest value of an unsigned type is -1 modulo 2^w: all ones. -/
theorem ITy.fit_max_of_unsigned {t : ITy} (h : t.isSigned = false) : ITy.fit t false (ITy.max t) = ITy.fit t false (-1) := by
  have hsum : ITy.max t = -1 + 2 ^ ITy.width t := by
    simp only [ITy.max, h, Bool.false_eq_true, if_false]; omega
  exact ITy.fit_congr (by rw [hsum, Int.add_emod_right])

@[simp] theorem ITy.fit_zero (t : ITy) : ITy.fit t false 0 = 0 := ITy.fit_of_mem_range (ITy.min_nonpos t) (ITy.max_nonneg t)

theorem ITy.fit_neg_one_of_signed {t : ITy} (h : t.isSigned = true) : ITy.fit t false (-1) = -1 :=
  ITy.fit_of_mem_range (ITy.min_le_neg_one h) (by have := ITy.max_nonneg t; omega)

/-! ### IDIV (R29, R108) -/

/-- The quotient that IDIV writes. -/
theorem ITy.fit_quotient (t : ITy) (x y : Int) : ITy.fit t false (divRem t x y).1 =
    if y = 0 then (if t.isSigned then -1 else ITy.fit t false (-1)) else ITy.fit t false (x.tdiv y) := by
  unfold divRem
  by_cases hy : y = 0
  · cases hs : t.isSigned with
    | true => simp [hy, ITy.fit_neg_one_of_signed hs]
    | false => simp [hy, ITy.fit_max_of_unsigned hs]
  · simp [hy]

/-- The remainder that IDIV writes. -/
theorem ITy.fit_remainder (t : ITy) (x y : Int) : ITy.fit t false (divRem t x y).2 =
    if y = 0 then 0 else ITy.fit t false (x.tmod y) := by
  unfold divRem
  by_cases hy : y = 0 <;> simp [hy]

/-- IDIV is of the shared shape of lane instructions. -/
theorem exec_idiv (h : Hd) (t : ITy) (d a b e : Opnd) (s : State) : exec (.idiv h t d a b e) s = .next (s.lanes h fun g _ l =>
    { fault := if srcInt g l t b = 0 ∧ l.fpen.getLsbD 8 then some (.intDivide, 0) else none
      regs := [dstInt d t false (divRem t (srcInt g l t a) (srcInt g l t b)).1,
        dstInt e t false (divRem t (srcInt g l t a) (srcInt g l t b)).2] }) := rfl

/-- The least value by -1: the quotient wraps to the least value, and nothing remains. -/
theorem ITy.min_div_neg_one {t : ITy} (h : t.isSigned = true) :
    ITy.fit t false ((ITy.min t).tdiv (-1)) = BitVec.ofInt 64 (ITy.min t) ∧ (ITy.min t).tmod (-1) = 0 := by
  refine ⟨?_, by simp⟩
  calc ITy.fit t false ((ITy.min t).tdiv (-1))
      = ITy.fit t false (-ITy.min t) := by simp
    _ = ITy.fit t false (ITy.min t) := ITy.fit_congr (ITy.neg_min_congr h)
    _ = BitVec.ofInt 64 (ITy.min t) :=
      ITy.fit_of_mem_range (Int.le_refl _) (Int.le_trans (ITy.min_nonpos t) (ITy.max_nonneg t))

/-- Settles O5: IDIV runs in the shared shape of lane instructions, with the quotient and the remainder of `divRem` fitted to the
type. -/
theorem division : Obligations.Division := by
  unfold Obligations.Division
  refine ⟨fun h t d a b e => ?_, fun h t d a b e => ?_, fun t => ITy.min_div_neg_one⟩
  · refine Completes.of_lanes fun s _ _ _ => ?_
    simp only [exec_idiv, dstInt, ITy.fit_quotient, ITy.fit_remainder]
  · exact TrapsOn.of_lanes (fun s _ _ _ => exec_idiv h t d a b e s) fun _ _ _ _ _ => ⟨rfl, rfl⟩

end Sys2Proof.Machine
end

section
/-! Fit (R27, R28, R102) and the extension of its result to the 64 bits of an s register (R100): a fitted value is the extension of
its own low w bits, whether it wrapped or clamped. -/

namespace Sys2Proof.Machine

/-! ### The extension of a result to 64 bits (R100) -/

/-- A result of width w as it fills 64 bits: by sign under .i types, with zeros under the others. -/
def ITy.extend (t : ITy) (y : BitVec (ITy.width t)) : DWord := if t.isSigned then y.signExtend 64 else y.setWidth 64

theorem ITy.extend_of_signed {t : ITy} (h : t.isSigned = true) (y : BitVec (ITy.width t)) : ITy.extend t y = y.signExtend 64 := by
  simp [ITy.extend, h]

theorem ITy.extend_of_unsigned {t : ITy} (h : t.isSigned = false) (y : BitVec (ITy.width t)) :
    ITy.extend t y = y.setWidth 64 := by
  simp [ITy.extend, h]

theorem ITy.width_le (t : ITy) : ITy.width t ≤ 64 := by cases t <;> decide

/-- Extension leaves the low w bits as they are. -/
@[simp] theorem ITy.setWidth_extend (t : ITy) (y : BitVec (ITy.width t)) : (ITy.extend t y).setWidth (ITy.width t) = y := by
  have hw := ITy.width_le t
  cases hs : t.isSigned with
  | false => rw [ITy.extend_of_unsigned hs, BitVec.setWidth_setWidth_of_le _ hw, BitVec.setWidth_eq]
  | true =>
    rw [ITy.extend_of_signed hs]
    ext i hi
    rw [BitVec.getElem_setWidth, BitVec.getLsbD_signExtend]
    simp [hi, show i < 64 by omega]

/-! ### Wrapping (R27) -/

/-- The wrapped value of a signed type is its w bits read in two's complement. -/
theorem ITy.wrap_of_signed {t : ITy} (h : t.isSigned = true) (x : Int) :
    ITy.wrap t x = (BitVec.ofInt (ITy.width t) x).toInt := by
  have hw := ITy.two_pow_width t
  have hhalf : (((2 ^ ITy.width t : Nat) : Int) + 1) / 2 = 2 ^ (ITy.width t - 1) := by
    rw [show ((2 ^ ITy.width t : Nat) : Int) = 2 ^ ITy.width t from Int.natCast_pow 2 _]; omega
  rw [BitVec.toInt_ofInt, Int.bmod_eq_emod, hhalf, ITy.wrap, Int.natCast_pow]
  by_cases hx : 2 ^ (ITy.width t - 1) ≤ x % 2 ^ ITy.width t <;> simp [h, hx]

/-- The wrapped value of an unsigned type is its w bits read as a natural number. -/
theorem ITy.wrap_of_unsigned {t : ITy} (h : t.isSigned = false) (x : Int) :
    ITy.wrap t x = ((BitVec.ofInt (ITy.width t) x).toNat : Int) := by
  have hpow : (0 : Int) < 2 ^ ITy.width t := Int.pow_pos (by decide)
  have hnonneg : 0 ≤ x % 2 ^ ITy.width t := Int.emod_nonneg x (Int.ne_of_gt hpow)
  have hcast : ((2 ^ ITy.width t : Nat) : Int) = 2 ^ ITy.width t := Int.natCast_pow 2 _
  rw [BitVec.toNat_ofInt, hcast, Int.toNat_of_nonneg hnonneg]
  simp only [ITy.wrap, h, Bool.false_and, Bool.false_eq_true, if_false]

/-- Without .sat a result is the extension of x modulo 2^w. -/
theorem ITy.fit_false_eq_extend (t : ITy) (x : Int) : ITy.fit t false x = ITy.extend t (BitVec.ofInt (ITy.width t) x) := by
  simp only [ITy.fit, Bool.false_eq_true, if_false]
  cases hs : t.isSigned with
  | false =>
    rw [ITy.extend_of_unsigned hs, ITy.wrap_of_unsigned hs, BitVec.ofInt_natCast, BitVec.ofNat_toNat]
  | true => rw [ITy.extend_of_signed hs, ITy.wrap_of_signed hs, BitVec.signExtend]

/-! ### Clamping (R28) -/

theorem ITy.min_le_max (t : ITy) : ITy.min t ≤ ITy.max t := Int.le_trans (ITy.min_nonpos t) (ITy.max_nonneg t)

theorem ITy.sat_of_lt_min {t : ITy} {x : Int} (h : x < ITy.min t) : ITy.sat t x = ITy.min t := by
  simp [ITy.sat, h]

theorem ITy.sat_of_max_lt {t : ITy} {x : Int} (h : ITy.max t < x) : ITy.sat t x = ITy.max t := by
  have := ITy.min_le_max t
  simp [ITy.sat, h, show ¬ x < ITy.min t by omega]

theorem ITy.sat_of_mem_range {t : ITy} {x : Int} (hmin : ITy.min t ≤ x) (hmax : x ≤ ITy.max t) : ITy.sat t x = x := by
  simp [ITy.sat, Int.not_lt.2 hmin, Int.not_lt.2 hmax]

theorem ITy.sat_mem_range (t : ITy) (x : Int) : ITy.min t ≤ ITy.sat t x ∧ ITy.sat t x ≤ ITy.max t := by
  have := ITy.min_le_max t
  unfold ITy.sat
  split
  · omega
  · split <;> omega

/-- A clamped result is that of the clamped value, which wrapping leaves as it is. -/
theorem ITy.fit_true_eq_fit_sat (t : ITy) (x : Int) : ITy.fit t true x = ITy.fit t false (ITy.sat t x) := by
  obtain ⟨hmin, hmax⟩ := ITy.sat_mem_range t x
  rw [ITy.fit_of_mem_range hmin hmax]; rfl

/-- What an s register holds of a result: the extension of the result's low w bits, with .sat or without. -/
theorem ITy.fit_eq_extend_setWidth (t : ITy) (sat : Bool) (x : Int) :
    ITy.fit t sat x = ITy.extend t ((ITy.fit t sat x).setWidth (ITy.width t)) := by
  cases sat with
  | false => rw [ITy.fit_false_eq_extend, ITy.setWidth_extend]
  | true => rw [ITy.fit_true_eq_fit_sat, ITy.fit_false_eq_extend, ITy.setWidth_extend]

/-! ### s registers -/

/-- An s register as an operand supplies all of its bits, whatever the width. -/
@[simp] theorem readOp_s (g : Group) (l : Lane) (w64 : Bool) (n : BitVec 6) : readOp g l w64 (.s n) = Sparse.get g.s n.toNat := rfl

/-- One lane's write of an s register. -/
@[simp] theorem sAfter_write_s (m : Sparse 64) (k : Nat) (n : BitVec 6) (w64 : Bool) (y : DWord) :
    sAfter m [(k, { regs := [(.s n, w64, y)] })] = Sparse.set m n.toNat y := rfl

/-- Settles O2: a result without .sat is the extension of x modulo 2^w, a clamped one is the result of the clamped value, and either
is the extension of its own low bits, which is what the s register then holds. -/
theorem fitWrapsAndClamps : Obligations.FitWrapsAndClamps := by
  unfold Obligations.FitWrapsAndClamps
  refine ⟨fun t x => ⟨?wraps, fun hs => ?signed, fun hs => ?unsigned, fun hx => ?below, fun hx => ?above, fun hmin hmax => ?within⟩,
    fun g l t n => by rw [readOp_s], fun m k t sat x n hm => ?written⟩
  case wraps => rw [ITy.fit_false_eq_extend, ITy.setWidth_extend]
  case signed => rw [ITy.fit_false_eq_extend, ITy.extend_of_signed hs]
  case unsigned => rw [ITy.fit_false_eq_extend, ITy.extend_of_unsigned hs]
  case below =>
    rw [ITy.fit_true_eq_fit_sat, ITy.sat_of_lt_min hx, ITy.fit_of_mem_range (Int.le_refl _) (ITy.min_le_max t)]
  case above =>
    rw [ITy.fit_true_eq_fit_sat, ITy.sat_of_max_lt hx, ITy.fit_of_mem_range (ITy.min_le_max t) (Int.le_refl _)]
  case within => rw [ITy.fit_true_eq_fit_sat, ITy.sat_of_mem_range hmin hmax]
  case written =>
    intro y
    calc Sparse.get (sAfter m [(k, { regs := [(.s n, t.is64, ITy.fit t sat x)] })]) n.toNat
        = ITy.fit t sat x := by rw [sAfter_write_s, Sparse.get_set _ _ _ hm, if_pos rfl]
      _ = ITy.extend t y := ITy.fit_eq_extend_setWidth t sat x

end Sys2Proof.Machine
end

section
/-! Bit operations on floating-point operands (R130, R132): every pattern that a format writes fits the format, so an element's bits
are a word of its width; FABS and FNEG mask that word, and FCLASS reads its fields. -/

namespace Sys2Proof.Machine

/-! ### A rounded value fits its format (R33) -/

theorem lt_two_pow_bitLen (m : Nat) : m < 2 ^ bitLen m := by
  unfold bitLen
  split
  case isTrue hm => simp [hm]
  case isFalse => exact Nat.lt_log2_self

/-- Rounding to an integer goes up by at most one. -/
theorem roundInt_le (rm : Rm) (r : Nat) (neg : Bool) (m d : Nat) : (roundInt rm r neg m d).1 ≤ m / 2 ^ d + 1 := by
  unfold roundInt
  extract_lets q rem up
  by_cases hrem : rem = 0
  · simp [hrem, q]
  · rw [if_neg hrem]
    cases up <;> simp [q]

/-- A unit that leaves n bits of a value rounds it to at most 2^n: to n bits, or to the carry out of them. -/
theorem roundUnit_le (rm : Rm) (r : Nat) (neg : Bool) {m n : Nat} {e u : Int} (h : (bitLen m : Int) + e - n ≤ u) :
    (roundUnit rm r neg m e u).1 ≤ 2 ^ n := by
  have hm := lt_two_pow_bitLen m
  have hpos : 0 < 2 ^ n := Nat.two_pow_pos n
  unfold roundUnit
  dsimp only
  split
  · exact Nat.zero_le _
  · split
    · have hbits : bitLen m + (e - u).toNat ≤ n := by omega
      calc m * 2 ^ (e - u).toNat ≤ 2 ^ bitLen m * 2 ^ (e - u).toNat := Nat.mul_le_mul_right _ (Nat.le_of_lt hm)
        _ = 2 ^ (bitLen m + (e - u).toNat) := (Nat.pow_add 2 _ _).symm
        _ ≤ 2 ^ n := Nat.pow_le_pow_right (by decide) hbits
    · split
      · exact Nat.le_trans (roundInt_le rm r neg 1 64) hpos
      · have hquot : m / 2 ^ (u - e).toNat < 2 ^ n := by
          rw [Nat.div_lt_iff_lt_mul (Nat.two_pow_pos _), ← Nat.pow_add]
          exact Nat.lt_of_lt_of_le hm (Nat.pow_le_pow_right (by decide) (by omega))
        exact Nat.le_trans (roundInt_le rm r neg m _) hquot

/-- A sign and a magnitude below the sign bit fit the format. -/
theorem Fmt.signBit_add_lt (f : Fmt) (neg : Bool) {x : Nat} (h : x < 2 ^ (f.eb + f.fb)) :
    f.signBit neg + x < 2 ^ (f.eb + f.fb + 1) := by
  have hpow : 2 ^ (f.eb + f.fb + 1) = 2 * 2 ^ (f.eb + f.fb) := Nat.pow_succ'
  unfold Fmt.signBit
  split <;> omega

/-- An exponent field and a fraction field make a magnitude below the sign bit. -/
theorem Fmt.exponent_mul_add_lt (f : Fmt) {ex fr : Nat} (hex : ex < 2 ^ f.eb) (hfr : fr < 2 ^ f.fb) :
    ex * 2 ^ f.fb + fr < 2 ^ (f.eb + f.fb) :=
  calc ex * 2 ^ f.fb + fr < (ex + 1) * 2 ^ f.fb := by rw [Nat.add_mul, Nat.one_mul]; omega
    _ ≤ 2 ^ f.eb * 2 ^ f.fb := Nat.mul_le_mul_right _ hex
    _ = 2 ^ (f.eb + f.fb) := (Nat.pow_add 2 _ _).symm

theorem Fmt.infBits_lt (f : Fmt) (neg : Bool) : f.infBits neg < 2 ^ (f.eb + f.fb + 1) :=
  f.signBit_add_lt neg (f.exponent_mul_add_lt (Nat.sub_lt (Nat.two_pow_pos _) Nat.one_pos) (Nat.two_pow_pos _))

theorem Fmt.maxBits_lt (f : Fmt) (neg : Bool) : f.maxBits neg < 2 ^ (f.eb + f.fb + 1) :=
  Nat.lt_of_le_of_lt (Nat.sub_le _ 1) (f.infBits_lt neg)

theorem Fmt.overflow_lt (f : Fmt) (rm : Rm) (neg : Bool) : f.overflow rm neg < 2 ^ (f.eb + f.fb + 1) := by
  have hinf := f.infBits_lt neg
  have hmax := f.maxBits_lt neg
  cases rm with
  | rne | rna | sr => exact hinf
  | rtz => exact hmax
  | rdn | rup => simp only [Fmt.overflow]; split <;> assumption

theorem Fmt.nanBits_lt (f : Fmt) : f.nanBits < 2 ^ (f.eb + f.fb + 1) := by
  have hquiet : 2 ^ (f.fb - 1) ≤ 2 ^ f.fb := Nat.pow_le_pow_right (by decide) (Nat.sub_le _ 1)
  have htop : (2 ^ f.eb - 1) * 2 ^ f.fb + 2 ^ f.fb = 2 ^ (f.eb + f.fb) := by
    rw [← Nat.succ_mul, Nat.succ_eq_add_one, Nat.sub_add_cancel (Nat.two_pow_pos _), Nat.pow_add]
  have hpow : 2 ^ (f.eb + f.fb) < 2 ^ (f.eb + f.fb + 1) := Nat.pow_lt_pow_succ (by decide)
  unfold Fmt.nanBits
  omega

theorem Fmt.round_lt (f : Fmt) (rm : Rm) (r : Nat) (neg : Bool) (m : Nat) (e : Int) :
    (f.round rm r neg m e).1 < 2 ^ (f.eb + f.fb + 1) := by
  have hpow : 2 ^ (f.fb + 1) = 2 * 2 ^ f.fb := Nat.pow_succ'
  unfold Fmt.round
  extract_lets p free u q t tiny carry mant ex
  have hq : q.1 ≤ 2 ^ (f.fb + 1) := roundUnit_le rm r neg (by simp only [u, free, p]; split <;> omega)
  have hmant : mant < 2 ^ (f.fb + 1) := by
    have hfrac : 0 < 2 ^ f.fb := Nat.two_pow_pos _
    simp only [mant, carry]; split <;> omega
  clear_value mant ex
  split
  case isTrue hsub =>
    exact f.signBit_add_lt neg (Nat.lt_of_lt_of_le hsub (Nat.pow_le_pow_right (by decide) (Nat.le_add_left _ _)))
  case isFalse hnormal =>
    split
    case isTrue => exact f.overflow_lt rm neg
    case isFalse hex =>
      have hexp : ex.toNat < 2 ^ f.eb := by
        have hcast : ((2 ^ f.eb : Nat) : Int) = 2 ^ f.eb := Int.natCast_pow 2 _
        have hpos : 0 < 2 ^ f.eb := Nat.two_pow_pos _
        omega
      rw [Nat.add_assoc]
      exact f.signBit_add_lt neg (f.exponent_mul_add_lt hexp (by omega))

/-- Every bit pattern that a format writes has the format's width. -/
theorem Fmt.encode_lt (f : Fmt) (rm : Rm) (r : Nat) (v : Num) : (f.encode rm r v).1 < 2 ^ (f.eb + f.fb + 1) := by
  cases v with
  | nan s => exact f.nanBits_lt
  | inf neg => exact f.infBits_lt neg
  | fin neg m e =>
    simp only [Fmt.encode]
    split
    · exact f.signBit_add_lt neg (Nat.two_pow_pos _)
    · exact f.round_lt rm r neg m e

/-! ### Elements as words (R30, R61) -/

/-- The formats of the types are 32 bits wide for .f32 and 16 bits for the packed ones. -/
theorem width_fmtOf (t : FTy) : (fmtOf t).eb + (fmtOf t).fb + 1 = if t = .f32 then 32 else 16 := by
  cases t <;> rfl

/-- An element has the width of its type's format. -/
theorem elemBits_lt (g : Group) (l : Lane) (t : FTy) (e : Nat) (x : Opnd) :
    elemBits g l (fmtOf t) e x < 2 ^ ((fmtOf t).eb + (fmtOf t).fb + 1) := by
  unfold elemBits
  split
  · exact (fmtOf t).encode_lt _ _ _
  · cases t <;> simp [fmtOf, Fmt.f32, Fmt.f16, Fmt.bf16] <;> omega

theorem elemBits_f32_lt (g : Group) (l : Lane) (x : Opnd) : elemBits g l .f32 0 x < 2 ^ 32 := elemBits_lt g l .f32 0 x

theorem ofNat_rawBits_f32 (g : Group) (l : Lane) (x : Opnd) :
    BitVec.ofNat 64 (rawBits g l .f32 x) = (BitVec.ofNat 32 (elemBits g l .f32 0 x)).setWidth 64 := by
  have h := elemBits_f32_lt g l x
  apply BitVec.eq_of_toNat_eq
  simp only [rawBits, BitVec.toNat_ofNat, BitVec.toNat_setWidth]
  omega

/-- The first element of a pair stands in the low half. -/
theorem rawBits_packed (g : Group) (l : Lane) : ∀ {t : FTy}, t ≠ .f32 → ∀ x : Opnd,
    rawBits g l t x = elemBits g l (fmtOf t) 0 x + 2 ^ 16 * elemBits g l (fmtOf t) 1 x
  | .f16x2, _, _ => rfl
  | .bf16x2, _, _ => rfl

theorem ofNat_rawBits_packed (g : Group) (l : Lane) {t : FTy} (ht : t ≠ .f32) (x : Opnd) :
    BitVec.ofNat 64 (rawBits g l t x) =
      (BitVec.ofNat 16 (elemBits g l (fmtOf t) 1 x) ++ BitVec.ofNat 16 (elemBits g l (fmtOf t) 0 x)).setWidth 64 := by
  have h (e : Nat) : elemBits g l (fmtOf t) e x < 2 ^ 16 := by simpa [width_fmtOf, ht] using elemBits_lt g l t e x
  apply BitVec.eq_of_toNat_eq
  rw [rawBits_packed g l ht, BitVec.toNat_setWidth, BitVec.toNat_append, ← Nat.shiftLeft_add_eq_or_of_lt (BitVec.isLt _), Nat.shiftLeft_eq,
    BitVec.toNat_ofNat, BitVec.toNat_ofNat, BitVec.toNat_ofNat, Nat.mod_eq_of_lt (h 0), Nat.mod_eq_of_lt (h 1), Nat.add_comm,
    Nat.mul_comm]

/-! ### FABS and FNEG (R130) -/

theorem exec_fabs (h : Hd) (t : FTy) (d a : Opnd) (s : State) : exec (.fabs h t d a) s = .next (s.lanes h fun g _ l =>
    { regs := [(d, false, BitVec.ofNat 64 (rawBits g l t a &&& (0xFFFFFFFF - signMask t)))] }) := rfl

theorem exec_fneg (h : Hd) (t : FTy) (d a : Opnd) (s : State) : exec (.fneg h t d a) s = .next (s.lanes h fun g _ l =>
    { regs := [(d, false, BitVec.ofNat 64 (rawBits g l t a ^^^ signMask t))] }) := rfl

theorem signMask_packed : ∀ {t : FTy}, t ≠ .f32 → signMask t = 0x80008000
  | .f16x2, _ => rfl
  | .bf16x2, _ => rfl

theorem abs_rawBits_f32 (g : Group) (l : Lane) (x : Opnd) :
    BitVec.ofNat 64 (rawBits g l .f32 x &&& (0xFFFFFFFF - signMask .f32)) =
      (BitVec.ofNat 32 (elemBits g l .f32 0 x) &&& 0x7FFFFFFF).setWidth 64 := by
  rw [BitVec.ofNat_and, ofNat_rawBits_f32, BitVec.setWidth_and]; rfl

theorem neg_rawBits_f32 (g : Group) (l : Lane) (x : Opnd) :
    BitVec.ofNat 64 (rawBits g l .f32 x ^^^ signMask .f32) =
      (BitVec.ofNat 32 (elemBits g l .f32 0 x) ^^^ 0x80000000).setWidth 64 := by
  rw [BitVec.ofNat_xor, ofNat_rawBits_f32, BitVec.setWidth_xor]; rfl

theorem abs_rawBits_packed (g : Group) (l : Lane) {t : FTy} (ht : t ≠ .f32) (x : Opnd) :
    BitVec.ofNat 64 (rawBits g l t x &&& (0xFFFFFFFF - signMask t)) =
      ((BitVec.ofNat 16 (elemBits g l (fmtOf t) 1 x) &&& 0x7FFF) ++
        (BitVec.ofNat 16 (elemBits g l (fmtOf t) 0 x) &&& 0x7FFF)).setWidth 64 := by
  rw [BitVec.ofNat_and, ofNat_rawBits_packed g l ht, signMask_packed ht, ← BitVec.and_append, BitVec.setWidth_and]; rfl

theorem neg_rawBits_packed (g : Group) (l : Lane) {t : FTy} (ht : t ≠ .f32) (x : Opnd) :
    BitVec.ofNat 64 (rawBits g l t x ^^^ signMask t) =
      ((BitVec.ofNat 16 (elemBits g l (fmtOf t) 1 x) ^^^ 0x8000) ++
        (BitVec.ofNat 16 (elemBits g l (fmtOf t) 0 x) ^^^ 0x8000)).setWidth 64 := by
  rw [BitVec.ofNat_xor, ofNat_rawBits_packed g l ht, signMask_packed ht, ← BitVec.xor_append, BitVec.setWidth_xor]; rfl

/-! ### FCLASS (R132) -/

theorem exec_fclass (h : Hd) (d a : Opnd) (s : State) : exec (.fclass h d a) s = .next (s.lanes h fun g _ l =>
    { regs := [(d, false, BitVec.ofNat 64 (2 ^ fclassBit (elemBits g l .f32 0 a)))] }) := rfl

/-- The class by the fields of an FP32 word: exponent, fraction, sign, and the fraction's top bit for the kind of a NaN. -/
def classOfFields (ex fr : Nat) (neg quiet : Bool) : Nat :=
  if ex = 255 then (if fr = 0 then (if neg then 0 else 7) else if quiet then 9 else 8)
  else if ex = 0 then (if fr = 0 then (if neg then 3 else 4) else if neg then 2 else 5) else if neg then 1 else 6

/-- The model's class, which it takes from the decoded value, is that of the fields. -/
theorem fclassBit_of_fields {n ex fr : Nat} {neg : Bool} (hex : n / 2 ^ 23 % 2 ^ 8 = ex) (hfr : n % 2 ^ 23 = fr)
    (hneg : n.testBit 31 = neg) : fclassBit n = classOfFields ex fr neg (!decide (fr < 2 ^ 22)) := by
  simp only [fclassBit, Fmt.decode, Fmt.isSub, Fmt.f32, hex, hfr, show n.testBit (8 + 23) = neg from hneg, classOfFields]
  by_cases hmax : ex = 255
  · by_cases hinf : fr = 0
    · cases neg <;> simp [hmax, hinf]
    · by_cases hsig : fr < 0x400000 <;> simp [hmax, hinf, hsig]
  · by_cases hmin : ex = 0
    · by_cases hzero : fr = 0 <;> simp [hmin, hzero]
    · simp [hmax, hmin]

theorem fclassBit_toNat (x : BitVec 32) : fclassBit x.toNat =
    classOfFields (x.extractLsb' 23 8).toNat (x.extractLsb' 0 23).toNat (x.getLsbD 31) (x.getLsbD 22) := by
  have hquiet : x.getLsbD 22 = !decide (x.toNat % 2 ^ 23 < 2 ^ 22) := by
    rw [← BitVec.testBit_toNat, Nat.testBit_eq_decide_div_mod_eq, ← decide_not, decide_eq_decide]
    omega
  rw [fclassBit_of_fields rfl rfl rfl, hquiet, BitVec.extractLsb'_toNat, BitVec.extractLsb'_toNat, Nat.shiftRight_zero,
    Nat.shiftRight_eq_div_pow, BitVec.testBit_toNat]

theorem fclassBit_elemBits (g : Group) (l : Lane) (x : Opnd) :
    let y : BitVec 32 := BitVec.ofNat 32 (elemBits g l .f32 0 x)
    fclassBit (elemBits g l .f32 0 x) =
      classOfFields (y.extractLsb' 23 8).toNat (y.extractLsb' 0 23).toNat (y.getLsbD 31) (y.getLsbD 22) := by
  dsimp only
  rw [← fclassBit_toNat, BitVec.toNat_ofNat, Nat.mod_eq_of_lt (elemBits_f32_lt g l x)]

/-! ### The statement -/

/-- A plain word has neither flush bit. -/
theorem Hd.flushBits_of_plain {h : Hd} (hp : h.plain = true) : BitVec.ofBool h.fi = 0 ∧ BitVec.ofBool h.fo = 0 := by
  simp only [Hd.plain, Bool.and_eq_true, Bool.not_eq_true'] at hp
  obtain ⟨⟨_, hfi⟩, hfo⟩ := hp
  simp [hfi, hfo]

/-- Settles O14: FABS, FNEG and FCLASS run in the shared shape of lane instructions with effects that raise nothing; their values are
masks of the operand's word, and its class. -/
theorem signAndClass : Obligations.SignAndClass := by
  unfold Obligations.SignAndClass
  refine ⟨fun h d a => ?abs, fun h d a => ?neg, fun t ht h d a => ?absPacked, fun t ht h d a => ?negPacked, fun h d a => ?fclass,
    fun h t d a hw => ?absWord, fun h t d a hw => ?negWord, fun h d a hw => ?classWord⟩
  case abs => exact Writes.of_lanes (fun s _ _ _ => by simp only [exec_fabs, abs_rawBits_f32]) fun _ _ _ _ _ => ⟨rfl, rfl⟩
  case neg => exact Writes.of_lanes (fun s _ _ _ => by simp only [exec_fneg, neg_rawBits_f32]) fun _ _ _ _ _ => ⟨rfl, rfl⟩
  case absPacked =>
    exact Writes.of_lanes (fun s _ _ _ => by simp only [exec_fabs, abs_rawBits_packed _ _ ht]) fun _ _ _ _ _ => ⟨rfl, rfl⟩
  case negPacked =>
    exact Writes.of_lanes (fun s _ _ _ => by simp only [exec_fneg, neg_rawBits_packed _ _ ht]) fun _ _ _ _ _ => ⟨rfl, rfl⟩
  case fclass =>
    refine Writes.of_lanes (fun s _ _ _ => ?_) fun _ _ _ _ _ => ⟨rfl, rfl⟩
    simp only [exec_fclass, fclassBit_elemBits]; rfl
  case absWord =>
    obtain ⟨hfi, hfo⟩ := Hd.flushBits_of_plain (Bool.and_eq_true_iff.1 hw).1
    exact ⟨_, rfl, rfl, rfl, hfi, hfo, by cases t <;> rfl⟩
  case negWord =>
    obtain ⟨hfi, hfo⟩ := Hd.flushBits_of_plain (Bool.and_eq_true_iff.1 hw).1
    exact ⟨_, rfl, rfl, rfl, hfi, hfo, by cases t <;> rfl⟩
  case classWord =>
    obtain ⟨hfi, hfo⟩ := Hd.flushBits_of_plain (Bool.and_eq_true_iff.1 hw).1
    exact ⟨_, rfl, rfl, rfl, rfl, hfi, hfo⟩

end Sys2Proof.Machine
end
